-- ==== Sys2Proof/Word.lean ====
section
/-! DEFINITION. The widths of the OL4216's numbers, the instance numbers of its blocks, and tables of fixed size. -/

namespace Sys2Proof

/-- One byte of a frame, a record, a character string or the store (R173). -/
abbrev Byte := BitVec 8

/-- A 16-bit number: an address, an identity, a message key (R3, R72, R153). -/
abbrev Word := BitVec 16

/-- The network cell count; arithmetic on it is modulo 2^24 (R26). -/
abbrev Count := BitVec 24

/-- A 32-bit counter, which stays at its largest value (R16). -/
abbrev Counter := BitVec 32

/-- A set of programme outputs; output n is bit n (R173). -/
abbrev Mask := BitVec 4

/-- Programme outputs 0 to 3. -/
abbrev OutId := Fin 4

/-- Control links CL0 to CL3. -/
abbrev LinkId := Fin 4

/-- Cue lines CI0 to CI7. -/
abbrev LineId := Fin 8

/-- Slots 0 to 7 of the neighbour table. -/
abbrev SlotId := Fin 8

/-- Group sets 0 to 7. -/
abbrev SetId := Fin 8

/-- An exact bit rate in bits per second, `num / den` (R18). -/
structure Rate where
  num : Nat
  den : Nat
  deriving DecidableEq, Repr, Inhabited

/-- A table of exactly `n` items, numbered from 0. -/
structure Table (n : Nat) (α : Type) where
  items : List α
  size_eq : items.length = n
  deriving DecidableEq, Repr

namespace Table

variable {n : Nat} {α β : Type}

def get (t : Table n α) (i : Fin n) : α :=
  t.items[i.val]'(t.size_eq.symm ▸ i.isLt)

def set (t : Table n α) (i : Fin n) (x : α) : Table n α :=
  ⟨t.items.set i.val x, by rw [List.length_set, t.size_eq]⟩

def modify (t : Table n α) (i : Fin n) (f : α → α) : Table n α :=
  t.set i (f (t.get i))

def replicate (n : Nat) (x : α) : Table n α :=
  ⟨List.replicate n x, List.length_replicate⟩

def tabulate (f : Fin n → α) : Table n α :=
  ⟨List.ofFn f, List.length_ofFn⟩

def map (f : α → β) (t : Table n α) : Table n β :=
  ⟨t.items.map f, by rw [List.length_map, t.size_eq]⟩

end Table

end Sys2Proof
end

