-- ==== Sys2Proof/Syntax.lean ====
section
/-! DEFINITION. The commands of the block: one constructor for each row of spec/opcode_table.json. -/

namespace Sys2Proof

/-- The twelve origins of claims: links CL0 to CL3 and cue lines CI0 to CI7 (R84). -/
inductive Origin where
  | link (l : LinkId)
  | cue (c : LineId)
  deriving DecidableEq, Repr

/-- What a link's receiver takes from the line: a byte, or a byte whose stop bit was low (R143). -/
inductive RxByte where
  | good (b : Byte)
  | defective
  deriving DecidableEq, Repr

/-- The rows of the table. A row is one step of the part; its operands are what the outside brings to the step
(log 1, 2, 3). Rows with a `LinkId` and no more are the step in which that link takes its oldest waiting frame. -/
inductive Instr where
  /-- R165, power-on, with the levels of RATE1 and RATE0 that are latched (R143). -/
  | powerOn (rate1 rate0 : Bool)
  /-- R165, RST asserted. -/
  | pinReset
  /-- R168, the restart begins. -/
  | restartBegin
  /-- R19, the timebase makes a boundary. -/
  | cellBoundary
  /-- R23, the boundary at which the qualification count reaches 20. -/
  | lockAcquisition
  /-- R25, the boundary at which the holdover count reaches 12,000. -/
  | holdoverExpiry
  /-- R108, the boundary at which the lead counter of output `p` reaches 0. -/
  | leadEnd (p : OutId)
  /-- R110, the boundary at which the trail counter of output `p` reaches 0. -/
  | trailEnd (p : OutId)
  /-- R97, the boundary at which the claim with this key ends at its hold limit. -/
  | claimHoldExpiry (origin : Origin) (number : Byte)
  /-- R97, the boundary at which the claim with this key ends at its wait limit. -/
  | claimWaitExpiry (origin : Origin) (number : Byte)
  /-- R158, the boundary at which the token count of link `l` reaches its interval. -/
  | tokenGain (l : LinkId)
  /-- R22, a rising edge of REF, `period` femtoseconds after the one before it (log 8). -/
  | refEdge (period : Nat)
  /-- R22, 500 microseconds have passed since the last rising edge of REF. -/
  | refGap
  /-- R28, a rising edge of EPOCH. -/
  | epochStrobe
  /-- R121, the millisecond sample of line `c`: its pin level, and whether the sample falls at the instant of the
  coming boundary and is taken with that boundary's table changes (log 21). -/
  | cueSample (c : LineId) (high coincident : Bool)
  /-- R121, the sample of line `c` at which a change is accepted. -/
  | cueChangeAccepted (c : LineId) (high coincident : Bool)
  /-- R146, a byte has arrived on CLnRX. -/
  | linkByteReceived (l : LinkId) (b : RxByte)
  | unknownCommand (l : LinkId)
  | status (l : LinkId)
  | readRecord (l : LinkId)
  | readCounters (l : LinkId)
  | clearFaults (l : LinkId)
  | setSite (l : LinkId)
  | setGroupset (l : LinkId)
  | setRoute (l : LinkId)
  | setDefaultRoute (l : LinkId)
  | setOutput (l : LinkId)
  | setCue (l : LinkId)
  | setLink (l : LinkId)
  /-- R144, the disable of link `l` that waited for a reply acts. -/
  | linkDisable (l : LinkId)
  /-- R143, the change of rate of link `l` takes effect. -/
  | linkRateChange (l : LinkId)
  | setTiming (l : LinkId)
  | setMonitor (l : LinkId)
  | setAlert (l : LinkId)
  | storeSave (l : LinkId)
  /-- R166, the write and its verify end; `verified` says that every byte read back as written (log 19). -/
  | storeSaveComplete (verified : Bool)
  | reload (l : LinkId)
  | restart (l : LinkId)
  | revoke (l : LinkId)
  | setEpoch (l : LinkId)
  | cancelTimed (l : LinkId)
  | label (l : LinkId)
  | text (l : LinkId)
  | freqlist (l : LinkId)
  | neighbour (l : LinkId)
  | neighbourFlags (l : LinkId)
  | optoutBegin (l : LinkId)
  | optoutEnd (l : LinkId)
  | setInterval (l : LinkId)
  | claim (l : LinkId)
  | release (l : LinkId)
  | tmsgAdd (l : LinkId)
  | tmsgCancel (l : LinkId)
  /-- R19, a bit period ends. -/
  | bitPeriodEnd
  /-- R159, the transmitter of link `l` finishes a byte. -/
  | linkByteSent (l : LinkId)
  deriving DecidableEq, Repr

end Sys2Proof
end

