-- ==== Sys2Proof/Decode.lean ====
section
/-! DEFINITION. The command a table word spells. No row of spec/opcode_table.json gives bits, so no word spells one;
the bytes of frames are read in Sys2Proof/Machine/Operands.lean. -/

namespace Sys2Proof

/-- Every row of the table has an empty list of fields and no fixed bits. -/
def decodeTableWord (_nbits _w : Nat) : Option Instr := none

end Sys2Proof
end

