-- ==== Sys2Proof/Config.lean ====
section
/-! DEFINITION. The free values: what the manual leaves open and no proof may know. -/

namespace Sys2Proof

/-- Which of the table changes that meet at one boundary is taken next: R99 takes them "in either order" (log 11).
The argument is the number of free values drawn before. -/
opaque Config.freePick : Nat → Nat

/-- The LOCKED rate of a cell that follows a cell in which no REF period ended, for which R18 states no average
(log 9). The argument is the number of free values drawn before. -/
opaque Config.freeRate : Nat → Rate

end Sys2Proof
end

