-- ==== Sys2Proof/Machine/Types.lean ====
section
/-! DEFINITION. The named values, settings and records of the part: what State is made of. -/

namespace Sys2Proof.Machine

/-! ### Names -/

/-- The two timing modes (R20). -/
inductive TimingMode where
  | master | slave
  deriving DecidableEq, Repr

/-- The lock states (R18). -/
inductive LockState where
  | free | locked | holdover
  deriving DecidableEq, Repr

/-- Whether the first boundary of R19 has been made, and after which kind of reset it is awaited: after a power-on
the first cell has count 0, after any other reset the retained count plus 1 (R26, R35). -/
inductive Start where
  | afterPowerOn | afterReset | running
  deriving DecidableEq, Repr

/-- What the measurement of REF has seen (R22, log 10). -/
inductive RefWatch where
  | noEdge | edgeSeen | gapSeen
  deriving DecidableEq, Repr

/-- The two variants of an output's content (section 3). -/
inductive Variant where
  | n | r
  deriving DecidableEq, Repr

/-- An output's source (R36). -/
inductive Source where
  | network | regional
  deriving DecidableEq, Repr

/-- The phases of a sequencer (R107 to R110). -/
inductive Phase where
  | quiet | onset | onAir | trail
  deriving DecidableEq, Repr

/-- The claim classes (R84). -/
inductive ClaimClass where
  | traffic | trafficUrgent | roadWeather | test
  deriving DecidableEq, Repr

/-- The claim kinds (R84). -/
inductive ClaimKind where
  | link | levelCue | pulseCue
  deriving DecidableEq, Repr

/-- The status of a claim on an output (R85). -/
inductive ClaimStatus where
  | notTarget | ineligible | waiting | current
  deriving DecidableEq, Repr

/-- Why a claim ended (R100). -/
inductive EndReason where
  | released | overrun | elapsed | stale | displaced | revoked
  deriving DecidableEq, Repr

/-- The modes of a cue line (R119). -/
inductive CueMode where
  | off | level | pulse
  deriving DecidableEq, Repr

/-- Which pin level of a cue line counts as active (R119). -/
inductive Polarity where
  | activeHigh | activeLow
  deriving DecidableEq, Repr

/-- What a cue line asks of the claim manager (R93). -/
inductive CueRequest where
  | entry | retrigger | finish
  deriving DecidableEq, Repr

/-- The line rates (R143). -/
inductive LineRate where
  | r9600 | r19200 | r38400 | r57600 | r115200
  deriving DecidableEq, Repr

/-- The receive states (R146). -/
inductive RecvState where
  | hunt | length | body | check
  deriving DecidableEq, Repr

/-- How a route term combines its two tests (R155). -/
inductive Combiner where
  | and | or
  deriving DecidableEq, Repr

/-- Where the live content came from at the last reset (R165). -/
inductive ContentOrigin where
  | store | retained | defaults
  deriving DecidableEq, Repr

/-- The five sticky fault flags (R169). -/
inductive FaultFlag where
  | configDefaults | refLost | timebaseJump | saveFailed | frameLoss
  deriving DecidableEq, Repr

/-- The cell kinds (R4). -/
inductive CellKind where
  | filler | label | freq | text | tmsg | neighbour | announce
  deriving DecidableEq, Repr

/-- The six services, in the fixed service order (R56). -/
inductive Service where
  | announce | tmsg | label | freq | neighbour | text
  deriving DecidableEq, Repr

/-- The classes of commands (R157). -/
inductive CmdClass where
  | content | announce | traffic | timing | settings
  deriving DecidableEq, Repr

/-- The statuses of replies (R175). -/
inductive Status where
  | ok | queued | lateApplied
  | unknownCommand | badParam | denied | budget | noTarget | busy | notTimeable
  | duplicate | tableFull | noClaim | poolFull | notFound | queueFull | tooFar | noVariant
  deriving DecidableEq, Repr

/-- The commands of the part (R176). -/
inductive Cmd where
  | status | readRecord | readCounters | clearFaults
  | setSite | setGroupset | setRoute | setDefaultRoute | setOutput | setCue | setLink | setTiming | setMonitor
  | setAlert | storeSave | reload | restart | revoke | setEpoch | cancelTimed
  | label | text | freqlist | neighbour | neighbourFlags | optoutBegin | optoutEnd | setInterval
  | claim | release | tmsgAdd | tmsgCancel
  deriving DecidableEq, Repr

/-! ### Settings (section 11.1) -/

/-- A slot of the site address list (R153). -/
structure SiteSlot where
  address : Word
  enable : Bool
  deriving DecidableEq, Repr

/-- A route term; a test that is absent is `none` (R155). -/
structure RouteTerm where
  enable : Bool
  addressTest : Option (Fin 16)
  groupTest : Option SetId
  combiner : Combiner
  deriving DecidableEq, Repr

/-- A route table entry (R155). -/
structure RouteEntry where
  enable : Bool
  dest : Mask
  terms : Table 4 RouteTerm
  deriving DecidableEq, Repr

/-- The settings of one output (R163, R57). -/
structure OutSettings where
  enable : Bool
  tc : Bool
  netId : Word
  regId : Word
  accNet : SetId
  accReg : SetId
  lead : Nat
  trail : Nat
  burst : Nat
  intervals : Table 6 Nat
  deriving DecidableEq, Repr

/-- The settings of one cue line; the last six are its claim template (R119). -/
structure CueSettings where
  mode : CueMode
  polarity : Polarity
  debounce : Nat
  cls : ClaimClass
  priority : Nat
  group : Byte
  target : Mask
  holdLimit : Nat
  waitLimit : Nat
  deriving DecidableEq, Repr

/-- The settings of one link (R164). -/
structure LinkSettings where
  enable : Bool
  rate : LineRate
  perms : BitVec 5
  pause : Nat
  resume : Nat
  interval : Nat
  deriving DecidableEq, Repr

/-- The running settings (R162). A group set is 256 membership bits, one for each code (R154). -/
structure Settings where
  sites : Table 16 SiteSlot
  groupSets : Table 8 (BitVec 256)
  routes : Table 16 RouteEntry
  defaultMask : Mask
  outputs : Table 4 OutSettings
  cues : Table 8 CueSettings
  links : Table 4 LinkSettings
  mode : TimingMode
  monitor : Option OutId
  alertMask : BitVec 5
  deriving DecidableEq, Repr

/-! ### Content (section 3) -/

/-- A label with the programme category that travels with it (R39). -/
structure Label where
  chars : List Byte
  category : Nat
  deriving DecidableEq, Repr

/-- TC, AN and RG (R49). -/
structure Flags3 where
  tc : Bool
  an : Bool
  rg : Bool
  deriving DecidableEq, Repr

/-- A used neighbour record (section 3.8). -/
structure Neighbour where
  identity : Word
  label : List Byte
  freq : Nat
  carriers : Mask
  link : Option OutId
  ext : Flags3
  deriving DecidableEq, Repr

/-- The content of one variant (R39, R40). -/
structure VariantContent where
  label : Label
  staged : Option Label
  text : List Byte
  stagedText : Option (List Byte)
  deriving DecidableEq, Repr

/-- The five content counters of an output (R48). -/
structure ContentCounters where
  labelCommits : Counter
  textCommits : Counter
  listCommits : Counter
  superseded : Counter
  sourceSwitches : Counter
  deriving DecidableEq, Repr

/-- What the content store holds for one output. -/
structure OutContent where
  source : Source
  requested : Source
  varN : VariantContent
  varR : VariantContent
  freqs : List Nat
  stagedFreqs : Option (List Nat)
  labelShown : Variant
  textShown : Variant
  labelPos : Nat
  textPos : Nat
  freqPos : Nat
  nbSlot : SlotId
  nbSeg : Bool
  textVersion : Byte
  lv : Bool
  counters : ContentCounters
  deriving DecidableEq, Repr

/-- The content store. `prevAn` holds for each slot the AN its record carried for the cell before, `none` where the
slot was unused then (R53). -/
structure Content where
  outs : Table 4 OutContent
  neighbours : Table 8 (Option Neighbour)
  prevAn : Table 8 (Option Bool)
  deriving DecidableEq, Repr

/-- The default content of the store image: what of the content is saved (section 11.2, R54). -/
structure SavedContent where
  labels : Table 4 (Table 2 Label)
  texts : Table 4 (Table 2 (List Byte))
  freqs : Table 4 (List Nat)
  neighbours : Table 8 (Option Neighbour)
  deriving DecidableEq, Repr

/-! ### Claims (section 6) -/

/-- A claim's key (R84). -/
structure ClaimKey where
  origin : Origin
  number : Byte
  deriving DecidableEq, Repr

/-- A claim as a sequencer names it: the same claim has the same key and the same stamp (R106). -/
structure ClaimRef where
  key : ClaimKey
  stamp : Counter
  deriving DecidableEq, Repr

/-- A claim record (R84). -/
structure Claim where
  key : ClaimKey
  kind : ClaimKind
  cls : ClaimClass
  priority : Nat
  group : Byte
  target : Mask
  holdLimit : Nat
  waitLimit : Nat
  holdUsed : Counter
  waitUsed : Counter
  stamp : Counter
  status : Table 4 ClaimStatus
  deriving DecidableEq, Repr

/-- A last-ended record (R101). -/
structure Ended where
  number : Byte
  cls : ClaimClass
  reason : EndReason
  count : Count
  onAir : Counter
  deriving DecidableEq, Repr

/-- The eight claim counters; the six end counters stand in the order of R102. -/
structure ClaimCounters where
  admitted : Counter
  refusedFull : Counter
  ended : Table 6 Counter
  deriving DecidableEq, Repr

/-- The claim manager; `lastEnded` runs CL0 to CL3, then CI0 to CI7 (R101). -/
structure ClaimManager where
  table : List Claim
  nextStamp : Counter
  lastEnded : Table 12 (Option Ended)
  counters : ClaimCounters
  deriving DecidableEq, Repr

/-! ### Message pool (section 5) -/

/-- A traffic message record; its arrival position is its place in the pool's list (R72). -/
structure PoolRecord where
  key : Word
  content : BitVec 48
  target : Mask
  spacing : Nat
  repeats : Table 4 Nat
  nextEligible : Table 4 Count
  deriving DecidableEq, Repr

/-- The four pool counters (R82). -/
structure PoolCounters where
  added : Counter
  replaced : Counter
  cancelled : Counter
  refusedFull : Counter
  deriving DecidableEq, Repr

/-- The message pool, oldest record first (R72). -/
structure Pool where
  records : List PoolRecord
  counters : PoolCounters
  deriving DecidableEq, Repr

/-! ### Timed operations (section 9) -/

/-- A timeable command with its values as the arrival checks left them (R130, R131). -/
inductive TimedCmd where
  | label (v : Variant) (l : Label)
  | text (v : Variant) (chars : List Byte)
  | freqlist (codes : List Nat)
  | neighbour (slot : SlotId) (identity : Word) (freq : Nat) (carriers : Mask) (link : Option OutId)
      (chars : List Byte)
  | neighbourFlags (slot : SlotId) (flags : Flags3)
  | optoutBegin
  | optoutEnd
  | setInterval (service : Service) (value : Nat)
  | claim (number : Byte) (cls : ClaimClass) (priority : Nat) (group : Byte) (holdLimit waitLimit : Nat)
  | release (number : Byte)
  | tmsgAdd (key : Word) (content : BitVec 48) (repeats spacing : Nat)
  | tmsgCancel (key : Word)
  deriving DecidableEq, Repr

/-- A timed entry (R133). -/
structure QueueEntry where
  cell : Count
  link : LinkId
  tag : Byte
  cmd : TimedCmd
  target : Mask
  deriving DecidableEq, Repr

/-- A last timed result record (R137). -/
structure TimedResult where
  tag : Byte
  cmd : Cmd
  status : Status
  count : Count
  deriving DecidableEq, Repr

/-- The nine queue counters (R141). -/
structure QueueCounters where
  queued : Counter
  lateAtArrival : Counter
  refusedTooFar : Counter
  refusedFull : Counter
  applied : Counter
  failed : Counter
  appliedLate : Counter
  discarded : Counter
  cancelled : Counter
  deriving DecidableEq, Repr

/-- The activation queue, in queue order (R133). -/
structure Queue where
  entries : List QueueEntry
  results : Table 4 (Option TimedResult)
  counters : QueueCounters
  deriving DecidableEq, Repr

/-! ### Timebase (section 2) -/

/-- The six timebase counters (R34). -/
structure TimebaseCounters where
  acquisitions : Counter
  holdoverEntries : Counter
  holdoverExpiries : Counter
  aligned : Counter
  realignments : Counter
  jumps : Counter
  deriving DecidableEq, Repr

/-- The timebase. `judged` says that the cell in progress began after the qualification count was last cleared by a
change of mode or lock state (R23). `refBad`, `refPeriods` and `refTime` (femtoseconds) are what the cell in progress
has seen of REF (R22, R18). -/
structure Timebase where
  start : Start
  lock : LockState
  qual : Nat
  holdover : Nat
  rate : Rate
  lockedRate : Rate
  count : Count
  arm : Option Count
  bitPos : Nat
  markThis : Bool
  markNext : Option Count
  judged : Bool
  refWatch : RefWatch
  refBad : Bool
  refPeriods : Nat
  refTime : Nat
  epout : Bool
  epoutEnds : Nat
  counters : TimebaseCounters
  deriving DecidableEq, Repr

/-! ### Lanes (sections 1, 4 and 7) -/

/-- What a cell carries between sync and the end (R1). -/
structure Cell where
  identity : Word
  control : Byte
  payload : BitVec 64
  check : Word
  deriving DecidableEq, Repr

/-- The cell assembler and serialiser of an output (R11, R16); the kind counters are numbered by kind code. -/
structure Assembler where
  cell : Option Cell
  dout : Bool
  dck : Bool
  kinds : Table 7 Counter
  truncated : Counter
  deriving DecidableEq, Repr

/-- A claim view (R112). -/
structure ClaimView where
  cls : ClaimClass
  group : Byte
  holdUsed : Counter
  deriving DecidableEq, Repr

/-- The six signalling counters (R117). -/
structure SeqCounters where
  onsets : Counter
  aborted : Counter
  handovers : Counter
  onAirEnds : Counter
  resumptions : Counter
  drops : Counter
  deriving DecidableEq, Repr

/-- An announcement sequencer (section 7). -/
structure Sequencer where
  phase : Phase
  current : Option ClaimRef
  lead : Nat
  trail : Nat
  burst : Nat
  view : Option ClaimView
  co : Bool
  counters : SeqCounters
  deriving DecidableEq, Repr

/-- A running neighbour burst: its slot, and whether its next segment is segment 1 (R61). -/
structure NbBurst where
  slot : SlotId
  second : Bool
  deriving DecidableEq, Repr

/-- A cell scheduler; its tables are numbered in the fixed service order (R56, R61, R70). -/
structure Scheduler where
  ages : Table 6 Nat
  late : Table 6 Counter
  largest : Table 6 Nat
  nbPending : Option SlotId
  nbRunning : Option NbBurst
  begun : Counter
  replaced : Counter
  endedEarly : Counter
  deriving DecidableEq, Repr

/-- One output's lane; `run` is its run state (R13, R14). -/
structure Lane where
  run : Bool
  asm : Assembler
  seq : Sequencer
  sched : Scheduler
  deriving DecidableEq, Repr

/-- The monitor output: the output it copies since the last boundary, and its pins (R15). -/
structure Monitor where
  source : Option OutId
  mon : Bool
  monck : Bool
  deriving DecidableEq, Repr

/-! ### Cue lines (section 8) -/

/-- A capture record (R122). -/
structure Capture where
  active : Bool
  count : Count
  bit : Nat
  deriving DecidableEq, Repr

/-- The five cue counters of a line (R128). -/
structure CueCounters where
  accepted : Counter
  bounces : Counter
  admitted : Counter
  failures : Counter
  retriggers : Counter
  deriving DecidableEq, Repr

/-- The working state of a cue line. `due` is a request that waits for the coming boundary's table changes (R121,
R126, log 21). -/
structure CueLine where
  active : Bool
  debounce : Nat
  capture : Option Capture
  pending : Bool
  due : Option CueRequest
  counters : CueCounters
  deriving DecidableEq, Repr

/-! ### Links and router (section 10) -/

/-- A reply frame in the reply buffer: its bytes not yet sent (length, body, check word, unescaped), whether its
start byte has been sent, and whether the escape byte before its next byte has been sent (R159, log 15). -/
structure Reply where
  begun : Bool
  escaped : Bool
  bytes : List Byte
  deriving DecidableEq, Repr

/-- The byte a transmitter is sending: HOLD or GO, the start byte of the first reply, an escape byte, a byte that
carries the reply's next byte, or a byte whose frame has been given up. -/
inductive TxByte where
  | ctrl (b : Byte)
  | start
  | escape
  | data (b : Byte)
  | cut (b : Byte)
  deriving DecidableEq, Repr

/-- A place in a link's outgoing stream: how many reply bytes, and how many HOLD and GO bytes, are still to be sent
before it (R143, R144, R168). -/
structure Mark where
  reply : Nat
  ctrl : Nat
  deriving DecidableEq, Repr

/-- A change of line rate that waits for the bytes placed before it (R143). -/
structure RateChange where
  after : Mark
  rate : LineRate
  deriving DecidableEq, Repr

/-- The seven counters of a link (R160). -/
structure LinkCounters where
  good : Counter
  checkErrors : Counter
  overruns : Counter
  notForUs : Counter
  refusals : Counter
  dropped : Counter
  timedFailures : Counter
  deriving DecidableEq, Repr

/-- The working state of a link. `stored` holds the stored bytes of the frame in progress, `waiting` the bodies of the
complete frames, oldest first (R148). -/
structure LinkState where
  on : Bool
  rate : LineRate
  rateChanges : List RateChange
  recv : RecvState
  escape : Bool
  stored : List Byte
  waiting : List (List Byte)
  holdOut : Bool
  ctrl : List Byte
  tx : Option TxByte
  replies : List Reply
  tokens : Nat
  tokenCount : Nat
  disableAt : Option Mark
  restartAt : Option Mark
  counters : LinkCounters
  deriving DecidableEq, Repr

/-- The eighteen counters of the router (R160). -/
structure RouterCounters where
  matched : Table 16 Counter
  defaultUses : Counter
  discards : Counter
  deriving DecidableEq, Repr

/-! ### Settings and store controller (section 11) -/

/-- The store, the fault flags and ALERT. `image` holds the store's bytes from its first byte as far as a completed
write has given them; it is empty while a write is under way and after one that did not complete (R166, log 19). -/
structure StoreCtl where
  image : List Byte
  saving : Option (List Byte)
  faults : BitVec 5
  origin : ContentOrigin
  alert : Bool
  rate1 : Bool
  rate0 : Bool
  deriving DecidableEq, Repr

end Sys2Proof.Machine
end

