-- ==== Sys2Proof/Machine/Builtin.lean ====
section
/-! DEFINITION. The built-in settings and content (R165) and the values each block's working state takes at a reset. -/

namespace Sys2Proof.Machine

/-- The nominal rate, 7.296 MHz / 3200 = 2280 bit/s (R18). -/
def nominalRate : Rate := ⟨2280, 1⟩

/-- The strap rate of the levels of RATE1 and RATE0 (R143). -/
def strapRate : Bool → Bool → LineRate
  | false, false => .r9600
  | false, true => .r19200
  | true, false => .r38400
  | true, true => .r115200

/-- The default intervals in the fixed service order (R56). -/
def defaultIntervals : Table 6 Nat := ⟨[40, 6, 4, 10, 16, 20], rfl⟩

/-- A term of a built-in entry; R165 gives only that the entry is disabled (log 39). -/
def builtinTerm : RouteTerm := { enable := false, addressTest := none, groupTest := none, combiner := .and }

/-- R165: a disabled entry; its mask and terms are the model's choice (log 39). -/
def builtinRoute : RouteEntry := { enable := false, dest := 0, terms := .replicate 4 builtinTerm }

def builtinOutput : OutSettings :=
  { enable := false, tc := false, netId := 1, regId := 0, accNet := 0, accReg := 0, lead := 6, trail := 10,
    burst := 4, intervals := defaultIntervals }

/-- R119: every line OFF when the image is invalid. -/
def builtinCue : CueSettings :=
  { mode := .off, polarity := .activeHigh, debounce := 10, cls := .traffic, priority := 0, group := 0, target := 0,
    holdLimit := 0, waitLimit := 0 }

def builtinLink (rate : LineRate) : LinkSettings :=
  { enable := true, rate := rate, perms := 31, pause := 768, resume := 256, interval := 2 }

/-- R153: slot 0 holds 0xFFFE and is enabled, every other slot is disabled and holds 0 (R165). -/
def builtinSites : Table 16 SiteSlot :=
  (Table.replicate 16 { address := 0, enable := false }).set 0 { address := 0xFFFE, enable := true }

/-- The built-in settings of R165; the links run at the strap rate. -/
def builtinSettings (rate : LineRate) : Settings :=
  { sites := builtinSites, groupSets := .replicate 8 0, routes := .replicate 16 builtinRoute, defaultMask := 0,
    outputs := .replicate 4 builtinOutput, cues := .replicate 8 builtinCue,
    links := .replicate 4 (builtinLink rate), mode := .master, monitor := none, alertMask := 31 }

/-- Eight spaces with category 0 (R54). -/
def builtinLabel : Label := { chars := List.replicate 8 0x20, category := 0 }

def builtinContent : SavedContent :=
  { labels := .replicate 4 (.replicate 2 builtinLabel), texts := .replicate 4 (.replicate 2 []),
    freqs := .replicate 4 [], neighbours := .replicate 8 none }

/-! ### Working state after a reset -/

def resetTimebaseCounters : TimebaseCounters :=
  { acquisitions := 0, holdoverEntries := 0, holdoverExpiries := 0, aligned := 0, realignments := 0, jumps := 0 }

/-- R35, with the count the reset leaves: 0 at a power-on, the count as it stood at any other reset. -/
def resetTimebase (start : Start) (count : Count) : Timebase :=
  { start := start, lock := .free, qual := 0, holdover := 0, rate := nominalRate, lockedRate := nominalRate,
    count := count, arm := none, bitPos := 0, markThis := false, markNext := none, judged := false,
    refWatch := .noEdge, refBad := false, refPeriods := 0, refTime := 0, epout := false, epoutEnds := 0,
    counters := resetTimebaseCounters }

def resetContentCounters : ContentCounters :=
  { labelCommits := 0, textCommits := 0, listCommits := 0, superseded := 0, sourceSwitches := 0 }

/-- The live content an image or the built-in values give one variant; nothing is staged (R54). -/
def freshVariant (label : Label) (text : List Byte) : VariantContent :=
  { label := label, staged := none, text := text, stagedText := none }

/-- One output's content after a power-on (R54). -/
def freshOutContent (saved : SavedContent) (p : OutId) : OutContent :=
  { source := .network, requested := .network,
    varN := freshVariant ((saved.labels.get p).get 0) ((saved.texts.get p).get 0),
    varR := freshVariant ((saved.labels.get p).get 1) ((saved.texts.get p).get 1),
    freqs := saved.freqs.get p, stagedFreqs := none, labelShown := .n, textShown := .n, labelPos := 0, textPos := 0,
    freqPos := 0, nbSlot := 0, nbSeg := false, textVersion := 0, lv := false, counters := resetContentCounters }

/-- The content store after a power-on (R54). -/
def freshContent (saved : SavedContent) : Content :=
  { outs := .tabulate (freshOutContent saved), neighbours := saved.neighbours, prevAn := .replicate 8 none }

def resetSeqCounters : SeqCounters :=
  { onsets := 0, aborted := 0, handovers := 0, onAirEnds := 0, resumptions := 0, drops := 0 }

/-- R118. -/
def resetSequencer : Sequencer :=
  { phase := .quiet, current := none, lead := 0, trail := 0, burst := 0, view := none, co := false,
    counters := resetSeqCounters }

/-- R71. -/
def resetScheduler : Scheduler :=
  { ages := .replicate 6 0, late := .replicate 6 0, largest := .replicate 6 0, nbPending := none, nbRunning := none,
    begun := 0, replaced := 0, endedEarly := 0 }

/-- R17. -/
def resetAssembler : Assembler :=
  { cell := none, dout := false, dck := false, kinds := .replicate 7 0, truncated := 0 }

def resetLane : Lane := { run := false, asm := resetAssembler, seq := resetSequencer, sched := resetScheduler }

/-- R17. -/
def resetMonitor : Monitor := { source := none, mon := false, monck := false }

/-- R103. -/
def resetClaims : ClaimManager :=
  { table := [], nextStamp := 0, lastEnded := .replicate 12 none,
    counters := { admitted := 0, refusedFull := 0, ended := .replicate 6 0 } }

/-- R83. -/
def resetPool : Pool :=
  { records := [], counters := { added := 0, replaced := 0, cancelled := 0, refusedFull := 0 } }

def resetQueueCounters : QueueCounters :=
  { queued := 0, lateAtArrival := 0, refusedTooFar := 0, refusedFull := 0, applied := 0, failed := 0,
    appliedLate := 0, discarded := 0, cancelled := 0 }

/-- R142. -/
def resetQueue : Queue := { entries := [], results := .replicate 4 none, counters := resetQueueCounters }

def resetCueCounters : CueCounters := { accepted := 0, bounces := 0, admitted := 0, failures := 0, retriggers := 0 }

/-- R129. -/
def resetCueLine : CueLine :=
  { active := false, debounce := 0, capture := none, pending := false, due := none, counters := resetCueCounters }

def resetLinkCounters : LinkCounters :=
  { good := 0, checkErrors := 0, overruns := 0, notForUs := 0, refusals := 0, dropped := 0, timedFailures := 0 }

/-- The flow-control byte HOLD (R145). -/
def holdByte : Byte := 0xC3

/-- The flow-control byte GO (R145). -/
def goByte : Byte := 0xC1

/-- R161; an enabled link sends one GO as its first byte (R149), so its transmitter starts on it at the reset. -/
def resetLink (cfg : LinkSettings) : LinkState :=
  { on := cfg.enable, rate := cfg.rate, rateChanges := [], recv := .hunt, escape := false, stored := [], waiting := [],
    holdOut := false, ctrl := [], tx := if cfg.enable then some (.ctrl goByte) else none, replies := [],
    tokens := 32, tokenCount := 0, disableAt := none, restartAt := none, counters := resetLinkCounters }

/-- R161. -/
def resetRouter : RouterCounters := { matched := .replicate 16 0, defaultUses := 0, discards := 0 }

end Sys2Proof.Machine
end

