-- ==== Sys2Proof/Machine/State.lean ====
section
/-! DEFINITION. The state of the part, why a step can stop, and the state after reset. -/

namespace Sys2Proof.Machine

/-- Why the block could stop. No meaning of the model answers a fault: the spec gives every step an effect. The type
is here because a step's outcome needs one. -/
inductive Fault where
  /-- Raised by no meaning. Safe: a claim that rules it out is true of the model. -/
  | halted
  deriving DecidableEq, Repr

/-- Why a command has no meaning. -/
inductive Refusal where
  /-- Raised by an arm of `exec` whose command has no meaning yet; no arm is such an arm. Safe: nothing is said of
  the command. -/
  | notModelled (mnemonic : String)
  deriving DecidableEq, Repr

/-- The whole part. `prevAn`, `judged` and the like are state the rules imply; `draws` counts the free values drawn
(log 22) and `pending` holds the commands that wait, first in first out (log 27): these two are the model's own. -/
structure State where
  settings : Settings
  tb : Timebase
  content : Content
  lanes : Table 4 Lane
  monitor : Monitor
  claims : ClaimManager
  pool : Pool
  queue : Queue
  cues : Table 8 CueLine
  links : Table 4 LinkState
  router : RouterCounters
  store : StoreCtl
  draws : Nat
  pending : List Instr
  deriving DecidableEq, Repr

/-- The part right after a power-on with a store never written and both rate straps low (R165, log 6): built-in
settings and content, CONFIG_DEFAULTS set, ALERT asserted, no boundary made yet. -/
def State.reset : State :=
  { settings := builtinSettings .r9600
    tb := resetTimebase .afterPowerOn 0
    content := freshContent builtinContent
    lanes := .replicate 4 resetLane
    monitor := resetMonitor
    claims := resetClaims
    pool := resetPool
    queue := resetQueue
    cues := .replicate 8 resetCueLine
    links := .replicate 4 (resetLink (builtinLink .r9600))
    router := resetRouter
    store := { image := [], saving := none, faults := 1, origin := .defaults, alert := true, rate1 := false,
               rate0 := false }
    draws := 0
    pending := [] }

end Sys2Proof.Machine
end

