-- ==== Sys2Proof/Machine/Bits.lean ====
section
/-! DEFINITION. Bytes, the check word, characters, saturating counters: the small computations every block shares. -/

namespace Sys2Proof.Machine

/-! ### Numbers and bytes (R173) -/

/-- The number a list of bytes spells, most significant byte first (R173). -/
def natOf (bs : List Byte) : Nat :=
  bs.foldl (fun acc b => acc * 256 + b.toNat) 0

/-- The `k` bytes of a number, most significant byte first (R173). -/
def bytesOf : Nat → Nat → List Byte
  | 0, _ => []
  | k + 1, v => BitVec.ofNat 8 (v / 256 ^ k) :: bytesOf k v

/-- The byte at offset `i`. -/
def byteAt (bs : List Byte) (i : Nat) : Byte := bs.getD i 0

/-- The `k`-byte number at offset `i` (R173). -/
def natAt (bs : List Byte) (i k : Nat) : Nat := natOf ((bs.drop i).take k)

/-- The `k` bytes at offset `i`. -/
def slice (bs : List Byte) (i k : Nat) : List Byte := (bs.drop i).take k

/-- The instance number `v`, if the part has one so numbered. -/
def index? (n v : Nat) : Option (Fin n) :=
  if h : v < n then some ⟨v, h⟩ else none

def boolByte (b : Bool) : Byte := if b then 1 else 0

/-- A mask byte as sent: bits 7 to 4 are 0 (R173). -/
def maskByte (m : Mask) : Byte := m.setWidth 8

/-- A mask byte as received: bits 7 to 4 are ignored (R173). -/
def maskOf (b : Byte) : Mask := b.setWidth 4

/-- Output `p` is in the mask (R173). -/
def inMask (m : Mask) (p : OutId) : Bool := m.getLsbD p.val

/-- The numbers of the four outputs, the order in which a walk over them is made. -/
def outputs : List OutId := [0, 1, 2, 3]

/-! ### The check word (R5) -/

/-- One bit of the 16-bit check of R5. -/
def crcBit (reg : Word) (bit : Bool) : Word :=
  if reg.msb != bit then (reg <<< 1) ^^^ 0x1021 else reg <<< 1

/-- One byte of the check, most significant bit first (R5). -/
def crcByte (reg : Word) (b : Byte) : Word :=
  [7, 6, 5, 4, 3, 2, 1, 0].foldl (fun r i => crcBit r (b.getLsbD i)) reg

/-- The check word over a run of bytes, from all ones (R5). -/
def crc (bs : List Byte) : Word := bs.foldl crcByte 0xFFFF

/-! ### Counters -/

/-- A 32-bit counter counts one and stays at 4,294,967,295 (R16, R34, R48, R70, R82, R102, R117, R128, R141, R160). -/
def satInc (c : Counter) : Counter := if c = BitVec.allOnes 32 then c else c + 1

/-- A 32-bit counter counts `n`. -/
def satAdd (c : Counter) (n : Nat) : Counter := BitVec.ofNat 32 (min (c.toNat + n) 4294967295)

/-- `satInc` where the event happened. -/
def satIncIf (b : Bool) (c : Counter) : Counter := if b then satInc c else c

/-! ### Characters (R38) -/

/-- The printable set, 0x20 to 0x7E. -/
def printable (b : Byte) : Bool := decide (0x20 ≤ b.toNat) && decide (b.toNat ≤ 0x7E)

/-- R38: a byte outside the printable set is replaced by the space. -/
def cleanChars (bs : List Byte) : List Byte := bs.map fun b => if printable b then b else 0x20

/-- R38: some byte is replaced. -/
def anyReplaced (bs : List Byte) : Bool := bs.any fun b => !printable b

/-- The first `k` characters, with spaces past the end (R6, R7, R9, R173). -/
def padTo (k : Nat) (bs : List Byte) : List Byte := (bs ++ List.replicate k 0x20).take k

/-- `n / k` rounded up: segment and chunk totals (R6, R7). -/
def ceilDiv (n k : Nat) : Nat := (n + k - 1) / k

/-! ### Codes of R174, R176 and R177 -/

def Variant.code : Variant → Byte
  | .n => 0 | .r => 1

def Source.code : Source → Byte
  | .network => 0 | .regional => 1

/-- The variant that is active under a source (section 3). -/
def Source.variant : Source → Variant
  | .network => .n | .regional => .r

def CellKind.index : CellKind → Fin 7
  | .filler => 0 | .label => 1 | .freq => 2 | .text => 3 | .tmsg => 4 | .neighbour => 5 | .announce => 6

/-- The kind code of the control field (R4). -/
def CellKind.code (k : CellKind) : Nat := k.index.val

/-- The place of a service in the fixed service order (R56). -/
def Service.index : Service → Fin 6
  | .announce => 0 | .tmsg => 1 | .label => 2 | .freq => 3 | .neighbour => 4 | .text => 5

/-- The fixed service order (R56). -/
def services : List Service := [.announce, .tmsg, .label, .freq, .neighbour, .text]

/-- The cell kind a service produces (R56). -/
def Service.kind : Service → CellKind
  | .announce => .announce | .tmsg => .tmsg | .label => .label | .freq => .freq | .neighbour => .neighbour
  | .text => .text

def Phase.code : Phase → Byte
  | .quiet => 0 | .onset => 1 | .onAir => 2 | .trail => 3

def ClaimClass.code : ClaimClass → Byte
  | .traffic => 1 | .trafficUrgent => 2 | .roadWeather => 3 | .test => 4

def ClaimKind.code : ClaimKind → Byte
  | .link => 0 | .levelCue => 1 | .pulseCue => 2

def ClaimStatus.code : ClaimStatus → Nat
  | .notTarget => 0 | .ineligible => 1 | .waiting => 2 | .current => 3

def EndReason.index : EndReason → Fin 6
  | .released => 0 | .overrun => 1 | .elapsed => 2 | .stale => 3 | .displaced => 4 | .revoked => 5

def EndReason.code (r : EndReason) : Byte := BitVec.ofNat 8 r.index.val

/-- Links 0 to 3, then cue lines 4 to 11 (R171, R176). -/
def originIndex : Origin → Fin 12
  | .link l => ⟨l.val, by omega⟩
  | .cue c => ⟨c.val + 4, by omega⟩

def originCode (o : Origin) : Byte := BitVec.ofNat 8 (originIndex o).val

/-- The origin code of R176. -/
def originOf (b : Byte) : Option Origin :=
  if h : b.toNat < 4 then some (.link ⟨b.toNat, h⟩)
  else if h : b.toNat - 4 < 8 then some (.cue ⟨b.toNat - 4, h⟩) else none

def TimingMode.code : TimingMode → Byte
  | .master => 0 | .slave => 1

def LockState.code : LockState → Byte
  | .free => 0 | .locked => 1 | .holdover => 2

def ContentOrigin.code : ContentOrigin → Byte
  | .store => 0 | .retained => 1 | .defaults => 2

def CueMode.code : CueMode → Byte
  | .off => 0 | .level => 1 | .pulse => 2

def Polarity.code : Polarity → Byte
  | .activeHigh => 0 | .activeLow => 1

def LineRate.code : LineRate → Byte
  | .r9600 => 0 | .r19200 => 1 | .r38400 => 2 | .r57600 => 3 | .r115200 => 4

def variantOf (b : Byte) : Option Variant :=
  if b = 0 then some .n else if b = 1 then some .r else none

def serviceOf (b : Byte) : Option Service := services[b.toNat]?

def classOf (b : Byte) : Option ClaimClass :=
  if b = 1 then some .traffic else if b = 2 then some .trafficUrgent else if b = 3 then some .roadWeather
  else if b = 4 then some .test else none

def timingModeOf (b : Byte) : Option TimingMode :=
  if b = 0 then some .master else if b = 1 then some .slave else none

def cueModeOf (b : Byte) : Option CueMode :=
  if b = 0 then some .off else if b = 1 then some .level else if b = 2 then some .pulse else none

def polarityOf (b : Byte) : Option Polarity :=
  if b = 0 then some .activeHigh else if b = 1 then some .activeLow else none

def lineRateOf (b : Byte) : Option LineRate :=
  if b = 0 then some .r9600 else if b = 1 then some .r19200 else if b = 2 then some .r38400
  else if b = 3 then some .r57600 else if b = 4 then some .r115200 else none

/-- An output or none: 0 to 3, or 0xFF for none (R176); anything else is no such code. -/
def outOrNone (b : Byte) : Option (Option OutId) :=
  if b = 0xFF then some none else (index? 4 b.toNat).map some

def outOrNoneByte : Option OutId → Byte
  | none => 0xFF
  | some p => BitVec.ofNat 8 p.val

/-- The flag bits of NEIGHBOUR_FLAGS (R176). -/
def Flags3.code (f : Flags3) : Byte :=
  boolByte f.tc ||| (boolByte f.an <<< 1) ||| (boolByte f.rg <<< 2)

def flags3Of (b : Byte) : Flags3 := { tc := b.getLsbD 0, an := b.getLsbD 1, rg := b.getLsbD 2 }

/-- The status codes of R175. -/
def Status.code : Status → Byte
  | .ok => 0x00 | .queued => 0x02 | .lateApplied => 0x03
  | .unknownCommand => 0x10 | .badParam => 0x11 | .denied => 0x12 | .budget => 0x13 | .noTarget => 0x14
  | .busy => 0x15 | .notTimeable => 0x16
  | .duplicate => 0x20 | .tableFull => 0x21 | .noClaim => 0x22 | .poolFull => 0x23 | .notFound => 0x24
  | .queueFull => 0x25 | .tooFar => 0x26 | .noVariant => 0x27

/-- OK, QUEUED and LATE_APPLIED are not refusals (R152). -/
def Status.isRefusal : Status → Bool
  | .ok | .queued | .lateApplied => false
  | .unknownCommand | .badParam | .denied | .budget | .noTarget | .busy | .notTimeable | .duplicate | .tableFull
  | .noClaim | .poolFull | .notFound | .queueFull | .tooFar | .noVariant => true

/-- The command codes of R176. -/
def Cmd.code : Cmd → Byte
  | .status => 0x01 | .readRecord => 0x02 | .readCounters => 0x03 | .clearFaults => 0x04
  | .setSite => 0x10 | .setGroupset => 0x11 | .setRoute => 0x12 | .setDefaultRoute => 0x13 | .setOutput => 0x14
  | .setCue => 0x15 | .setLink => 0x16 | .setTiming => 0x17 | .setMonitor => 0x18 | .setAlert => 0x19
  | .storeSave => 0x1A | .reload => 0x1B | .restart => 0x1C | .revoke => 0x1D | .setEpoch => 0x1E
  | .cancelTimed => 0x1F
  | .label => 0x20 | .text => 0x21 | .freqlist => 0x22 | .neighbour => 0x23 | .neighbourFlags => 0x24
  | .optoutBegin => 0x25 | .optoutEnd => 0x26 | .setInterval => 0x27
  | .claim => 0x30 | .release => 0x31 | .tmsgAdd => 0x38 | .tmsgCancel => 0x39

/-- Every command of the part. -/
def commands : List Cmd :=
  [.status, .readRecord, .readCounters, .clearFaults, .setSite, .setGroupset, .setRoute, .setDefaultRoute,
    .setOutput, .setCue, .setLink, .setTiming, .setMonitor, .setAlert, .storeSave, .reload, .restart, .revoke,
    .setEpoch, .cancelTimed, .label, .text, .freqlist, .neighbour, .neighbourFlags, .optoutBegin, .optoutEnd,
    .setInterval, .claim, .release, .tmsgAdd, .tmsgCancel]

/-- The command a code names, if any (R152 step 1, R176). -/
def cmdOf (b : Byte) : Option Cmd := commands.find? fun c => c.code == b

/-- The class a command belongs to, none for those always allowed (R157). -/
def Cmd.cls : Cmd → Option CmdClass
  | .status | .readRecord | .readCounters | .cancelTimed => none
  | .setEpoch => some .timing
  | .clearFaults | .setSite | .setGroupset | .setRoute | .setDefaultRoute | .setOutput | .setCue | .setLink
  | .setTiming | .setMonitor | .setAlert | .storeSave | .reload | .restart | .revoke => some .settings
  | .label | .text | .freqlist | .neighbour | .neighbourFlags | .optoutBegin | .optoutEnd | .setInterval =>
    some .content
  | .claim | .release => some .announce
  | .tmsgAdd | .tmsgCancel => some .traffic

/-- The permission bit of a class (R176). -/
def CmdClass.bit : CmdClass → Nat
  | .content => 0 | .announce => 1 | .traffic => 2 | .timing => 3 | .settings => 4

/-- The command of a timed entry (R130). -/
def TimedCmd.cmd : TimedCmd → Cmd
  | .label .. => .label | .text .. => .text | .freqlist .. => .freqlist | .neighbour .. => .neighbour
  | .neighbourFlags .. => .neighbourFlags | .optoutBegin => .optoutBegin | .optoutEnd => .optoutEnd
  | .setInterval .. => .setInterval | .claim .. => .claim | .release .. => .release | .tmsgAdd .. => .tmsgAdd
  | .tmsgCancel .. => .tmsgCancel

end Sys2Proof.Machine
end

