-- ==== Sys2Proof/Machine/Flags.lean ====
section
/-! DEFINITION. The sticky fault flags and the ALERT line (R169). -/

namespace Sys2Proof.Machine

/-- The bits of the fault mask (R176). -/
def FaultFlag.bit : FaultFlag → BitVec 5
  | .configDefaults => 1 | .refLost => 2 | .timebaseJump => 4 | .saveFailed => 8 | .frameLoss => 16

/-- ALERT is asserted while at least one flag is set and enabled in the mask (R169). -/
def alertLevel (faults mask : BitVec 5) : Bool := faults &&& mask != 0

/-- ALERT follows the flags and the mask at the instant either changes (R169). -/
def State.followAlert (s : State) : State :=
  { s with store := { s.store with alert := alertLevel s.store.faults s.settings.alertMask } }

/-- A cause sets its flag; a flag already set stays set (R169). -/
def State.raiseFault (f : FaultFlag) (s : State) : State :=
  State.followAlert { s with store := { s.store with faults := s.store.faults ||| f.bit } }

/-- All five flags are cleared (R169). -/
def State.clearFaultFlags (s : State) : State :=
  State.followAlert { s with store := { s.store with faults := 0 } }

/-- The alert mask acts on ALERT at once (R164, R169). -/
def State.setAlertMask (m : BitVec 5) (s : State) : State :=
  State.followAlert { s with settings := { s.settings with alertMask := m } }

end Sys2Proof.Machine
end

