-- ==== Sys2Proof/Machine/Ops.lean ====
section
/-! DEFINITION. The named operations over State that every block uses: one instance of a block changed, one setting
written, a free value drawn. -/

namespace Sys2Proof.Machine

namespace State

/-! ### One instance of a block -/

def lane (s : State) (p : OutId) : Lane := s.lanes.get p

def modLane (p : OutId) (f : Lane → Lane) (s : State) : State :=
  { s with lanes := s.lanes.modify p f }

def out (s : State) (p : OutId) : OutContent := s.content.outs.get p

def modOut (p : OutId) (f : OutContent → OutContent) (s : State) : State :=
  { s with content := { s.content with outs := s.content.outs.modify p f } }

def link (s : State) (l : LinkId) : LinkState := s.links.get l

def modLink (l : LinkId) (f : LinkState → LinkState) (s : State) : State :=
  { s with links := s.links.modify l f }

def cue (s : State) (c : LineId) : CueLine := s.cues.get c

def modCue (c : LineId) (f : CueLine → CueLine) (s : State) : State :=
  { s with cues := s.cues.modify c f }

def modTb (f : Timebase → Timebase) (s : State) : State := { s with tb := f s.tb }

/-! ### Settings -/

def outCfg (s : State) (p : OutId) : OutSettings := s.settings.outputs.get p

def cueCfg (s : State) (c : LineId) : CueSettings := s.settings.cues.get c

def linkCfg (s : State) (l : LinkId) : LinkSettings := s.settings.links.get l

def modSettings (f : Settings → Settings) (s : State) : State := { s with settings := f s.settings }

/-! ### Outputs -/

/-- The outputs of a mask, each content changed by `f`. -/
def modOuts (m : Mask) (f : OutContent → OutContent) (s : State) : State :=
  { s with content := { s.content with
      outs := .tabulate fun p => if inMask m p then f (s.content.outs.get p) else s.content.outs.get p } }

/-- A walk over the outputs 0 to 3. -/
def eachOut (f : OutId → State → State) (s : State) : State :=
  outputs.foldl (fun s p => f p s) s

/-! ### Free values (log 22) -/

/-- A free value has been drawn. -/
def draw (s : State) : State := { s with draws := s.draws + 1 }

end State

/-- What the handling of a command ends with: the status, the adjusted flag and the data of its reply, and the state
it leaves (R152, R159). -/
structure Answer where
  status : Status
  adjusted : Bool
  data : List Byte
  state : State
  deriving DecidableEq, Repr

namespace Answer

/-- OK without data. -/
def done (s : State) : Answer := { status := .ok, adjusted := false, data := [], state := s }

/-- OK with data. -/
def give (data : List Byte) (s : State) : Answer := { status := .ok, adjusted := false, data := data, state := s }

/-- A refusal carries no data and its adjusted flag is clear (R159). -/
def refuse (st : Status) (s : State) : Answer := { status := st, adjusted := false, data := [], state := s }

/-- The adjusted flag the checks left, on an answer that is no refusal (R131, R159). -/
def adjust (adjusted : Bool) (a : Answer) : Answer :=
  if a.status.isRefusal then a else { a with adjusted := adjusted }

end Answer

end Sys2Proof.Machine
end

