-- ==== Sys2Proof/Machine/Operands.lean ====
section
/-! DEFINITION. The bytes of a frame read as a header and typed parameters, with the owners' checks that look only at
a command's own values (R131, R175, R176), and the parameter bytes of a queue entry (R133, R177). -/

namespace Sys2Proof.Machine

/-! ### The header (R175) -/

/-- The timed flag, bit 0 of the flags (R151). -/
def timedFlag (body : List Byte) : Bool := (byteAt body 1).getLsbD 0

/-- The target address (R151). -/
def targetAddress (body : List Byte) : Word := BitVec.ofNat 16 (natAt body 2 2)

/-- The region group (R151). -/
def regionGroup (body : List Byte) : Byte := byteAt body 4

/-- The activation cell of a timed frame (R130, R175). -/
def activationCell (body : List Byte) : Count := BitVec.ofNat 24 (natAt body 5 3)

/-- The tag of a timed frame (R130, R175). -/
def frameTag (body : List Byte) : Byte := byteAt body 8

/-- The parameters begin at offset 5, or at offset 9 in a timed frame (R175). -/
def frameParams (body : List Byte) : List Byte := body.drop (if timedFlag body then 9 else 5)

/-! ### Checks: a refusal, or the value the checks leave and the adjusted flag -/

/-- What a check of values ends with (R131). -/
abbrev Checked (α : Type) := Except Status (α × Bool)

/-- Every failed check of values is BAD_PARAM (R162, R176). -/
def bad {α : Type} : Checked α := .error .badParam

/-- A value that passes, with the adjusted flag. -/
def pass {α : Type} (x : α) (adjusted : Bool) : Checked α := .ok (x, adjusted)

/-- The nearest end of the range `lo` to `hi` (R162). -/
def clamp (lo hi v : Nat) : Nat := if v < lo then lo else if hi < v then hi else v

/-! ### Routed commands -/

/-- R38, R39. -/
def checkLabel (ps : List Byte) : Checked TimedCmd :=
  let n := (byteAt ps 2).toNat
  let chars := slice ps 3 n
  let category := (byteAt ps 1).toNat
  if ps.length ≠ 3 + n then bad
  else match variantOf (byteAt ps 0) with
    | none => bad
    | some v =>
      if n = 0 then bad
      else pass (.label v { chars := (cleanChars chars).take 18, category := min category 31 })
        (anyReplaced chars || decide (18 < n) || decide (31 < category))

/-- R38, R40. -/
def checkText (ps : List Byte) : Checked TimedCmd :=
  let n := (byteAt ps 1).toNat
  let chars := slice ps 2 n
  if ps.length ≠ 2 + n then bad
  else match variantOf (byteAt ps 0) with
    | none => bad
    | some v => pass (.text v ((cleanChars chars).take 60)) (anyReplaced chars || decide (60 < n))

/-- A frequency code is 1 to 880 (section 3). -/
def isFreqCode (c : Nat) : Bool := decide (1 ≤ c) && decide (c ≤ 880)

/-- R41 step 2: a code equal to an earlier code still in the list is dropped. -/
def dropRepeats (codes : List Nat) : List Nat :=
  codes.foldl (fun kept c => if kept.contains c then kept else kept ++ [c]) []

/-- R41: the list that remains. -/
def freqListOf (codes : List Nat) : List Nat := (dropRepeats (codes.filter isFreqCode)).take 24

/-- The codes as received (R176). -/
def receivedCodes (ps : List Byte) (k : Nat) : List Nat := (List.range k).map fun i => natAt ps (1 + 2 * i) 2

/-- R41; the count is taken as received, so 30 codes are accepted and cut (R176). -/
def checkFreqlist (ps : List Byte) : Checked TimedCmd :=
  let k := (byteAt ps 0).toNat
  let codes := receivedCodes ps k
  if ps.length ≠ 1 + 2 * k then bad
  else pass (.freqlist (freqListOf codes)) (freqListOf codes != codes)

/-- R38, R49, R50. -/
def checkNeighbour (ps : List Byte) : Checked TimedCmd :=
  let n := (byteAt ps 7).toNat
  let chars := slice ps 8 n
  let identity : Word := BitVec.ofNat 16 (natAt ps 1 2)
  let freq := natAt ps 3 2
  let carriers := maskOf (byteAt ps 5)
  if ps.length ≠ 8 + n then bad
  else match index? 8 (byteAt ps 0).toNat, outOrNone (byteAt ps 6) with
    | some slot, some link =>
      if identity = 0 ∧ carriers ≠ 0 then bad
      else pass (.neighbour slot identity (if 880 < freq then 0 else freq) carriers link ((cleanChars chars).take 8))
        (anyReplaced chars || decide (8 < n) || decide (880 < freq))
    | _, _ => bad

/-- The slot test of R51 that looks only at the command. -/
def checkNeighbourFlags (ps : List Byte) : Checked TimedCmd :=
  if ps.length ≠ 2 then bad
  else match index? 8 (byteAt ps 0).toNat with
    | none => bad
    | some slot => pass (.neighbourFlags slot (flags3Of (byteAt ps 1))) false

/-- OPTOUT_BEGIN has no parameters (R37). -/
def checkOptoutBegin (ps : List Byte) : Checked TimedCmd :=
  if ps.length ≠ 0 then bad else pass .optoutBegin false

/-- OPTOUT_END has no parameters (R37). -/
def checkOptoutEnd (ps : List Byte) : Checked TimedCmd :=
  if ps.length ≠ 0 then bad else pass .optoutEnd false

/-- R68. -/
def checkSetInterval (ps : List Byte) : Checked TimedCmd :=
  let v := natAt ps 1 2
  if ps.length ≠ 3 then bad
  else match serviceOf (byteAt ps 0) with
    | none => bad
    | some sv => pass (.setInterval sv (min v 1023)) (decide (1023 < v))

/-- R89. -/
def checkClaim (ps : List Byte) : Checked TimedCmd :=
  let priority := (byteAt ps 2).toNat
  let hold := natAt ps 4 3
  let wait := natAt ps 7 3
  if ps.length ≠ 10 then bad
  else match classOf (byteAt ps 1) with
    | none => bad
    | some cls =>
      if 7 < priority then bad
      else pass (.claim (byteAt ps 0) cls priority (byteAt ps 3) (min hold 72000) (min wait 72000))
        (decide (72000 < hold) || decide (72000 < wait))

/-- R95: every number is accepted. -/
def checkRelease (ps : List Byte) : Checked TimedCmd :=
  if ps.length ≠ 1 then bad else pass (.release (byteAt ps 0)) false

/-- R73. -/
def checkTmsgAdd (ps : List Byte) : Checked TimedCmd :=
  let key := natAt ps 0 2
  let reps := (byteAt ps 8).toNat
  let spacing := natAt ps 9 2
  if ps.length ≠ 11 then bad
  else if key = 0 then bad
  else if reps = 0 then bad
  else pass (.tmsgAdd (BitVec.ofNat 16 key) (BitVec.ofNat 48 (natAt ps 2 6)) (min reps 8) (clamp 1 1200 spacing))
    (decide (8 < reps) || clamp 1 1200 spacing != spacing)

/-- R76. -/
def checkTmsgCancel (ps : List Byte) : Checked TimedCmd :=
  let key := natAt ps 0 2
  if ps.length ≠ 2 then bad
  else if key = 0 then bad
  else pass (.tmsgCancel (BitVec.ofNat 16 key)) false

/-! ### Settings fields, as SET_ commands and the store image carry them (R176, R178) -/

/-- The three bytes of a route term; a byte whose test is absent is not read (R156, R176). -/
def termOf (bs : List Byte) : Option RouteTerm :=
  let flags := byteAt bs 0
  let base : RouteTerm := { enable := flags.getLsbD 7, addressTest := none, groupTest := none,
                            combiner := if flags.getLsbD 4 then .or else .and }
  match (if flags.getLsbD 6 then (index? 16 (byteAt bs 1).toNat).map some else some none),
        (if flags.getLsbD 5 then (index? 8 (byteAt bs 2).toNat).map some else some none) with
  | some a, some g => some { base with addressTest := a, groupTest := g }
  | _, _ => none

/-- The 14 bytes of SET_ROUTE after the entry number (R156, R176). -/
def routeOf (bs : List Byte) : Checked RouteEntry :=
  match termOf (slice bs 2 3), termOf (slice bs 5 3), termOf (slice bs 8 3), termOf (slice bs 11 3) with
  | some t0, some t1, some t2, some t3 =>
    pass { enable := byteAt bs 0 != 0, dest := maskOf (byteAt bs 1), terms := ⟨[t0, t1, t2, t3], rfl⟩ } false
  | _, _, _, _ => bad

/-- The index 7 where the value is above 7 (R163). -/
def index7 (v : Nat) : SetId := ⟨min v 7, by omega⟩

/-- The 10 bytes of SET_OUTPUT after the output number; the intervals are not among them (R163, R104). -/
def outputOf (intervals : Table 6 Nat) (bs : List Byte) : Checked OutSettings :=
  let flags := byteAt bs 0
  let netId : Word := BitVec.ofNat 16 (natAt bs 1 2)
  let accNet := (byteAt bs 5).toNat
  let accReg := (byteAt bs 6).toNat
  let lead := (byteAt bs 7).toNat
  let trail := (byteAt bs 8).toNat
  let burst := (byteAt bs 9).toNat
  if netId = 0 then bad
  else pass
    { enable := flags.getLsbD 0, tc := flags.getLsbD 1, netId := netId, regId := BitVec.ofNat 16 (natAt bs 3 2),
      accNet := index7 accNet, accReg := index7 accReg, lead := min lead 200, trail := min trail 200,
      burst := clamp 1 8 burst, intervals := intervals }
    (decide (7 < accNet) || decide (7 < accReg) || decide (200 < lead) || decide (200 < trail) ||
      clamp 1 8 burst != burst)

/-- The 14 bytes of SET_CUE after the line number (R164). -/
def cueOf (bs : List Byte) : Checked CueSettings :=
  let debounce := natAt bs 2 2
  let priority := (byteAt bs 5).toNat
  let hold := natAt bs 8 3
  let wait := natAt bs 11 3
  match cueModeOf (byteAt bs 0), polarityOf (byteAt bs 1), classOf (byteAt bs 4) with
  | some mode, some polarity, some cls =>
    pass
      { mode := mode, polarity := polarity, debounce := clamp 1 255 debounce, cls := cls,
        priority := min priority 7, group := byteAt bs 6, target := maskOf (byteAt bs 7),
        holdLimit := min hold 72000, waitLimit := min wait 72000 }
      (clamp 1 255 debounce != debounce || decide (7 < priority) || decide (72000 < hold) || decide (72000 < wait))
  | _, _, _ => bad

/-- The 9 bytes of SET_LINK after the link number; the resume level is held below the pause level (R164). -/
def linkOf (bs : List Byte) : Checked LinkSettings :=
  let pause := natAt bs 3 2
  let resume := natAt bs 5 2
  let interval := natAt bs 7 2
  let pause' := clamp 64 1008 pause
  match lineRateOf (byteAt bs 1) with
  | none => bad
  | some rate =>
    pass
      { enable := byteAt bs 0 != 0, rate := rate, perms := (byteAt bs 2).setWidth 5, pause := pause',
        resume := min resume (pause' - 1), interval := clamp 1 255 interval }
      (pause' != pause || decide (pause' ≤ resume) || clamp 1 255 interval != interval)

/-! ### Part commands -/

/-- A command without parameters (R176). -/
def checkNone (ps : List Byte) : Checked Unit :=
  if ps.length ≠ 0 then bad else pass () false

/-- R153. -/
def checkSetSite (ps : List Byte) : Checked (Fin 16 × SiteSlot) :=
  if ps.length ≠ 4 then bad
  else match index? 16 (byteAt ps 0).toNat with
    | none => bad
    | some i => pass (i, { address := BitVec.ofNat 16 (natAt ps 1 2), enable := byteAt ps 3 != 0 }) false

/-- The codes of the range `low` to `high` as membership bits (R154). -/
def rangeBits (low high : Nat) : BitVec 256 :=
  if high < low then 0 else (BitVec.allOnes 256 >>> (255 - (high - low))) <<< low

/-- The ranges of SET_GROUPSET as received (R154, R176). -/
def receivedRanges (ps : List Byte) (k : Nat) : List (Nat × Nat) :=
  (List.range k).map fun i => ((byteAt ps (2 + 2 * i)).toNat, (byteAt ps (3 + 2 * i)).toNat)

/-- R154. -/
def checkSetGroupset (ps : List Byte) : Checked (SetId × BitVec 256) :=
  let k := (byteAt ps 1).toNat
  let ranges := receivedRanges ps k
  if 16 < k then bad
  else if ps.length ≠ 2 + 2 * k then bad
  else match index? 8 (byteAt ps 0).toNat with
    | none => bad
    | some i =>
      if ranges.any fun r => decide (r.2 < r.1) then bad
      else pass (i, ranges.foldl (fun acc r => acc ||| rangeBits r.1 r.2) 0) false

/-- R156. -/
def checkSetRoute (ps : List Byte) : Checked (Fin 16 × RouteEntry) :=
  if ps.length ≠ 15 then bad
  else match index? 16 (byteAt ps 0).toNat, routeOf (ps.drop 1) with
    | some i, .ok (e, _) => pass (i, e) false
    | _, _ => bad

/-- R156. -/
def checkSetDefaultRoute (ps : List Byte) : Checked Mask :=
  if ps.length ≠ 1 then bad else pass (maskOf (byteAt ps 0)) false

/-- R163; the fields but for the intervals, which SET_OUTPUT does not carry. -/
def checkSetOutput (intervals : OutId → Table 6 Nat) (ps : List Byte) : Checked (OutId × OutSettings) :=
  if ps.length ≠ 11 then bad
  else match index? 4 (byteAt ps 0).toNat with
    | none => bad
    | some p =>
      match outputOf (intervals p) (ps.drop 1) with
      | .error e => .error e
      | .ok (cfg, adjusted) => pass (p, cfg) adjusted

/-- R164. -/
def checkSetCue (ps : List Byte) : Checked (LineId × CueSettings) :=
  if ps.length ≠ 15 then bad
  else match index? 8 (byteAt ps 0).toNat with
    | none => bad
    | some c =>
      match cueOf (ps.drop 1) with
      | .error e => .error e
      | .ok (cfg, adjusted) => pass (c, cfg) adjusted

/-- R164. -/
def checkSetLink (ps : List Byte) : Checked (LinkId × LinkSettings) :=
  if ps.length ≠ 10 then bad
  else match index? 4 (byteAt ps 0).toNat with
    | none => bad
    | some l =>
      match linkOf (ps.drop 1) with
      | .error e => .error e
      | .ok (cfg, adjusted) => pass (l, cfg) adjusted

/-- R164. -/
def checkSetTiming (ps : List Byte) : Checked TimingMode :=
  if ps.length ≠ 1 then bad
  else match timingModeOf (byteAt ps 0) with
    | none => bad
    | some m => pass m false

/-- R164. -/
def checkSetMonitor (ps : List Byte) : Checked (Option OutId) :=
  if ps.length ≠ 1 then bad
  else match outOrNone (byteAt ps 0) with
    | none => bad
    | some m => pass m false

/-- R164; bits without a meaning are ignored (R173). -/
def checkSetAlert (ps : List Byte) : Checked (BitVec 5) :=
  if ps.length ≠ 1 then bad else pass ((byteAt ps 0).setWidth 5) false

/-- R96. -/
def checkRevoke (ps : List Byte) : Checked ClaimKey :=
  if ps.length ≠ 2 then bad
  else match originOf (byteAt ps 0) with
    | none => bad
    | some o => pass { origin := o, number := byteAt ps 1 } false

/-- R31: a value that is not a multiple of 1024 is refused. -/
def checkSetEpoch (ps : List Byte) : Checked Count :=
  if ps.length ≠ 3 then bad
  else if natAt ps 0 3 % 1024 ≠ 0 then bad
  else pass (BitVec.ofNat 24 (natAt ps 0 3)) false

/-- R138. -/
def checkCancelTimed (ps : List Byte) : Checked Byte :=
  if ps.length ≠ 1 then bad else pass (byteAt ps 0) false

/-- The two bytes of READ_RECORD: kind and index (R171). -/
def checkReadRecord (ps : List Byte) : Checked (Nat × Nat) :=
  if ps.length ≠ 2 then bad else pass ((byteAt ps 0).toNat, (byteAt ps 1).toNat) false

/-- The three bytes of READ_COUNTERS: group, index and clear flag (R172). -/
def checkReadCounters (ps : List Byte) : Checked (Nat × Nat × Bool) :=
  if ps.length ≠ 3 then bad
  else pass ((byteAt ps 0).toNat, (byteAt ps 1).toNat, byteAt ps 2 != 0) false

/-! ### The parameters of a queue entry (R133, R177) -/

def codesBytes (codes : List Nat) : List Byte := codes.flatMap (bytesOf 2)

/-- The parameters as the arrival checks left them, in the layout of R176. -/
def TimedCmd.params : TimedCmd → List Byte
  | .label v l => [v.code, BitVec.ofNat 8 l.category, BitVec.ofNat 8 l.chars.length] ++ l.chars
  | .text v chars => [v.code, BitVec.ofNat 8 chars.length] ++ chars
  | .freqlist codes => BitVec.ofNat 8 codes.length :: codesBytes codes
  | .neighbour slot identity freq carriers link chars =>
    BitVec.ofNat 8 slot.val :: bytesOf 2 identity.toNat ++ bytesOf 2 freq ++
      [maskByte carriers, outOrNoneByte link, BitVec.ofNat 8 chars.length] ++ chars
  | .neighbourFlags slot flags => [BitVec.ofNat 8 slot.val, flags.code]
  | .optoutBegin => []
  | .optoutEnd => []
  | .setInterval sv v => BitVec.ofNat 8 sv.index.val :: bytesOf 2 v
  | .claim number cls priority group hold wait =>
    [number, cls.code, BitVec.ofNat 8 priority, group] ++ bytesOf 3 hold ++ bytesOf 3 wait
  | .release number => [number]
  | .tmsgAdd key content reps spacing =>
    bytesOf 2 key.toNat ++ bytesOf 6 content.toNat ++ [BitVec.ofNat 8 reps] ++ bytesOf 2 spacing
  | .tmsgCancel key => bytesOf 2 key.toNat

end Sys2Proof.Machine
end

