-- ==== Sys2Proof/Machine/Links.lean ====
section
/-! DEFINITION. The control link interface: deframing, the input buffer and its flow control, the reply buffer and the
transmitter, disable and change of rate (section 10.1 to 10.3, R159). -/

namespace Sys2Proof.Machine

/-- The four byte values with a special meaning on the line (R145). -/
def special (b : Byte) : Bool := b == 0xC5 || b == holdByte || b == goByte || b == 0xCA

namespace LinkState

/-! ### The transmitter (R143, R149, R159) -/

/-- The bytes of the reply buffer that are occupied (R159). -/
def replyBytes (k : LinkState) : Nat := (k.replies.map fun r => r.bytes.length).sum

/-- HOLD and GO bytes still to be sent, and a byte of a frame given up (R149, log 18). -/
def ctrlLeft (k : LinkState) : Nat :=
  k.ctrl.length + match k.tx with
    | some (.ctrl _) => 1
    | some (.cut _) => 1
    | _ => 0

/-- The place after every byte placed so far (R143). -/
def placeNow (k : LinkState) : Mark := { reply := k.replyBytes, ctrl := k.ctrlLeft }

/-- A waiting change of rate, or a waiting disable, whose bytes have all been sent: the transmitter begins no further
byte until its row acts (log 16). -/
def changeDue (k : LinkState) : Bool :=
  (match k.rateChanges with
   | [] => false
   | rc :: _ => rc.after == ⟨0, 0⟩) ||
  k.disableAt == some ⟨0, 0⟩

/-- The first byte not yet begun: HOLD and GO go ahead of every reply byte still waiting (R149); each reply byte is
escaped as it is sent (R159). -/
def nextByte (k : LinkState) : LinkState :=
  match k.tx with
  | some _ => k
  | none =>
    if k.changeDue then k
    else match k.ctrl with
      | c :: cs => { k with tx := some (.ctrl c), ctrl := cs }
      | [] =>
        match k.replies with
        | [] => k
        | r :: _ =>
          if r.begun then
            match r.bytes with
            | [] => k
            | b :: _ =>
              if r.escaped then { k with tx := some (.data (b ^^^ 0x20)) }
              else if special b then { k with tx := some .escape }
              else { k with tx := some (.data b) }
          else { k with tx := some .start }

/-- One reply byte has been sent. -/
def Mark.lessReply (m : Mark) : Mark := { m with reply := m.reply - 1 }

/-- One HOLD or GO, or a byte of a frame given up, has been sent. -/
def Mark.lessCtrl (m : Mark) : Mark := { m with ctrl := m.ctrl - 1 }

/-- Every waiting place moves as bytes are sent. -/
def moveMarks (f : Mark → Mark) (k : LinkState) : LinkState :=
  { k with rateChanges := k.rateChanges.map fun rc => { rc with after := f rc.after }
           disableAt := k.disableAt.map f
           restartAt := k.restartAt.map f }

/-- The first reply, changed. -/
def modReply (f : Reply → Reply) (k : LinkState) : LinkState :=
  match k.replies with
  | [] => k
  | r :: rs => { k with replies := f r :: rs }

/-- The first byte of the first reply has been sent and frees its place (R159). -/
def freeByte (k : LinkState) : LinkState :=
  match k.replies with
  | [] => k
  | r :: rs =>
    match r.bytes with
    | [] => { k with replies := rs }
    | [_] => { k with replies := rs }
    | _ :: bs => { k with replies := { r with escaped := false, bytes := bs } :: rs }

/-- The transmitter finishes the byte it is sending and begins the next (R149, R159). -/
def finishByte (k : LinkState) : LinkState :=
  match k.tx with
  | none => k
  | some tx =>
    let sent := { k with tx := none }
    nextByte (match tx with
      | .ctrl _ => sent.moveMarks Mark.lessCtrl
      | .cut _ => sent.moveMarks Mark.lessCtrl
      | .start => sent.modReply fun r => { r with begun := true }
      | .escape => sent.modReply fun r => { r with escaped := true }
      | .data _ => sent.freeByte.moveMarks Mark.lessReply)

/-- HOLD or GO becomes due and goes out at the next byte boundary (R149). -/
def sendCtrl (b : Byte) (k : LinkState) : LinkState := nextByte { k with ctrl := k.ctrl ++ [b] }

/-- The frame of a reply: length, body and check word, unescaped (R159, R145). -/
def replyFrame (body : List Byte) : List Byte :=
  let head := bytesOf 2 body.length ++ body
  head ++ bytesOf 2 (crc head).toNat

/-- A reply is placed, or dropped whole and counted when the free space is smaller than it (R159). -/
def placeReply (body : List Byte) (k : LinkState) : LinkState :=
  if k.replyBytes + body.length + 4 ≤ 512 then
    nextByte { k with replies := k.replies ++ [{ begun := false, escaped := false, bytes := replyFrame body }] }
  else { k with counters := { k.counters with dropped := satInc k.counters.dropped } }

/-! ### The input buffer and its flow control (R148, R149) -/

/-- The stored bytes the input buffer holds: a waiting frame takes its body length plus 4 (R148). -/
def occupancy (k : LinkState) : Nat := (k.waiting.map fun b => b.length + 4).sum + k.stored.length

/-- R149: HOLD when the occupancy is at the pause level or above and none is outstanding. -/
def holdCheck (cfg : LinkSettings) (k : LinkState) : LinkState :=
  if !k.holdOut && decide (cfg.pause ≤ k.occupancy) then sendCtrl holdByte { k with holdOut := true } else k

/-- R149: GO when the occupancy is at the resume level or below and a HOLD is outstanding. -/
def goCheck (cfg : LinkSettings) (k : LinkState) : LinkState :=
  if k.holdOut && decide (k.occupancy ≤ cfg.resume) then sendCtrl goByte { k with holdOut := false } else k

/-- The frame in progress leaves the buffer and the receiver hunts again. -/
def clearFrame (k : LinkState) : LinkState := { k with stored := [], recv := .hunt, escape := false }

/-- R147: a defective frame is discarded and counts a check error. -/
def discard (cfg : LinkSettings) (k : LinkState) : LinkState :=
  goCheck cfg { k.clearFrame with
    counters := { k.counters with checkErrors := satInc k.counters.checkErrors } }

/-- R150: a byte had to be stored in a full buffer. -/
def overrun (cfg : LinkSettings) (k : LinkState) : LinkState :=
  goCheck cfg { k.clearFrame with counters := { k.counters with overruns := satInc k.counters.overruns } }

/-- The body length the first two stored bytes give (R146). -/
def bodyLength (stored : List Byte) : Nat := natAt stored 0 2

/-- R146: what follows the storing of a byte: the length test after the second byte, the end of the body, the check
after the last byte. -/
def afterStore (cfg : LinkSettings) (k : LinkState) : LinkState :=
  let n := bodyLength k.stored
  match k.recv with
  | .hunt => k
  | .length =>
    if k.stored.length < 2 then k
    else if 5 ≤ n ∧ n ≤ 320 then { k with recv := .body }
    else k.discard cfg
  | .body => if k.stored.length < 2 + n then k else { k with recv := .check }
  | .check =>
    if k.stored.length < 4 + n then k
    else if crc (k.stored.take (2 + n)) = BitVec.ofNat 16 (natAt k.stored (2 + n) 2) then
      { k.clearFrame with
        waiting := k.waiting ++ [slice k.stored 2 n]
        counters := { k.counters with good := satInc k.counters.good } }
    else k.discard cfg

/-- A byte of the frame is stored; the buffer holds 1,024 (R146, R149, R150). -/
def storeByte (cfg : LinkSettings) (b : Byte) (k : LinkState) : LinkState :=
  if 1024 ≤ k.occupancy then k.overrun cfg
  else afterStore cfg (holdCheck cfg { k with stored := k.stored ++ [b], escape := false })

/-- R146, R147: a byte arrives inside a frame. -/
def frameByte (cfg : LinkSettings) (b : Byte) (k : LinkState) : LinkState :=
  if k.escape then
    if special (b ^^^ 0x20) then k.storeByte cfg (b ^^^ 0x20) else k.discard cfg
  else if b == 0xCA then { k with escape := true }
  else if b == 0xC5 then { k.discard cfg with recv := .length }
  else if b == holdByte || b == goByte then k.discard cfg
  else k.storeByte cfg b

/-- R144, R146, R147: a byte arrives on the line. A link that is off ignores it. -/
def receive (cfg : LinkSettings) (b : RxByte) (k : LinkState) : LinkState :=
  if k.on then
    match k.recv, b with
    | .hunt, .good v => if v == 0xC5 then { k with recv := .length, escape := false, stored := [] } else k
    | .hunt, .defective => k
    | _, .good v => k.frameByte cfg v
    | _, .defective => k.discard cfg
  else k

/-- The byte must be stored and the buffer is full (R150). -/
def overruns (k : LinkState) (b : RxByte) : Bool :=
  k.on && k.recv != .hunt && decide (1024 ≤ k.occupancy) &&
    match b with
    | .defective => false
    | .good v => if k.escape then special (v ^^^ 0x20) else !special v

/-- R148: the oldest waiting frame is taken, and a GO can follow. -/
def take (cfg : LinkSettings) (k : LinkState) : LinkState := goCheck cfg { k with waiting := k.waiting.tail }

/-! ### Disable and enable (R144) -/

/-- The byte on the line, once its frame has been given up. -/
def cutByte (k : LinkState) : Option TxByte :=
  match k.tx, k.replies with
  | some .start, _ => some (.cut 0xC5)
  | some .escape, _ => some (.cut 0xCA)
  | some (.data b), _ => some (.cut b)
  | some (.ctrl b), _ => some (.ctrl b)
  | some (.cut b), _ => some (.cut b)
  | none, _ => none

/-- How many replies wait, not counting one whose sending has begun (R144, log 14). -/
def waitingReplies (k : LinkState) : Nat :=
  match k.replies with
  | [] => 0
  | r :: rs => if r.begun || k.tx == some .start then rs.length else rs.length + 1

/-- R144: the byte of a reply that is on the line and is finished though its frame is given up. -/
def cutLeft (k : LinkState) : Nat :=
  match k.tx with
  | some .start => 1
  | some .escape => 1
  | some (.data _) => 1
  | some (.ctrl _) => 0
  | some (.cut _) => 0
  | none => 0

/-- R143, R168: what a place still waits for once its reply bytes are dropped and count as sent: `left`. A place whose
reply bytes have all been sent is not moved (log 18). -/
def Mark.dropReply (left : Nat) (m : Mark) : Mark := if m.reply = 0 then m else { reply := 0, ctrl := left }

/-- R144: the link after the five acts of a disable, before its transmitter goes on. A change of rate goes on waiting for
the bytes placed before it that still go out (R143). -/
def silenced (k : LinkState) : LinkState :=
  { k.clearFrame with
    on := false
    waiting := []
    replies := []
    tx := k.cutByte
    ctrl := if k.holdOut then k.ctrl ++ [goByte] else k.ctrl
    holdOut := false
    disableAt := none
    rateChanges := k.rateChanges.map fun (rc : RateChange) =>
      { rc with after := Mark.dropReply (rc.after.ctrl + k.cutLeft) rc.after }
    counters := { k.counters with dropped := satAdd k.counters.dropped k.waitingReplies } }

/-- R144: a disable. A RESTART whose reply was not sent waits for the last byte, the closing GO where one is due (R168,
log 18). -/
def turnOff (k : LinkState) : LinkState :=
  nextByte { k.silenced with restartAt := k.restartAt.map (Mark.dropReply k.silenced.ctrlLeft) }

/-- R144: an enabled link starts with an empty input buffer and sends a GO first; HOLD and GO bytes of an earlier disable
that are still unsent go ahead of it (log 37). -/
def turnOn (k : LinkState) : LinkState :=
  sendCtrl goByte { k.clearFrame with on := true, waiting := [], holdOut := false }

/-! ### A change of settings (R143, R144, R149, R164) -/

/-- R143: a changed rate waits for the bytes placed before the change. -/
def changeRate (old new : LinkSettings) (k : LinkState) : LinkState :=
  if old.rate = new.rate then k
  else { k with rateChanges := k.rateChanges ++ [{ after := k.placeNow, rate := new.rate }] }

/-- R144: a cleared enable acts at once, or, on the link that carries the command, once the reply bytes placed so far
have been sent, its own reply among them unless it was dropped for lack of space (log 36). A later set enable
withdraws a disable that still waits (log 17), and a later cleared one leaves it waiting as it stands (log 40). -/
def changeEnable (carrying : Bool) (old new : LinkSettings) (k : LinkState) : LinkState :=
  if new.enable then
    if k.on then nextByte { k with disableAt := none } else k.turnOn
  else if old.enable then
    if carrying then { k with disableAt := some { reply := k.replyBytes, ctrl := 0 } } else k.turnOff
  else k

/-- R149: a change of either level is tested against the occupancy at once. -/
def changeLevels (old new : LinkSettings) (k : LinkState) : LinkState :=
  if k.on && (old.pause != new.pause || old.resume != new.resume) then goCheck new (holdCheck new k) else k

/-- New settings of a link act on its working state: the change of rate is placed first, so that a GO of the enable and
a HOLD or GO of the levels go out behind it, at the new rate (log 41). -/
def reconfigure (carrying : Bool) (old new : LinkSettings) (k : LinkState) : LinkState :=
  changeLevels old new (changeEnable carrying old new (changeRate old new k))

end LinkState

/-! ### The rows of the link interface -/

/-- LINK_BYTE_RECEIVED (R146): the byte is deframed; an overrun sets FRAME_LOSS (R150). -/
def execLinkByteReceived (l : LinkId) (b : RxByte) (s : State) : Host.Outcome State Fault Refusal :=
  let s' := s.modLink l (LinkState.receive (s.linkCfg l) b)
  .next (if (s.link l).overruns b then s'.raiseFault .frameLoss else s')

/-- LINK_BYTE_SENT (R159): the transmitter finishes its byte and begins the next. -/
def execLinkByteSent (l : LinkId) (s : State) : Host.Outcome State Fault Refusal :=
  .next (s.modLink l LinkState.finishByte)

/-- LINK_DISABLE (R144): a disable that waited for its reply acts. -/
def execLinkDisable (l : LinkId) (s : State) : Host.Outcome State Fault Refusal :=
  .next (if (s.link l).disableAt = some ⟨0, 0⟩ then s.modLink l LinkState.turnOff else s)

/-- R143: the first waiting change of rate whose bytes have been sent takes effect. -/
def LinkState.applyRate (k : LinkState) : LinkState :=
  match k.rateChanges with
  | [] => k
  | rc :: rest =>
    if rc.after = ⟨0, 0⟩ then LinkState.nextByte { k with rate := rc.rate, rateChanges := rest } else k

/-- LINK_RATE_CHANGE (R143). -/
def execLinkRateChange (l : LinkId) (s : State) : Host.Outcome State Fault Refusal :=
  .next (s.modLink l LinkState.applyRate)

end Sys2Proof.Machine
end

