-- ==== Sys2Proof/Machine/Router.lean ====
section
/-! DEFINITION. The address router (section 10.5): direct match, route terms, the route mask and its counters. -/

namespace Sys2Proof.Machine

/-- A slot is enabled and holds the address. -/
def slotHolds (cfg : Settings) (i : Fin 16) (a : Word) : Bool :=
  (cfg.sites.get i).enable && (cfg.sites.get i).address == a

/-- R153: the target address equals the address of an enabled slot, and is not 0xFFFF. -/
def directMatch (cfg : Settings) (a : Word) : Bool :=
  a != 0xFFFF && cfg.sites.items.any fun slot => slot.enable && slot.address == a

/-- A region-group code is a member of a group set (R154). -/
def groupMember (cfg : Settings) (i : SetId) (g : Byte) : Bool := (cfg.groupSets.get i).getLsbD g.toNat

/-- R155: the tests of a term. -/
def termTrue (cfg : Settings) (a : Word) (g : Byte) (t : RouteTerm) : Bool :=
  match t.addressTest, t.groupTest with
  | none, none => true
  | some i, none => slotHolds cfg i a
  | none, some j => groupMember cfg j g
  | some i, some j =>
    match t.combiner with
    | .and => slotHolds cfg i a && groupMember cfg j g
    | .or => slotHolds cfg i a || groupMember cfg j g

/-- R155: an enabled entry is true when at least one of its enabled terms is true. -/
def entryTrue (cfg : Settings) (a : Word) (g : Byte) (e : RouteEntry) : Bool :=
  e.enable && e.terms.items.any fun t => t.enable && termTrue cfg a g t

/-- R155: the first true entry in index order. -/
def firstEntry (cfg : Settings) (a : Word) (g : Byte) : Option (Fin 16) :=
  (List.finRange 16).find? fun i => entryTrue cfg a g (cfg.routes.get i)

/-- R155: the destination mask of the first true entry, or the default destination mask. -/
def routeMask (cfg : Settings) (a : Word) (g : Byte) : Mask :=
  match firstEntry cfg a g with
  | some i => (cfg.routes.get i).dest
  | none => cfg.defaultMask

/-- R155, R160: a match or a default use is counted; an empty mask counts a route discard (R152 step 4). -/
def countRoute (a : Word) (g : Byte) (s : State) : State :=
  let discards := if routeMask s.settings a g = 0 then satInc s.router.discards else s.router.discards
  { s with router :=
      match firstEntry s.settings a g with
      | some i => { s.router with matched := s.router.matched.modify i satInc, discards := discards }
      | none => { s.router with defaultUses := satInc s.router.defaultUses, discards := discards } }

end Sys2Proof.Machine
end

