-- ==== Sys2Proof/Machine/Content.lean ====
section
/-! DEFINITION. The content store (section 3): the content commands as their owner carries them out, the source
update, the commits, the cycles and the neighbour bursts' comparison. -/

namespace Sys2Proof.Machine

namespace OutContent

/-- The content of a variant. -/
def variant (o : OutContent) : Variant → VariantContent
  | .n => o.varN
  | .r => o.varR

def modVariant (o : OutContent) (v : Variant) (f : VariantContent → VariantContent) : OutContent :=
  match v with
  | .n => { o with varN := f o.varN }
  | .r => { o with varR := f o.varR }

/-- R48: a staged copy is replaced before it commits. -/
def supersede (replaced : Bool) (o : OutContent) : OutContent :=
  { o with counters := { o.counters with superseded := satIncIf replaced o.counters.superseded } }

/-- R39: the staged label of a variant is written. -/
def stageLabel (v : Variant) (l : Label) (o : OutContent) : OutContent :=
  supersede (o.variant v).staged.isSome (o.modVariant v fun c => { c with staged := some l })

/-- R40: the staged text of a variant is written. -/
def stageText (v : Variant) (chars : List Byte) (o : OutContent) : OutContent :=
  supersede (o.variant v).stagedText.isSome (o.modVariant v fun c => { c with stagedText := some chars })

/-- R41: the staged frequency list is written. -/
def stageFreqs (codes : List Nat) (o : OutContent) : OutContent :=
  supersede o.stagedFreqs.isSome { o with stagedFreqs := some codes }

/-- R37: the requested source is set. -/
def request (src : Source) (o : OutContent) : OutContent := { o with requested := src }

/-- R36: the source of the cell that begins, given whether the regional identity is set. -/
def updateSource (regionalSet : Bool) (o : OutContent) : OutContent :=
  let src := if o.requested = .regional ∧ regionalSet then Source.regional else .network
  { o with
    source := src
    requested := src
    counters := { o.counters with sourceSwitches := satIncIf (o.source != src) o.counters.sourceSwitches } }

/-- R44: a text commit is pending. -/
def textPending (o : OutContent) : Bool :=
  o.textShown != o.source.variant || (o.variant o.source.variant).stagedText.isSome

/-- R44: at text position 0 a pending commit switches the shown variant and makes its staged text live. -/
def commitText (o : OutContent) : OutContent :=
  if o.textPos = 0 ∧ o.textPending then
    let v := o.source.variant
    let o := o.modVariant v fun c => { c with text := c.stagedText.getD c.text, stagedText := none }
    { o with
      textShown := v
      textVersion := o.textVersion + 1
      counters := { o.counters with textCommits := satInc o.counters.textCommits } }
  else o

/-- R46: at chunk 0 a staged frequency list becomes live. -/
def commitFreqs (o : OutContent) : OutContent :=
  match o.stagedFreqs with
  | some codes =>
    if o.freqPos = 0 then
      { o with freqs := codes, stagedFreqs := none
               counters := { o.counters with listCommits := satInc o.counters.listCommits } }
    else o
  | none => o

/-- R42: the label commit at a LABEL cell of segment 0; LV toggles once if either step made a change. -/
def commitLabel (o : OutContent) : OutContent :=
  if o.labelPos = 0 then
    let v := o.source.variant
    let staged := (o.variant v).staged
    let changed := o.labelShown != v || staged.isSome
    let o := o.modVariant v fun c => { c with label := staged.getD c.label, staged := none }
    { o with
      labelShown := v
      lv := o.lv != changed
      counters := { o.counters with labelCommits := satIncIf staged.isSome o.counters.labelCommits } }
  else o

/-- The live label of the shown variant (R6). -/
def shownLabel (o : OutContent) : Label := (o.variant o.labelShown).label

/-- The live text of the shown text variant (R7). -/
def shownText (o : OutContent) : List Byte := (o.variant o.textShown).text

/-- The segment total of a label, 1 to 3 (R6). -/
def labelTotal (o : OutContent) : Nat := ceilDiv o.shownLabel.chars.length 6

/-- The segment total of the text, 1 to 10 (R7). -/
def textTotal (o : OutContent) : Nat := ceilDiv o.shownText.length 6

/-- The chunk total of the list, 1 to 6 (R7). -/
def freqTotal (o : OutContent) : Nat := ceilDiv o.freqs.length 4

/-- R43. -/
def advanceLabel (o : OutContent) : OutContent := { o with labelPos := (o.labelPos + 1) % o.labelTotal }

/-- R45. -/
def advanceText (o : OutContent) : OutContent := { o with textPos := (o.textPos + 1) % o.textTotal }

/-- R46. -/
def advanceFreqs (o : OutContent) : OutContent := { o with freqPos := (o.freqPos + 1) % o.freqTotal }

/-- R13: the cycle positions at the entry into RUN. -/
def startRun (o : OutContent) : OutContent :=
  { o with labelPos := 0, textPos := 0, freqPos := 0, nbSlot := 0, nbSeg := false }

end OutContent

/-! ### The content commands as the content store takes them (R136) -/

/-- LABEL (R39). -/
def applyLabel (v : Variant) (l : Label) (m : Mask) (s : State) : Answer :=
  .done (s.modOuts m (OutContent.stageLabel v l))

/-- TEXT (R40). -/
def applyText (v : Variant) (chars : List Byte) (m : Mask) (s : State) : Answer :=
  .done (s.modOuts m (OutContent.stageText v chars))

/-- FREQLIST (R41). -/
def applyFreqlist (codes : List Nat) (m : Mask) (s : State) : Answer :=
  .done (s.modOuts m (OutContent.stageFreqs codes))

/-- OPTOUT_BEGIN (R37): every target output needs a regional identity. -/
def applyOptoutBegin (m : Mask) (s : State) : Answer :=
  if outputs.any fun p => inMask m p && (s.outCfg p).regId == 0 then .refuse .noVariant s
  else .done (s.modOuts m (OutContent.request .regional))

/-- OPTOUT_END (R37). -/
def applyOptoutEnd (m : Mask) (s : State) : Answer :=
  .done (s.modOuts m (OutContent.request .network))

/-- A neighbour slot is written or freed. -/
def setNeighbour (slot : SlotId) (r : Option Neighbour) (s : State) : State :=
  { s with content := { s.content with neighbours := s.content.neighbours.set slot r } }

/-- R49: the external flags are kept where the slot was used with no link and the new link is none. -/
def keptFlags (old : Option Neighbour) (link : Option OutId) : Flags3 :=
  match old with
  | some r => if r.link.isNone && link.isNone then r.ext else ⟨false, false, false⟩
  | none => ⟨false, false, false⟩

/-- NEIGHBOUR (R49, R50): the record is written at once, or the slot is freed when the carrier mask is empty. -/
def applyNeighbour (slot : SlotId) (identity : Word) (freq : Nat) (carriers : Mask) (link : Option OutId)
    (chars : List Byte) (s : State) : Answer :=
  if carriers = 0 then .done (setNeighbour slot none s)
  else .done (setNeighbour slot
    (some { identity := identity, label := chars, freq := freq, carriers := carriers, link := link
            ext := keptFlags (s.content.neighbours.get slot) link }) s)

/-- NEIGHBOUR_FLAGS (R51). -/
def applyNeighbourFlags (slot : SlotId) (flags : Flags3) (s : State) : Answer :=
  match s.content.neighbours.get slot with
  | none => .refuse .badParam s
  | some r =>
    if r.link.isSome then .refuse .badParam s
    else .done (setNeighbour slot (some { r with ext := flags }) s)

/-! ### The neighbour records as outputs carry them -/

/-- Some used record has the output in its carrier mask (R47). -/
def neighbourReady (s : State) (p : OutId) : Bool :=
  s.content.neighbours.items.any fun r => r.any fun r => inMask r.carriers p

/-- The AN output `q` carries for the cell that begins: 0 while it is OFF (R9, R53). -/
def anOf (s : State) (q : OutId) : Bool := (s.lane q).run && (s.lane q).seq.phase != .quiet

/-- The flags a record carries for the cell that begins (R9). -/
def carriedFlags (s : State) (r : Neighbour) : Flags3 :=
  match r.link with
  | none => r.ext
  | some q => { tc := (s.outCfg q).tc, an := anOf s q, rg := (s.out q).source == .regional }

/-- R52: the record and segment of the neighbour cycle of output `p`, searching from the next slot upward. -/
def cycleChoice (s : State) (p : OutId) : Option (SlotId × Bool) :=
  let o := s.out p
  let carried (i : SlotId) : Bool := (s.content.neighbours.get i).any fun r => inMask r.carriers p
  match (List.finRange 8).find? fun i => carried (o.nbSlot + i) with
  | none => none
  | some i => some (o.nbSlot + i, if i = 0 then o.nbSeg else false)

/-- R52: after a segment 0 the same slot's segment 1 is next; after a segment 1 the next slot's segment 0. -/
def advanceCycle (slot : SlotId) (second : Bool) (o : OutContent) : OutContent :=
  if second then { o with nbSlot := slot + 1, nbSeg := false } else { o with nbSlot := slot, nbSeg := true }

/-- R53: the AN each used record carries for the cell that begins. -/
def carriedAn (s : State) : Table 8 (Option Bool) :=
  s.content.neighbours.map fun r => r.map fun r => (carriedFlags s r).an

/-- R53: the record in a slot carries another AN than for the cell before; at the first boundary after a reset the AN
before is taken to be 0 (R54). A record unused for the cell before makes no request. A record that a timed NEIGHBOUR
relinks at this boundary is compared at it (log 33). -/
def anChanged (s : State) (first : Bool) (slot : SlotId) : Bool :=
  match (carriedAn s).get slot with
  | none => false
  | some an =>
    match (if first then some false else s.content.prevAn.get slot) with
    | none => false
    | some before => an != before

/-- R53: the lowest-numbered slot whose record requests a burst on output `p`. -/
def burstRequest (s : State) (first : Bool) (p : OutId) : Option SlotId :=
  (List.finRange 8).find? fun slot =>
    anChanged s first slot &&
      (s.content.neighbours.get slot).any fun r => inMask r.carriers p && r.link != some p

/-- R53: what each record carried is kept for the next boundary's comparison. -/
def keepAn (s : State) : State :=
  { s with content := { s.content with prevAn := carriedAn s } }

end Sys2Proof.Machine
end

