-- ==== Sys2Proof/Machine/Claims.lean ====
section
/-! DEFINITION. The claim manager (section 6): ranking, admission, displacement, ends, eligibility, statuses and times,
and the requests of cue lines. -/

namespace Sys2Proof.Machine

/-! ### Ranking (R86) -/

/-- R86: higher priority ranks above; at equal priority the smaller stamp ranks above. -/
def outranks (a b : Claim) : Bool :=
  decide (b.priority < a.priority) || (a.priority == b.priority && decide (a.stamp.toNat < b.stamp.toNat))

/-- The highest-ranked of some claims (R106). -/
def highest : List Claim → Option Claim
  | [] => none
  | c :: cs =>
    match highest cs with
    | none => some c
    | some d => if outranks d c then some d else some c

/-- The lowest-ranked of some claims (R92). -/
def lowest : List Claim → Option Claim
  | [] => none
  | c :: cs =>
    match lowest cs with
    | none => some c
    | some d => if outranks c d then some d else some c

/-- A claim put in its place among claims in rank order. -/
def insertRanked (c : Claim) : List Claim → List Claim
  | [] => [c]
  | d :: ds => if outranks c d then c :: d :: ds else d :: insertRanked c ds

/-- The claims in rank order, the highest first (R171). -/
def ranked (cs : List Claim) : List Claim := cs.foldr insertRanked []

def Claim.ref (c : Claim) : ClaimRef := { key := c.key, stamp := c.stamp }

/-- The claim held with a key (R90). -/
def claimHeld (s : State) (k : ClaimKey) : Option Claim := s.claims.table.find? fun c => c.key == k

/-- A claim that is CURRENT on no output, as its statuses stand (R85). -/
def Claim.currentNowhere (c : Claim) : Bool := c.status.items.all fun st => st != .current

/-! ### Ends (R100, R101) -/

/-- R100: a claim leaves the table, its origin's last-ended record is written with the given count, and the end is
counted under its reason. -/
def endClaim (c : Claim) (reason : EndReason) (count : Count) (s : State) : State :=
  { s with claims := { s.claims with
      table := s.claims.table.filter fun d => d.key != c.key
      lastEnded := s.claims.lastEnded.set (originIndex c.key.origin)
        (some { number := c.key.number, cls := c.cls, reason := reason, count := count, onAir := c.holdUsed })
      counters := { s.claims.counters with ended := s.claims.counters.ended.modify reason.index satInc } } }

/-! ### Admission (R86, R90 to R92) -/

/-- What asks to be admitted: a claim but for what admission itself gives it. -/
structure Newcomer where
  key : ClaimKey
  kind : ClaimKind
  cls : ClaimClass
  priority : Nat
  group : Byte
  target : Mask
  holdLimit : Nat
  waitLimit : Nat
  deriving DecidableEq, Repr

/-- How an admission went. -/
inductive Admission where
  | admitted (stamp : Counter) (displaced : Option ClaimKey)
  | duplicate
  | tableFull
  | noTarget
  deriving DecidableEq, Repr

/-- R85: the statuses at admission. -/
def admissionStatus (target : Mask) : Table 4 ClaimStatus :=
  .tabulate fun p => if inMask target p then .ineligible else .notTarget

def Newcomer.claim (n : Newcomer) (stamp : Counter) : Claim :=
  { key := n.key, kind := n.kind, cls := n.cls, priority := n.priority, group := n.group, target := n.target,
    holdLimit := n.holdLimit, waitLimit := n.waitLimit, holdUsed := 0, waitUsed := 0, stamp := stamp,
    status := admissionStatus n.target }

/-- R86: the stamp a claim held takes at a renumbering, the number of claims held with a smaller one. -/
def renumbered (held : List Claim) (stamp : Counter) : Counter :=
  BitVec.ofNat 32 (held.countP fun d => decide (d.stamp.toNat < stamp.toNat))

/-- The renumbering as a sequencer's current claim follows it; the reference to a claim no longer held takes a stamp
no claim ever has (log 13). -/
def renumberRef (held : List Claim) (r : ClaimRef) : ClaimRef :=
  if held.any fun d => d.key == r.key && d.stamp == r.stamp then { r with stamp := renumbered held r.stamp }
  else { r with stamp := BitVec.allOnes 32 }

/-- R86: when the stamp counter stands at 4,294,967,295 the claims held are renumbered first. -/
def renumber (s : State) : State :=
  if s.claims.nextStamp = BitVec.allOnes 32 then
    let held := s.claims.table
    { s with
      claims := { s.claims with
        table := held.map fun c => { c with stamp := renumbered held c.stamp }
        nextStamp := BitVec.ofNat 32 held.length }
      lanes := s.lanes.map fun ln =>
        { ln with seq := { ln.seq with current := ln.seq.current.map (renumberRef held) } } }
  else s

/-- R91: the newcomer takes a free place and the next stamp. -/
def enterTable (n : Newcomer) (s : State) : State :=
  let s := renumber s
  { s with claims := { s.claims with
      table := s.claims.table ++ [n.claim s.claims.nextStamp]
      nextStamp := s.claims.nextStamp + 1
      counters := { s.claims.counters with admitted := satInc s.claims.counters.admitted } } }

/-- The stamp the next admission takes (R86). -/
def stampTaken (s : State) : Counter := (renumber s).claims.nextStamp

/-- R92: a full refusal. -/
def countFull (s : State) : State :=
  { s with claims := { s.claims with
      counters := { s.claims.counters with refusedFull := satInc s.claims.counters.refusedFull } } }

/-- R92: the lowest-ranked claim that is current nowhere. -/
def displaceable (s : State) : Option Claim := lowest (s.claims.table.filter Claim.currentNowhere)

/-- R90 to R92: duplicate key, free place, displacement or full refusal. The newcomer's stamp is larger than every
stamp held, so it ranks above a claim only if its priority is higher. `count` is the end count of a displaced claim
(R101). -/
def admitClaim (n : Newcomer) (count : Count) (s : State) : Admission × State :=
  if (claimHeld s n.key).isSome then (.duplicate, s)
  else if s.claims.table.length < 8 then (.admitted (stampTaken s) none, enterTable n s)
  else match displaceable s with
    | none => (.tableFull, countFull s)
    | some d =>
      if d.priority < n.priority then
        let s' := endClaim d .displaced count s
        (.admitted (stampTaken s') (some d.key), enterTable n s')
      else (.tableFull, countFull s)

/-! ### The announce commands as the claim manager takes them -/

/-- The reply data of an admission (R177). -/
def admissionData (stamp : Counter) (displaced : Option ClaimKey) : List Byte :=
  bytesOf 4 stamp.toNat ++ match displaced with
    | none => [0xFF, 0]
    | some k => [originCode k.origin, k.number]

/-- CLAIM (R90 to R92, R94). -/
def applyClaim (l : LinkId) (number : Byte) (cls : ClaimClass) (priority : Nat) (group : Byte)
    (holdLimit waitLimit : Nat) (m : Mask) (count : Count) (s : State) : Answer :=
  match admitClaim { key := { origin := .link l, number := number }, kind := .link, cls := cls, priority := priority,
                     group := group, target := m, holdLimit := holdLimit, waitLimit := waitLimit } count s with
  | (.admitted stamp displaced, s') => .give (admissionData stamp displaced) s'
  | (.duplicate, s') => .refuse .duplicate s'
  | (.tableFull, s') => .refuse .tableFull s'
  | (.noTarget, s') => .refuse .noTarget s'

/-- RELEASE (R95). -/
def applyRelease (l : LinkId) (number : Byte) (count : Count) (s : State) : Answer :=
  match claimHeld s { origin := .link l, number := number } with
  | none => .refuse .noClaim s
  | some c => .done (endClaim c .released count s)

/-! ### Requests of cue lines (R93, R123 to R126) -/

/-- R93: the kind of claim a line enters, after its mode at the request. -/
def cueKind : CueMode → ClaimKind
  | .pulse => .pulseCue
  | .level => .levelCue
  | .off => .levelCue

/-- R93: an entry request with the line's template as it stands. -/
def cueEntry (c : LineId) (count : Count) (s : State) : Admission × State :=
  let cfg := s.cueCfg c
  if cfg.target = 0 then (.noTarget, s)
  else admitClaim { key := { origin := .cue c, number := 0 }, kind := cueKind cfg.mode, cls := cfg.cls,
                    priority := cfg.priority, group := cfg.group, target := cfg.target, holdLimit := cfg.holdLimit,
                    waitLimit := cfg.waitLimit } count s

def countAdmitted (k : CueLine) : CueLine :=
  { k with counters := { k.counters with admitted := satInc k.counters.admitted } }

def countFailure (k : CueLine) : CueLine :=
  { k with counters := { k.counters with failures := satInc k.counters.failures } }

/-- R123, R126: the first entry request after an accepted ACTIVE change. A refused LEVEL line is pending. -/
def entryRequest (c : LineId) (count : Count) (s : State) : State :=
  let level := (s.cueCfg c).mode == .level
  match cueEntry c count s with
  | (.admitted _ _, s') => s'.modCue c fun k => { countAdmitted k with pending := false }
  | (.duplicate, s') => s'.modCue c fun k => { countFailure k with pending := level }
  | (.tableFull, s') => s'.modCue c fun k => { countFailure k with pending := level }
  | (.noTarget, s') => s'.modCue c fun k => { countFailure k with pending := level }

/-- R124: the entry request a pending line makes again at a boundary; a refusal counts nothing. -/
def retryRequest (c : LineId) (count : Count) (s : State) : State :=
  match cueEntry c count s with
  | (.admitted _ _, s') => s'.modCue c fun k => { countAdmitted k with pending := false }
  | (.duplicate, s') => s'
  | (.tableFull, s') => s'
  | (.noTarget, s') => s'

/-- R126: the hold used of the line's claim returns to 0; a claim no longer held counts an admission failure. -/
def retriggerRequest (c : LineId) (s : State) : State :=
  match claimHeld s { origin := .cue c, number := 0 } with
  | none => s.modCue c countFailure
  | some held =>
    let s' := { s with claims := { s.claims with
      table := s.claims.table.map fun (d : Claim) => if d.key = held.key then { d with holdUsed := 0 } else d } }
    s'.modCue c fun k => { k with counters := { k.counters with retriggers := satInc k.counters.retriggers } }

/-- R125: the pending flag clears and the line's claim, if held, ends RELEASED. -/
def finishRequest (c : LineId) (count : Count) (s : State) : State :=
  let s := s.modCue c fun k => { k with pending := false }
  match claimHeld s { origin := .cue c, number := 0 } with
  | none => s
  | some held => endClaim held .released count s

/-- A request of a line reaches the claim manager (R93). -/
def cueRequest (c : LineId) (r : CueRequest) (count : Count) (s : State) : State :=
  match r with
  | .entry => entryRequest c count s
  | .retrigger => retriggerRequest c s
  | .finish => finishRequest c count s

/-! ### Limits (R97) -/

/-- R97: the reason a claim ends at a boundary, that of the hold limit first. -/
def expiryReason (c : Claim) : Option EndReason :=
  if c.holdLimit ≠ 0 ∧ c.holdLimit ≤ c.holdUsed.toNat then
    some (if c.kind = .pulseCue then .elapsed else .overrun)
  else if c.waitLimit ≠ 0 ∧ c.waitLimit ≤ c.waitUsed.toNat then some .stale
  else none

/-- R97: the claim with this key ends if it is held and one of its limits has been reached. -/
def expire (k : ClaimKey) (count : Count) (s : State) : State :=
  match claimHeld s k with
  | none => s
  | some c =>
    match expiryReason c with
    | none => s
    | some reason => endClaim c reason count s

/-! ### Eligibility, statuses and times (R85, R87, R98) -/

/-- The group set an output accepts for its source in force (R87). -/
def acceptedSet (s : State) (p : OutId) : SetId :=
  match (s.out p).source with
  | .network => (s.outCfg p).accNet
  | .regional => (s.outCfg p).accReg

/-- R87: a claim is eligible on output `p` for the cell that begins. -/
def eligible (s : State) (p : OutId) (c : Claim) : Bool :=
  inMask c.target p && (s.lane p).run && (s.outCfg p).tc && groupMember s.settings (acceptedSet s p) c.group

/-- R106: the highest-ranked claim eligible on output `p`. -/
def choice (s : State) (p : OutId) : Option Claim := highest (s.claims.table.filter (eligible s p))

/-- R85: the status of a claim on output `p` once the sequencers have chosen. -/
def statusOn (s : State) (c : Claim) (p : OutId) : ClaimStatus :=
  if inMask c.target p then
    if eligible s p c then
      if (s.lane p).seq.current = some c.ref then .current else .waiting
    else .ineligible
  else .notTarget

/-- R98: the claim is CURRENT on an output whose phase is ON_AIR. -/
def onAirSomewhere (s : State) (c : Claim) : Bool :=
  outputs.any fun p => statusOn s c p == .current && (s.lane p).seq.phase == .onAir

/-- R85, R98: a claim's statuses are set and its times advance. -/
def advanceClaim (s : State) (c : Claim) : Claim :=
  let status : Table 4 ClaimStatus := .tabulate (statusOn s c)
  { c with
    status := status
    holdUsed := satIncIf (onAirSomewhere s c) c.holdUsed
    waitUsed := satIncIf (status.items.all fun st => st != .current) c.waitUsed }

/-- R85, R98: the work of the claim manager after the sequencers have chosen. -/
def advanceClaims (s : State) : State :=
  { s with claims := { s.claims with table := s.claims.table.map (advanceClaim s) } }

end Sys2Proof.Machine
end

