-- ==== Sys2Proof/Machine/Pool.lean ====
section
/-! DEFINITION. The traffic message pool (section 5). -/

namespace Sys2Proof.Machine

/-- The records of the pool changed. -/
def State.modPool (f : List PoolRecord → List PoolRecord) (s : State) : State :=
  { s with pool := { s.pool with records := f s.pool.records } }

def State.modPoolCounters (f : PoolCounters → PoolCounters) (s : State) : State :=
  { s with pool := { s.pool with counters := f s.pool.counters } }

/-- The record of a TMSG_ADD (R74, R75): repeats on the target outputs, every next-eligible count the current
count. -/
def newRecord (key : Word) (content : BitVec 48) (reps spacing : Nat) (m : Mask) (count : Count) : PoolRecord :=
  { key := key, content := content, target := m, spacing := spacing,
    repeats := .tabulate fun p => if inMask m p then reps else 0, nextEligible := .replicate 4 count }

/-- The arrival position of a key (R72). -/
def poolPosition (s : State) (key : Word) : Option Nat :=
  let i := s.pool.records.findIdx fun r => r.key == key
  if i < s.pool.records.length then some i else none

/-- TMSG_ADD (R74, R75): replace in place, add at the end, or refuse in a full pool. The reply data (R177) is the
outcome and the arrival position, a byte each (log 42). -/
def applyTmsgAdd (key : Word) (content : BitVec 48) (reps spacing : Nat) (m : Mask) (count : Count) (s : State) :
    Answer :=
  let record := newRecord key content reps spacing m count
  match poolPosition s key with
  | some i =>
    .give [1, BitVec.ofNat 8 i]
      ((s.modPool fun rs => rs.set i record).modPoolCounters fun k => { k with replaced := satInc k.replaced })
  | none =>
    if s.pool.records.length < 32 then
      .give [0, BitVec.ofNat 8 s.pool.records.length]
        ((s.modPool fun rs => rs ++ [record]).modPoolCounters fun k => { k with added := satInc k.added })
    else .refuse .poolFull (s.modPoolCounters fun k => { k with refusedFull := satInc k.refusedFull })

/-- TMSG_CANCEL (R76). -/
def applyTmsgCancel (key : Word) (s : State) : Answer :=
  match poolPosition s key with
  | none => .refuse .notFound s
  | some i =>
    .done ((s.modPool fun rs => rs.eraseIdx i).modPoolCounters fun k => { k with cancelled := satInc k.cancelled })

/-! ### Boundaries (R78 to R81) -/

/-- R78: a record is due on output `p` for the cell with count `c`. The test holds for an output that has just entered
RUN as for every other (log 34). -/
def due (c : Count) (p : OutId) (r : PoolRecord) : Bool :=
  decide (0 < r.repeats.get p) && decide ((c - r.nextEligible.get p).toNat < 8388608)

/-- R78: some record is due on output `p`. -/
def poolReady (s : State) (c : Count) (p : OutId) : Bool := s.pool.records.any (due c p)

/-- R78: a next-eligible count that lies behind the cell count is brought forward to it. -/
def holdRecord (c : Count) (r : PoolRecord) : PoolRecord :=
  { r with nextEligible := r.nextEligible.map fun (ne : Count) =>
      if 1 ≤ (c - ne).toNat ∧ (c - ne).toNat ≤ 8388607 then c else ne }

/-- R78: the hold of a boundary. -/
def holdPool (c : Count) (s : State) : State := s.modPool (List.map (holdRecord c))

/-- R81: at a jump every next-eligible count becomes the new count. -/
def jumpPool (new : Count) (s : State) : State :=
  s.modPool (List.map fun r => { r with nextEligible := .replicate 4 new })

/-- R79: the accounting of a send on output `p` in the cell with count `c`. -/
def sendRecord (c : Count) (p : OutId) (r : PoolRecord) : PoolRecord :=
  { r with repeats := r.repeats.modify p (· - 1)
           nextEligible := r.nextEligible.set p (c + BitVec.ofNat 24 r.spacing) }

/-- R80: a record whose repeats have run out on every output. -/
def spent (r : PoolRecord) : Bool := r.repeats.items.all (· == 0)

/-- R79, R80: the earliest due record is sent on output `p` and leaves when its repeats have run out everywhere. -/
def sendFirst (c : Count) (p : OutId) : List PoolRecord → List PoolRecord
  | [] => []
  | r :: rs =>
    if due c p r then
      if spent (sendRecord c p r) then rs else sendRecord c p r :: rs
    else r :: sendFirst c p rs

/-- R79: the record output `p` sends. -/
def firstDue (s : State) (c : Count) (p : OutId) : Option PoolRecord := s.pool.records.find? (due c p)

end Sys2Proof.Machine
end

