-- ==== Sys2Proof/Machine/Queue.lean ====
section
/-! DEFINITION. The activation queue (section 9): arrival, order, application, cancelling and jumps; and the owners'
acts on a checked command, timed or not. -/

namespace Sys2Proof.Machine

/-! ### The owners (R130, R136) -/

/-- SET_INTERVAL (R68): the interval of the service on every output of the mask. -/
def applySetInterval (sv : Service) (v : Nat) (m : Mask) (s : State) : Answer :=
  .done (s.modSettings fun cfg => { cfg with
    outputs := .tabulate fun p =>
      if inMask m p then { cfg.outputs.get p with intervals := (cfg.outputs.get p).intervals.set sv.index v }
      else cfg.outputs.get p })

/-- The owner takes a command against its state as it stands: `m` is the route mask, `l` the origin link and `count`
the current count (R136). -/
def applyCmd (cmd : TimedCmd) (m : Mask) (l : LinkId) (count : Count) (s : State) : Answer :=
  match cmd with
  | .label v lab => applyLabel v lab m s
  | .text v chars => applyText v chars m s
  | .freqlist codes => applyFreqlist codes m s
  | .neighbour slot identity freq carriers link chars => applyNeighbour slot identity freq carriers link chars s
  | .neighbourFlags slot flags => applyNeighbourFlags slot flags s
  | .optoutBegin => applyOptoutBegin m s
  | .optoutEnd => applyOptoutEnd m s
  | .setInterval sv v => applySetInterval sv v m s
  | .claim number cls priority group hold wait => applyClaim l number cls priority group hold wait m count s
  | .release number => applyRelease l number count s
  | .tmsgAdd key content reps spacing => applyTmsgAdd key content reps spacing m count s
  | .tmsgCancel key => applyTmsgCancel key s

/-! ### Arrival (R132, R133) -/

/-- The distance from count `n` to an activation cell (R132). -/
def delta (n c : Count) : Nat := (c - n).toNat

/-- R133: after every entry whose activation cell is the same or nearer, before every one farther. -/
def insertEntry (n : Count) (e : QueueEntry) : List QueueEntry → List QueueEntry
  | [] => [e]
  | d :: ds => if delta n e.cell < delta n d.cell then e :: d :: ds else d :: insertEntry n e ds

def State.modQueueCounters (f : QueueCounters → QueueCounters) (s : State) : State :=
  { s with queue := { s.queue with counters := f s.queue.counters } }

/-- R132: a timed command that has passed its tests is queued, queued late, or refused. -/
def arrive (cmd : TimedCmd) (m : Mask) (l : LinkId) (cell : Count) (tag : Byte) (s : State) : Answer :=
  let n := s.tb.count
  let d := delta n cell
  let enter (c : Count) (s : State) : State :=
    { s with queue := { s.queue with
        entries := insertEntry n { cell := c, link := l, tag := tag, cmd := cmd, target := m } s.queue.entries } }
  if 36001 ≤ d ∧ d ≤ 8388607 then
    .refuse .tooFar (s.modQueueCounters fun k => { k with refusedTooFar := satInc k.refusedTooFar })
  else if 32 ≤ s.queue.entries.length then
    .refuse .queueFull (s.modQueueCounters fun k => { k with refusedFull := satInc k.refusedFull })
  else if 1 ≤ d ∧ d ≤ 36000 then
    { status := .queued, adjusted := false, data := bytesOf 3 cell.toNat,
      state := (enter cell s).modQueueCounters fun k => { k with queued := satInc k.queued } }
  else
    { status := .lateApplied, adjusted := false, data := bytesOf 3 (n + 1).toNat,
      state := (enter (n + 1) s).modQueueCounters fun k => { k with lateAtArrival := satInc k.lateAtArrival } }

/-! ### Application (R135 to R137) -/

/-- R137: a failure at application counts one timed failure on the origin link. -/
def countTimedFailure (k : LinkState) : LinkState :=
  { k with counters := { k.counters with timedFailures := satInc k.counters.timedFailures } }

/-- R135 to R137, R141: an entry is handed to its owner; its result is recorded with the count of the cell. -/
def applyEntry (late : Bool) (count : Count) (e : QueueEntry) (s : State) : State :=
  let a := applyCmd e.cmd e.target e.link count s
  let failed := a.status.isRefusal
  let s := a.state
  let s := if failed then s.modLink e.link countTimedFailure else s
  { s with queue := { s.queue with
      results := s.queue.results.set e.link
        (some { tag := e.tag, cmd := e.cmd.cmd, status := a.status, count := count })
      counters := { s.queue.counters with
        applied := satInc s.queue.counters.applied
        failed := satIncIf failed s.queue.counters.failed
        appliedLate := satIncIf late s.queue.counters.appliedLate } } }

/-- The entries of a queue replaced. -/
def State.setEntries (es : List QueueEntry) (s : State) : State :=
  { s with queue := { s.queue with entries := es } }

/-- R135: the entries due for the cell with count `c` leave the queue, in queue order. -/
def takeDue (c : Count) (s : State) : List QueueEntry × State :=
  (s.queue.entries.filter fun e => e.cell == c, s.setEntries (s.queue.entries.filter fun e => e.cell != c))

/-- R139, R140: at a jump of forward distance `d` above 36,000 every entry is discarded; otherwise the entries with a
delta of `d` or less, measured from the last count under the old numbering, leave to be applied late. -/
def takeLate (last : Count) (d : Nat) (s : State) : List QueueEntry × State :=
  if 36000 < d then
    ([], (s.setEntries []).modQueueCounters fun k =>
      { k with discarded := satAdd k.discarded s.queue.entries.length })
  else
    (s.queue.entries.filter fun e => decide (delta last e.cell ≤ d),
      s.setEntries (s.queue.entries.filter fun e => decide (d < delta last e.cell)))

/-! ### Cancelling (R138) -/

/-- The entries CANCEL_TIMED removes. -/
def cancels (l : LinkId) (tag : Byte) (e : QueueEntry) : Bool := e.link == l && e.tag == tag

/-- CANCEL_TIMED (R138). The reply data (R177) is the number removed, in one byte (log 42). -/
def applyCancelTimed (l : LinkId) (tag : Byte) (s : State) : Answer :=
  let n := (s.queue.entries.filter (cancels l tag)).length
  if n = 0 then .refuse .notFound s
  else .give [BitVec.ofNat 8 n]
    ((s.setEntries (s.queue.entries.filter fun e => !cancels l tag e)).modQueueCounters fun k =>
      { k with cancelled := satAdd k.cancelled n })

end Sys2Proof.Machine
end

