-- ==== Sys2Proof/Machine/Handling.lean ====
section
/-! DEFINITION. The take of a frame and its handling (R148, R152, R157 to R159): the steps every command row shares,
and the rows of the routed commands. -/

namespace Sys2Proof.Machine

/-! ### Taking (R148) -/

/-- The body of the oldest waiting frame of a link, where its command code is `code?`-accepted (log 2). -/
def waitingFrame (accepts : Byte → Bool) (l : LinkId) (s : State) : Option (List Byte) :=
  match (s.link l).waiting with
  | [] => none
  | body :: _ => if accepts (byteAt body 0) then some body else none

/-- R148, R149: the oldest waiting frame leaves the buffer of link `l`. -/
def takeFrame (l : LinkId) (s : State) : State := s.modLink l (LinkState.take (s.linkCfg l))

/-! ### Counting and answering (R152, R159, R160) -/

def countRefusal (k : LinkState) : LinkState :=
  { k with counters := { k.counters with refusals := satInc k.counters.refusals } }

def countNotForUs (k : LinkState) : LinkState :=
  { k with counters := { k.counters with notForUs := satInc k.counters.notForUs } }

/-- The body of a reply (R159, R175). -/
def replyBody (code : Byte) (a : Answer) : List Byte :=
  [code + 0x80, a.status.code, boolByte a.adjusted] ++ a.data

/-- R152: a refusal counts one on the link; a direct-matched frame receives its reply at the instant of the take. -/
def finishFrame (l : LinkId) (code : Byte) (direct : Bool) (a : Answer) : State :=
  let s := if a.status.isRefusal then a.state.modLink l countRefusal else a.state
  if direct then s.modLink l (LinkState.placeReply (replyBody code a)) else s

/-- R157: the link's permission set holds the class. -/
def permitted (s : State) (l : LinkId) : Option CmdClass → Bool
  | none => true
  | some c => (s.linkCfg l).perms.getLsbD c.bit

/-- R152 step 3: a timed frame too short for its header. -/
def shortTimed (body : List Byte) : Bool := timedFlag body && decide (body.length < 9)

/-! ### Part commands (R151, R152) -/

/-- R152 steps 3 to 8 for a direct-matched part command. -/
def partAnswer (c : Cmd) (act : List Byte → State → Answer) (l : LinkId) (body : List Byte) (s : State) : Answer :=
  if shortTimed body then .refuse .badParam s
  else if !permitted s l c.cls then .refuse .denied s
  else if timedFlag body then .refuse .notTimeable s
  else act (frameParams body) s

/-- R152 for a part command. `after` is what follows the placing of an OK reply. -/
def handlePart (c : Cmd) (act : List Byte → State → Answer) (after : List Byte → State → State) (l : LinkId)
    (body : List Byte) (s : State) : State :=
  if directMatch s.settings (targetAddress body) then
    let a := partAnswer c act l body s
    let s' := finishFrame l c.code true a
    if a.status = .ok then after (frameParams body) s' else s'
  else s.modLink l countNotForUs

/-- The row of a part command: link `l` takes its oldest waiting frame, which carries this command. -/
def partRow (c : Cmd) (act : List Byte → State → Answer) (after : List Byte → State → State) (l : LinkId)
    (s : State) : Host.Outcome State Fault Refusal :=
  .next (match waitingFrame (· == c.code) l s with
    | none => s
    | some body => handlePart c act after l body (takeFrame l s))

/-- Nothing follows the reply. -/
def noAfter (_ : List Byte) (s : State) : State := s

/-- A checked part command: a refusal, or the act on the value with the adjusted flag the checks left. -/
def checkedAct {α : Type} (check : List Byte → Checked α) (act : α → State → Answer) (ps : List Byte) (s : State) :
    Answer :=
  match check ps with
  | .error st => .refuse st s
  | .ok (x, adjusted) => (act x s).adjust adjusted

/-! ### Routed commands (R151, R152, R155, R158) -/

/-- R158: a token is spent. -/
def spendToken (k : LinkState) : LinkState := { k with tokens := k.tokens - 1 }

/-- R152 step 8: the owner's checks, then the queue for a timed command or the owner at once (R131). -/
def ownerAnswer (check : List Byte → Checked TimedCmd) (m : Mask) (l : LinkId) (body : List Byte) (s : State) :
    Answer :=
  match check (frameParams body) with
  | .error st => .refuse st s
  | .ok (cmd, adjusted) =>
    (if timedFlag body then arrive cmd m l (activationCell body) (frameTag body) s
     else applyCmd cmd m l s.tb.count s).adjust adjusted

/-- The route mask of a frame (R155). -/
def frameMask (body : List Byte) (s : State) : Mask := routeMask s.settings (targetAddress body) (regionGroup body)

/-- R152 steps 3 to 8 for a routed command. -/
def routedAnswer (c : Cmd) (check : List Byte → Checked TimedCmd) (l : LinkId) (body : List Byte) (s : State) :
    Answer :=
  if shortTimed body then .refuse .badParam s
  else
    let m := frameMask body s
    let s := countRoute (targetAddress body) (regionGroup body) s
    if m = 0 then .refuse .noTarget s
    else if !permitted s l c.cls then .refuse .denied s
    else if (s.link l).tokens = 0 then .refuse .budget s
    else ownerAnswer check m l body (s.modLink l spendToken)

/-- R152 for a routed command: a frame that is not direct-matched acts all the same, without a reply. -/
def handleRouted (c : Cmd) (check : List Byte → Checked TimedCmd) (l : LinkId) (body : List Byte) (s : State) :
    State :=
  finishFrame l c.code (directMatch s.settings (targetAddress body)) (routedAnswer c check l body s)

/-- The row of a routed command: link `l` takes its oldest waiting frame, which carries this command. -/
def routedRow (c : Cmd) (check : List Byte → Checked TimedCmd) (l : LinkId) (s : State) :
    Host.Outcome State Fault Refusal :=
  .next (match waitingFrame (· == c.code) l s with
    | none => s
    | some body => handleRouted c check l body (takeFrame l s))

/-! ### The rows of the routed commands -/

/-- LABEL (R39). -/
def execLabel (l : LinkId) (s : State) : Host.Outcome State Fault Refusal := routedRow .label checkLabel l s

/-- TEXT (R40). -/
def execText (l : LinkId) (s : State) : Host.Outcome State Fault Refusal := routedRow .text checkText l s

/-- FREQLIST (R41). -/
def execFreqlist (l : LinkId) (s : State) : Host.Outcome State Fault Refusal := routedRow .freqlist checkFreqlist l s

/-- NEIGHBOUR (R49, R50). -/
def execNeighbour (l : LinkId) (s : State) : Host.Outcome State Fault Refusal :=
  routedRow .neighbour checkNeighbour l s

/-- NEIGHBOUR_FLAGS (R51). -/
def execNeighbourFlags (l : LinkId) (s : State) : Host.Outcome State Fault Refusal :=
  routedRow .neighbourFlags checkNeighbourFlags l s

/-- OPTOUT_BEGIN (R37). -/
def execOptoutBegin (l : LinkId) (s : State) : Host.Outcome State Fault Refusal :=
  routedRow .optoutBegin checkOptoutBegin l s

/-- OPTOUT_END (R37). -/
def execOptoutEnd (l : LinkId) (s : State) : Host.Outcome State Fault Refusal :=
  routedRow .optoutEnd checkOptoutEnd l s

/-- SET_INTERVAL (R68). -/
def execSetInterval (l : LinkId) (s : State) : Host.Outcome State Fault Refusal :=
  routedRow .setInterval checkSetInterval l s

/-- CLAIM (R89 to R92). -/
def execClaim (l : LinkId) (s : State) : Host.Outcome State Fault Refusal := routedRow .claim checkClaim l s

/-- RELEASE (R95). -/
def execRelease (l : LinkId) (s : State) : Host.Outcome State Fault Refusal := routedRow .release checkRelease l s

/-- TMSG_ADD (R73 to R75). -/
def execTmsgAdd (l : LinkId) (s : State) : Host.Outcome State Fault Refusal := routedRow .tmsgAdd checkTmsgAdd l s

/-- TMSG_CANCEL (R76). -/
def execTmsgCancel (l : LinkId) (s : State) : Host.Outcome State Fault Refusal :=
  routedRow .tmsgCancel checkTmsgCancel l s

/-! ### A code without a command (R152 step 1) -/

/-- UNKNOWN_COMMAND: refused where the frame is direct-matched, dropped as not-for-us where it is not. -/
def execUnknownCommand (l : LinkId) (s : State) : Host.Outcome State Fault Refusal :=
  .next (match waitingFrame (fun b => (cmdOf b).isNone) l s with
    | none => s
    | some body =>
      let s := takeFrame l s
      if directMatch s.settings (targetAddress body) then
        finishFrame l (byteAt body 0) true (.refuse .unknownCommand s)
      else s.modLink l countNotForUs)

end Sys2Proof.Machine
end

