-- ==== Sys2Proof/Machine/Sequencer.lean ====
section
/-! DEFINITION. The announcement sequencer (section 7). -/

namespace Sys2Proof.Machine

namespace Sequencer

/-- QUIET without a current claim, with the counters and the view cleared and the cue output inactive (R114). -/
def silence (q : Sequencer) : Sequencer :=
  { q with phase := .quiet, current := none, lead := 0, trail := 0, view := none, co := false }

/-- R114, R117: a drop from another phase counts one service drop. -/
def countDrop (q : Sequencer) : Sequencer :=
  { q with counters := { q.counters with drops := satIncIf (q.phase != .quiet) q.counters.drops } }

/-- R13: the starting state of a run. -/
def startRun (q : Sequencer) : Sequencer := { q.silence with burst := 0 }

/-- R114: the output leaves RUN; the burst's remaining cells are lost. -/
def leaveRun (q : Sequencer) : Sequencer := { q.countDrop.silence with burst := 0 }

/-- R107: QUIET with a claim chosen. -/
def begin (cfg : OutSettings) (r : ClaimRef) (q : Sequencer) : Sequencer :=
  { q with
    current := some r
    phase := if cfg.lead = 0 then .onAir else .onset
    lead := cfg.lead
    counters := { q.counters with onsets := satInc q.counters.onsets } }

/-- R108, R109: the chosen claim becomes current; a different claim is a handover. -/
def handTo (r : ClaimRef) (q : Sequencer) : Sequencer :=
  { q with
    current := some r
    counters := { q.counters with handovers := satIncIf (q.current != some r) q.counters.handovers } }

/-- R108: one cell of lead has passed. -/
def lessLead (q : Sequencer) : Sequencer :=
  { q with lead := q.lead - 1, phase := if q.lead - 1 = 0 then .onAir else .onset }

/-- R108: the onset is abandoned. -/
def abort (q : Sequencer) : Sequencer :=
  { q with phase := .quiet, current := none, lead := 0, view := none
           counters := { q.counters with aborted := satInc q.counters.aborted } }

/-- R109: ON_AIR with no claim chosen. -/
def finish (cfg : OutSettings) (q : Sequencer) : Sequencer :=
  { q with
    current := none
    phase := if cfg.trail = 0 then .quiet else .trail
    trail := cfg.trail
    view := if cfg.trail = 0 then none else q.view
    counters := { q.counters with onAirEnds := satInc q.counters.onAirEnds } }

/-- R110: a claim returns in TRAIL. -/
def resume (r : ClaimRef) (q : Sequencer) : Sequencer :=
  { q with current := some r, phase := .onAir, trail := 0
           counters := { q.counters with resumptions := satInc q.counters.resumptions } }

/-- R110: one cell of trail has passed. -/
def lessTrail (q : Sequencer) : Sequencer :=
  { q with trail := q.trail - 1
           phase := if q.trail - 1 = 0 then .quiet else .trail
           view := if q.trail - 1 = 0 then none else q.view }

/-- R107 to R110: the transition of an output in RUN with TC 1, by the chosen claim. -/
def transition (cfg : OutSettings) (chosen : Option ClaimRef) (q : Sequencer) : Sequencer :=
  match q.phase, chosen with
  | .quiet, some r => q.begin cfg r
  | .quiet, none => q
  | .onset, some r => (q.handTo r).lessLead
  | .onset, none => q.abort
  | .onAir, some r => q.handTo r
  | .onAir, none => q.finish cfg
  | .trail, some r => q.resume r
  | .trail, none => q.lessTrail

/-- R111: a change of phase or of current claim sets the burst counter to B. -/
def setBurst (cfg : OutSettings) (before q : Sequencer) : Sequencer :=
  if q.phase ≠ before.phase ∨ q.current ≠ before.current then { q with burst := cfg.burst } else q

/-- R115: the cue output is active exactly in ON_AIR. -/
def driveCue (q : Sequencer) : Sequencer := { q with co := q.phase == .onAir }

/-- R105 to R111, R114: a boundary of an output in RUN. With TC 0 the sequencer drops to QUIET. -/
def boundary (cfg : OutSettings) (chosen : Option ClaimRef) (q : Sequencer) : Sequencer :=
  driveCue (setBurst cfg q (if cfg.tc then q.transition cfg chosen else q.countDrop.silence))

/-- R112: the view is written from the current claim after the time increment. -/
def writeView (held : List Claim) (q : Sequencer) : Sequencer :=
  match q.current with
  | none => q
  | some r =>
    match held.find? fun c => c.ref == r with
    | none => q
    | some c => { q with view := some { cls := c.cls, group := c.group, holdUsed := c.holdUsed } }

end Sequencer

/-- The sequencer of a lane, changed. -/
def Lane.modSeq (f : Sequencer → Sequencer) (ln : Lane) : Lane := { ln with seq := f ln.seq }

/-- The scheduler of a lane, changed. -/
def Lane.modSched (f : Scheduler → Scheduler) (ln : Lane) : Lane := { ln with sched := f ln.sched }

/-- R106 to R111: the sequencer of output `p` works at a boundary if the output is in RUN. -/
def sequence (p : OutId) (s : State) : State :=
  if (s.lane p).run then
    let chosen := (choice s p).map Claim.ref
    s.modLane p (Lane.modSeq (Sequencer.boundary (s.outCfg p) chosen))
  else s

/-- R112: the views of the outputs in RUN. -/
def writeViews (s : State) : State :=
  { s with lanes := s.lanes.map fun ln => if ln.run then ln.modSeq (Sequencer.writeView s.claims.table) else ln }

end Sys2Proof.Machine
end

