-- ==== Sys2Proof/Machine/Cells.lean ====
section
/-! DEFINITION. What a cell carries (sections 1.1, 1.2, R174) and how it stands on the pins (section 1.3). -/

namespace Sys2Proof.Machine

/-! ### Payloads (R6 to R10, R174) -/

/-- An index in bits 7 to 4 and a total in bits 3 to 0 (R174). -/
def indexTotal (i n : Nat) : Byte := BitVec.ofNat 8 (i * 16 + n)

/-- Six characters of a segment, spaces past the end (R6, R7). -/
def segment (chars : List Byte) (i : Nat) : List Byte := padTo 6 (chars.drop (6 * i))

/-- R6. -/
def labelPayload (o : OutContent) : List Byte :=
  indexTotal o.labelPos o.labelTotal :: segment o.shownLabel.chars o.labelPos ++
    [BitVec.ofNat 8 o.shownLabel.category]

/-- R7. -/
def textPayload (o : OutContent) : List Byte :=
  [indexTotal o.textPos o.textTotal, o.textVersion] ++ segment o.shownText o.textPos

/-- R7, R174: the four 12-bit codes as one 48-bit field. -/
def chunkField (codes : List Nat) (i : Nat) : Nat :=
  let c (j : Nat) : Nat := codes.getD (4 * i + j) 0
  ((c 0 * 4096 + c 1) * 4096 + c 2) * 4096 + c 3

/-- R7. -/
def freqPayload (o : OutContent) : List Byte :=
  [indexTotal o.freqPos o.freqTotal, BitVec.ofNat 8 o.freqs.length] ++ bytesOf 6 (chunkField o.freqs o.freqPos)

/-- R8. -/
def tmsgPayload (r : PoolRecord) : List Byte := bytesOf 2 r.key.toNat ++ bytesOf 6 r.content.toNat

/-- R8: the count of the cell; the rest of the payload is zero. -/
def fillerPayload (c : Count) : List Byte := bytesOf 3 c.toNat ++ List.replicate 5 0

/-- R9, R174. -/
def neighbourPayload (r : Neighbour) (f : Flags3) (second : Bool) : List Byte :=
  let flags := f.tc.toNat * 128 + f.an.toNat * 64 + f.rg.toNat * 32 + second.toNat * 16
  bytesOf 2 r.identity.toNat ++ [BitVec.ofNat 8 (flags + r.freq / 256), BitVec.ofNat 8 r.freq] ++
    ((padTo 8 r.label).drop (if second then 4 else 0)).take 4

/-- R10: on-air seconds, saturating at 65,535. -/
def onAirSeconds (holdUsed : Counter) : Nat := min (holdUsed.toNat / 20) 65535

/-- The fields of an ANNOUNCE payload (R174). -/
def announceFields (cls group : Byte) (phase : Phase) (holdUsed : Counter) : List Byte :=
  [cls, group, phase.code] ++ bytesOf 2 (onAirSeconds holdUsed) ++ [0, 0, 0]

/-- R10, R113: the announcement state; `held` are the claims before this boundary's time increment. -/
def announcePayload (held : List Claim) (q : Sequencer) : List Byte :=
  match q.phase with
  | .quiet => List.replicate 8 0
  | .trail =>
    match q.view with
    | some v => announceFields v.cls.code v.group .trail v.holdUsed
    | none => announceFields 0 0 .trail 0
  | .onset | .onAir =>
    match held.find? fun c => q.current == some c.ref with
    | some c => announceFields c.cls.code c.group q.phase c.holdUsed
    | none => announceFields 0 0 q.phase 0

/-! ### The cell (R1, R3 to R5) -/

/-- R4, R174: kind, TC, AN, RG and LV. -/
def controlByte (k : CellKind) (tc an rg lv : Bool) : Byte :=
  BitVec.ofNat 8 (k.code * 16 + tc.toNat * 8 + an.toNat * 4 + rg.toNat * 2 + lv.toNat)

/-- R5: the check word covers identity, control and payload. -/
def makeCell (identity : Word) (control : Byte) (payload : List Byte) : Cell :=
  { identity := identity, control := control, payload := BitVec.ofNat 64 (natOf payload),
    check := crc (bytesOf 2 identity.toNat ++ [control] ++ payload) }

/-- R1: guard 1, 0; sync 1, 0, 1, 1, 0, 1, 0, 0; identity, control, payload and check: 114 bits. -/
def Cell.bits (c : Cell) : BitVec 114 :=
  (0b10#2 ++ 0b10110100#8 ++ c.identity ++ c.control ++ c.payload ++ c.check : BitVec (2 + 8 + 16 + 8 + 64 + 16))

/-- The bit of index `i`, the first guard bit having index 0 (R1, R19). -/
def Cell.bit (c : Cell) (i : Nat) : Bool := c.bits.getMsbD i

/-- R3: the identity of the active variant. -/
def identityOf (s : State) (p : OutId) : Word :=
  match (s.out p).source with
  | .network => (s.outCfg p).netId
  | .regional => (s.outCfg p).regId

/-- R2, R4, R16: output `p` fixes its cell and counts its kind. -/
def fixCell (p : OutId) (k : CellKind) (payload : List Byte) (s : State) : State :=
  let control := controlByte k (s.outCfg p).tc (anOf s p) ((s.out p).source == .regional) (s.out p).lv
  let cell := makeCell (identityOf s p) control payload
  s.modLane p fun ln =>
    { ln with asm := { ln.asm with cell := some cell, kinds := ln.asm.kinds.modify k.index satInc } }

/-! ### The pins (R11, R15) -/

/-- An output begins the bit of index `i`: DOn shows it and DCKn is low; without a cell both are low (R11). -/
def Assembler.beginBit (i : Nat) (a : Assembler) : Assembler :=
  { a with dout := a.cell.any (Cell.bit · i), dck := false }

/-- The middle of a bit period: DCKn rises while a cell is in progress (R11). -/
def Assembler.middle (a : Assembler) : Assembler := { a with dck := a.cell.isSome }

/-- R15: MON and MONCK stand at the level of the pins of the output copied, or low. -/
def followMonitor (s : State) : State :=
  { s with monitor :=
      match s.monitor.source with
      | none => { s.monitor with mon := false, monck := false }
      | some p => { s.monitor with mon := (s.lane p).asm.dout, monck := (s.lane p).asm.dck } }

/-- The pins of every output and of the monitor, once the bit position is `i` (R11, R15). -/
def beginBits (i : Nat) (s : State) : State :=
  followMonitor { s with lanes := s.lanes.map fun ln => { ln with asm := ln.asm.beginBit i } }

/-- R15: at a boundary the monitor takes up its selection if that output is in RUN. -/
def selectMonitor (s : State) : State :=
  { s with monitor := { s.monitor with
      source := match s.settings.monitor with
        | none => none
        | some p => if (s.lane p).run then some p else none } }

end Sys2Proof.Machine
end

