-- ==== Sys2Proof/Machine/Scheduler.lean ====
section
/-! DEFINITION. The cell scheduler (section 4): ages, bursts, the urgency contest, the winner's entry, and what the
choice sets going. -/

namespace Sys2Proof.Machine

namespace Scheduler

/-- R59: every age increases by 1 and stays at 1023. -/
def advanceAges (k : Scheduler) : Scheduler := { k with ages := k.ages.map fun a => min (a + 1) 1023 }

/-- R61: a pending burst becomes running from segment 0, in place of any burst still running. -/
def startBurst (k : Scheduler) : Scheduler :=
  match k.nbPending with
  | none => k
  | some slot =>
    { k with nbPending := none, nbRunning := some { slot := slot, second := false }, begun := satInc k.begun
             replaced := satIncIf k.nbRunning.isSome k.replaced }

/-- R62: a running burst whose slot the output no longer carries becomes idle. -/
def checkBurst (valid : SlotId → Bool) (k : Scheduler) : Scheduler :=
  match k.nbRunning with
  | none => k
  | some b => if valid b.slot then k else { k with nbRunning := none, endedEarly := satInc k.endedEarly }

/-- R62: the burst after one of its cells. -/
def stepBurst (b : NbBurst) (k : Scheduler) : Scheduler :=
  { k with nbRunning := if b.second then none else some { b with second := true } }

/-- R61: a request for a burst; one that replaces a pending request counts a burst replaced (log 25). -/
def requestBurst (slot : SlotId) (k : Scheduler) : Scheduler :=
  { k with nbPending := some slot, replaced := satIncIf k.nbPending.isSome k.replaced }

/-- R65: a late send is one whose age is greater than an enabled service's interval. -/
def isLate (age interval : Nat) : Bool := decide (1 ≤ interval) && decide (interval < age)

/-- R65: the winner's entry. -/
def sendEntry (intervals : Table 6 Nat) (sv : Service) (k : Scheduler) : Scheduler :=
  let i := sv.index
  let age := k.ages.get i
  { k with
    late := k.late.modify i (satIncIf (isLate age (intervals.get i)))
    largest := k.largest.modify i (max age)
    ages := k.ages.set i 0 }

/-- R13, R67: the starting state of a run. -/
def startRun (k : Scheduler) : Scheduler :=
  { k with ages := .replicate 6 0, nbPending := none, nbRunning := none }

end Scheduler

/-! ### The choice (R58, R60, R62, R63) -/

/-- R63: the urgency of a candidate. -/
def urgency (age interval : Nat) : Nat := age * 64 / interval

/-- R58: a service is ready on output `p` for the cell with the present count. -/
def ready (s : State) (p : OutId) : Service → Bool
  | .announce => (s.lane p).seq.phase != .quiet
  | .tmsg => poolReady s s.tb.count p
  | .label => true
  | .freq => !(s.out p).freqs.isEmpty
  | .neighbour => neighbourReady s p
  | .text => !(s.out p).shownText.isEmpty

/-- R63: a candidate is ready and enabled. -/
def candidate (s : State) (p : OutId) (sv : Service) : Bool :=
  ready s p sv && decide (1 ≤ (s.outCfg p).intervals.get sv.index)

/-- The urgency of a service of output `p` (R63). -/
def urgencyOf (s : State) (p : OutId) (sv : Service) : Nat :=
  urgency ((s.lane p).sched.ages.get sv.index) ((s.outCfg p).intervals.get sv.index)

/-- R63: the largest urgency wins, and the earliest in the fixed service order among equals. -/
def pickMost (u : Service → Nat) : List Service → Option Service
  | [] => none
  | sv :: rest =>
    match pickMost u rest with
    | none => some sv
    | some w => if u sv < u w then some w else some sv

/-- R63: the winner of the contest, none for FILLER. -/
def contest (s : State) (p : OutId) : Option Service :=
  pickMost (urgencyOf s p) (services.filter (candidate s p))

/-- What takes a cell (R60, R62, R63). -/
inductive Winner where
  | announceBurst
  | neighbourBurst (b : NbBurst)
  | service (sv : Service)
  | filler
  deriving DecidableEq, Repr

/-- The service whose entry a winner updates (R64, R65). -/
def Winner.service? : Winner → Option Service
  | .announceBurst => some .announce
  | .neighbourBurst _ => some .neighbour
  | .service sv => some sv
  | .filler => none

/-- The announce burst comes first, then the neighbour burst, then the contest (R60, R62, R63). -/
def winner (s : State) (p : OutId) : Winner :=
  if 0 < (s.lane p).seq.burst then .announceBurst
  else match (s.lane p).sched.nbRunning with
    | some b => .neighbourBurst b
    | none =>
      match contest s p with
      | some sv => .service sv
      | none => .filler

/-- The slot is used and carried by output `p` (R62). -/
def carries (s : State) (p : OutId) (slot : SlotId) : Bool :=
  (s.content.neighbours.get slot).any fun r => inMask r.carriers p

/-- R59, R61, R62: the scheduler's work before the choice. -/
def beforeChoice (p : OutId) (s : State) : State :=
  s.modLane p (Lane.modSched fun k => ((k.advanceAges).startBurst).checkBurst (carries s p))

/-- R60, R62, R65: the winner's burst and entry. -/
def afterChoice (p : OutId) (w : Winner) (s : State) : State :=
  s.modLane p fun ln =>
    let ln := match w with
      | .announceBurst => ln.modSeq fun q => { q with burst := q.burst - 1 }
      | .neighbourBurst b => ln.modSched (Scheduler.stepBurst b)
      | .service _ => ln
      | .filler => ln
    match w.service? with
    | none => ln
    | some sv => ln.modSched (Scheduler.sendEntry (s.outCfg p).intervals sv)

/-! ### What the choice sets going (R66) -/

/-- A NEIGHBOUR cell from a slot (R9); a slot that is unused gives no record to send (log 26). -/
def neighbourCell (p : OutId) (slot : SlotId) (second : Bool) (s : State) : State :=
  match s.content.neighbours.get slot with
  | none => fixCell p .neighbour (List.replicate 8 0) s
  | some r => fixCell p .neighbour (neighbourPayload r (carriedFlags s r) second) s

/-- R66: the cell of a service that wins the contest, with the content store's or the pool's accounting. -/
def serviceCell (held : List Claim) (p : OutId) (sv : Service) (s : State) : State :=
  match sv with
  | .announce => fixCell p .announce (announcePayload held (s.lane p).seq) s
  | .tmsg =>
    match firstDue s s.tb.count p with
    | none => fixCell p .tmsg (List.replicate 8 0) s
    | some r => fixCell p .tmsg (tmsgPayload r) (s.modPool (sendFirst s.tb.count p))
  | .label =>
    let s := s.modOut p OutContent.commitLabel
    (fixCell p .label (labelPayload (s.out p)) s).modOut p OutContent.advanceLabel
  | .freq => (fixCell p .freq (freqPayload (s.out p)) s).modOut p OutContent.advanceFreqs
  | .neighbour =>
    match cycleChoice s p with
    | none => fixCell p .neighbour (List.replicate 8 0) s
    | some (slot, second) => (neighbourCell p slot second s).modOut p (advanceCycle slot second)
  | .text => (fixCell p .text (textPayload (s.out p)) s).modOut p OutContent.advanceText

/-- R66: the cell of the winner. `held` are the claims before this boundary's time increment (R10). -/
def winnerCell (held : List Claim) (p : OutId) (w : Winner) (s : State) : State :=
  match w with
  | .announceBurst => fixCell p .announce (announcePayload held (s.lane p).seq) s
  | .neighbourBurst b => neighbourCell p b.slot b.second s
  | .service sv => serviceCell held p sv s
  | .filler => fixCell p .filler (fillerPayload s.tb.count) s

/-- R56 to R67: output `p`, if it is in RUN, chooses, accounts and fixes its cell. -/
def schedule (held : List Claim) (p : OutId) (s : State) : State :=
  if (s.lane p).run then
    let s := beforeChoice p s
    let w := winner s p
    winnerCell held p w (afterChoice p w s)
  else s

/-- R53, R61: after the choices, a changed AN requests a burst on output `p` if it is in RUN. -/
def requestBursts (first : Bool) (p : OutId) (s : State) : State :=
  if (s.lane p).run then
    match burstRequest s first p with
    | none => s
    | some slot => s.modLane p (Lane.modSched (Scheduler.requestBurst slot))
  else s

end Sys2Proof.Machine
end

