-- ==== Sys2Proof/Machine/Timebase.lean ====
section
/-! DEFINITION. The timebase (section 2): REF and the lock states, the rate, the count, and jumps. -/

namespace Sys2Proof.Machine

/-! ### REF (R22, R24) -/

/-- Femtoseconds in a second, the unit of a REF period (log 8). -/
def secondFs : Nat := 10 ^ 15

/-- R22: a period between 1/19,038 s and 1/18,962 s, both ends included. -/
def inTolerance (period : Nat) : Bool := decide (secondFs ≤ 19038 * period) && decide (18962 * period ≤ secondFs)

/-- The timebase judges REF and takes strobes: SLAVE, after the first boundary (R19, R21). -/
def listens (s : State) : Bool := s.settings.mode == .slave && s.tb.start == .running

namespace Timebase

/-- R24: LOCKED to HOLDOVER; the cell in progress is not judged. -/
def enterHoldover (t : Timebase) : Timebase :=
  { t with lock := .holdover, holdover := 0, qual := 0, judged := false
           counters := { t.counters with holdoverEntries := satInc t.counters.holdoverEntries } }

/-- A rising edge of REF closes a period, unless it is the first; one that ends a gap is out of tolerance (R22). -/
def edgeGood (t : Timebase) (period : Nat) : Bool :=
  match t.refWatch with
  | .noEdge => true
  | .edgeSeen => inTolerance period
  | .gapSeen => false

/-- R22: what an edge leaves of the measurement. -/
def noteEdge (period : Nat) (t : Timebase) : Timebase :=
  if t.refWatch = .noEdge then { t with refWatch := .edgeSeen }
  else { t with refWatch := .edgeSeen, refBad := t.refBad || !t.edgeGood period
                refPeriods := t.refPeriods + 1, refTime := t.refTime + period }

/-- R22: a gap is detected, once after an edge (log 10). -/
def noteGap (t : Timebase) : Timebase := { t with refWatch := .gapSeen, refBad := true }

/-- R23: the cell that has just ended qualifies. -/
def qualifies (t : Timebase) : Bool := !t.refBad && decide (0 < t.refPeriods)

/-- R23: the qualification count at a boundary, before a change of lock state. -/
def nextQual (t : Timebase) : Nat := if t.judged then (if t.qualifies then t.qual + 1 else 0) else t.qual

/-- R25: the holdover count at a boundary, before a change of lock state. -/
def nextHoldover (t : Timebase) : Nat := if t.lock = .holdover then t.holdover + 1 else t.holdover

/-- R23: the boundary at which the lock state becomes LOCKED. -/
def acquires (mode : TimingMode) (t : Timebase) : Bool :=
  mode == .slave && t.lock != .locked && decide (20 ≤ t.nextQual)

/-- R25: the boundary at which holdover is given up; an acquisition at the same boundary comes first. -/
def givesUp (mode : TimingMode) (t : Timebase) : Bool :=
  mode == .slave && t.lock == .holdover && decide (12000 ≤ t.nextHoldover) && !t.acquires mode

/-- R23, R25: the lock state at a boundary. -/
def judge (mode : TimingMode) (t : Timebase) : Timebase :=
  if t.acquires mode then
    { t with lock := .locked, qual := 0, holdover := 0
             counters := { t.counters with acquisitions := satInc t.counters.acquisitions } }
  else if t.givesUp mode then
    { t with lock := .free, qual := t.nextQual, holdover := 0
             counters := { t.counters with holdoverExpiries := satInc t.counters.holdoverExpiries } }
  else if mode = .slave ∧ t.lock ≠ .locked then { t with qual := t.nextQual, holdover := t.nextHoldover }
  else t

/-- R18: three twenty-fifths of the average frequency of REF over the cell that ended. -/
def refRate (t : Timebase) : Rate := { num := 3 * t.refPeriods * secondFs, den := 25 * t.refTime }

/-- R18: a rate from REF needs a period that ended in the cell. -/
def hasRefRate (t : Timebase) : Bool := decide (0 < t.refPeriods) && decide (0 < t.refTime)

/-- R18: the rate of the cell that begins, by the lock state as it stands; `free` where R18 states none (log 9). -/
def chooseRate (free : Rate) (t : Timebase) : Timebase :=
  match t.lock with
  | .free => { t with rate := nominalRate }
  | .locked =>
    let r := if t.hasRefRate then t.refRate else free
    { t with rate := r, lockedRate := r }
  | .holdover => { t with rate := t.lockedRate }

/-! ### The count (R26 to R29, R32) -/

/-- R27: an epoch cell's count is a multiple of 1024. -/
def isEpoch (c : Count) : Bool := c.toNat % 1024 == 0

/-- R26: the count the next cell has by advance alone; after a power-on the first cell has count 0. -/
def expected (t : Timebase) : Count := if t.start = .afterPowerOn then t.count else t.count + 1

/-- R29, R32: the count the next cell takes, and the arm that remains. A SET_EPOCH taken in MASTER before the first
boundary after a reset is used at that boundary, where its expected count is a multiple of 1024, though R27 and R35 give
the first cell after a power-on count 0: the model's choice (log 44). -/
def decideNext (mode : TimingMode) (t : Timebase) : Count × Option Count :=
  match t.markNext with
  | some c => (c, t.arm)
  | none =>
    if mode = .master ∧ isEpoch t.expected then (t.arm.getD t.expected, none) else (t.expected, t.arm)

/-- R29: the multiple of 1024 nearest to an expected count, the higher one from halfway. -/
def nearestEpoch (c : Count) : Count := BitVec.ofNat 24 ((c.toNat + 512) / 1024 * 1024)

/-- R29: the count a strobe decides. -/
def strobeCount (t : Timebase) (expected : Count) : Count := t.arm.getD (nearestEpoch expected)

/-- R18, R19, R23, R27: the timebase's own state for the cell that begins with count `c`. `marked` says that a strobe
marks it. -/
def beginCell (c : Count) (arm : Option Count) (marked : Bool) (t : Timebase) : Timebase :=
  { t with
    start := .running, count := c, arm := arm, bitPos := 0, markThis := marked, markNext := none, judged := true
    refBad := false, refPeriods := 0, refTime := 0, epout := isEpoch c, epoutEnds := if isEpoch c then 1 else 0 }

/-- R34: a jump is counted. -/
def countJump (t : Timebase) : Timebase :=
  { t with counters := { t.counters with jumps := satInc t.counters.jumps } }

/-- R19, R27: a bit period inside a cell ends; an EPOUT pulse that has lasted its bit period falls. -/
def stepBit (t : Timebase) : Timebase :=
  { t with
    bitPos := t.bitPos + 1, epout := t.epout && decide (1 < t.epoutEnds), epoutEnds := t.epoutEnds - 1 }

/-- R20: what a change of timing mode does at once. -/
def changeMode (t : Timebase) : Timebase :=
  { t with lock := .free, qual := 0, holdover := 0, markNext := none, judged := false, refWatch := .noEdge }

end Timebase

/-- R24: the reference is lost. -/
def loseReference (s : State) : State :=
  if s.tb.lock = .locked then (s.modTb Timebase.enterHoldover).raiseFault .refLost else s

/-- REF_EDGE (R22, R24): ignored in MASTER and before the first boundary (R19, R21). -/
def execRefEdge (period : Nat) (s : State) : Host.Outcome State Fault Refusal :=
  .next (if listens s then
    let s' := s.modTb (Timebase.noteEdge period)
    if s.tb.edgeGood period then s' else loseReference s'
  else s)

/-- REF_GAP (R22, R24). -/
def execRefGap (s : State) : Host.Outcome State Fault Refusal :=
  .next (if listens s ∧ s.tb.refWatch = .edgeSeen then loseReference (s.modTb Timebase.noteGap) else s)

/-- BIT_PERIOD_END (R19, R11): the next bit stands on the pins. The end of the last bit period is the boundary, whose
row is CELL_BOUNDARY (log 5). -/
def execBitPeriodEnd (s : State) : Host.Outcome State Fault Refusal :=
  .next (if s.tb.start = .running ∧ s.tb.bitPos < 113 then
    beginBits (s.tb.bitPos + 1) (s.modTb Timebase.stepBit)
  else s)

end Sys2Proof.Machine
end

