-- ==== Sys2Proof/Machine/Boundary.lean ====
section
/-! DEFINITION. The work of a boundary, in the order the spec gives (section 3.1 of the introduction, R2, R58, R99,
R105, R135), the EPOCH strobe, and the rows that are boundaries. -/

namespace Sys2Proof.Machine

/-! ### The table changes that meet at a boundary (R99) -/

/-- A change of the claim table at a boundary other than a timed entry. -/
inductive Change where
  | expiry (k : ClaimKey)
  | request (c : LineId) (r : CueRequest)
  | retry (c : LineId)
  deriving DecidableEq, Repr

/-- How the changes that meet are ordered: by a free value (log 11), or those other than timed entries first, expiries
before the rest (log 3). -/
inductive Order where
  | free
  | expiriesFirst
  deriving DecidableEq, Repr

/-- A timed entry to apply, and whether it is applied late at a jump (R139). -/
structure Due where
  late : Bool
  entry : QueueEntry
  deriving DecidableEq, Repr

/-- R97: the claims whose limits have been reached. -/
def expiries (s : State) : List Change :=
  (s.claims.table.filter fun c => (expiryReason c).isSome).map fun c => .expiry c.key

/-- The lines' numbers. -/
def lines : List LineId := [0, 1, 2, 3, 4, 5, 6, 7]

/-- R121, R126: the requests of lines whose acceptance fell on this boundary. -/
def cueRequests (s : State) : List Change :=
  lines.filterMap fun c => (s.cue c).due.map (Change.request c)

/-- R124: a LEVEL line, pending and active, makes its entry request again. -/
def retries (s : State) (c : LineId) : Bool :=
  (s.cueCfg c).mode == .level && (s.cue c).pending && (s.cue c).active

/-- The changes of a boundary other than its timed entries. -/
def changes (s : State) : List Change :=
  expiries s ++ cueRequests s ++ (lines.filter (retries s)).map Change.retry

/-- A request that waited for the boundary waits no longer. -/
def clearDue (c : LineId) (s : State) : State := s.modCue c fun k => { k with due := none }

/-- A change is taken whole, with the count of the cell that begins as its end count (R101). -/
def takeChange (count : Count) (ch : Change) (s : State) : State :=
  match ch with
  | .expiry k => expire k count s
  | .request c r => cueRequest c r count (clearDue c s)
  | .retry c => retryRequest c count s

/-- Which of `n` changes is taken next, and the state with the free value drawn (log 11, 22). -/
def pickChange (o : Order) (n : Nat) (s : State) : Nat × State :=
  if n ≤ 1 then (0, s)
  else match o with
    | .expiriesFirst => (0, s)
    | .free => (Config.freePick s.draws % n, s.draw)

/-- R99: the changes and the timed entries are taken one by one, the entries in queue order, in an order that is
otherwise open. The first argument bounds the number taken. -/
def takeChanges (o : Order) (count : Count) : Nat → List Due → List Change → State → State
  | 0, _, _, s => s
  | fuel + 1, timed, others, s =>
    let (i, s) := pickChange o (others.length + if timed.isEmpty then 0 else 1) s
    match others[i]?, timed with
    | some ch, _ => takeChanges o count fuel timed (others.eraseIdx i) (takeChange count ch s)
    | none, d :: ds => takeChanges o count fuel ds others (applyEntry d.late count d.entry s)
    | none, [] => s

/-! ### The steps of a boundary -/

/-- R13, R14: the run state of output `p` follows its enable. The pool's counts for it are left as they stand (log
34). -/
def changeRun (p : OutId) (s : State) : State :=
  match (s.lane p).run, (s.outCfg p).enable with
  | false, true =>
    (s.modLane p fun ln =>
      { ln with run := true, seq := ln.seq.startRun, sched := ln.sched.startRun }).modOut p OutContent.startRun
  | true, false =>
    s.modLane p fun ln => { ln with run := false, seq := ln.seq.leaveRun, asm := { ln.asm with cell := none } }
  | false, false => s
  | true, true => s

/-- R18, R23, R25: the lock state and the rate; a free value is drawn where R18 states no rate. -/
def judgeCell (s : State) : State :=
  let t := s.tb.judge s.settings.mode
  let s' := s.modTb fun _ => t.chooseRate (Config.freeRate s.draws)
  if t.lock = .locked ∧ !t.hasRefRate then s'.draw else s'

/-- R33, R81: a jump sets its flag, is counted and is reported to the pool. -/
def noteJump (new : Count) (s : State) : State :=
  jumpPool new ((s.modTb Timebase.countJump).raiseFault .timebaseJump)

/-- R135, R139, R140: the entries to apply for the cell with count `new`, in the order of their application; the queue
keeps the rest. -/
def takeEntries (expected new : Count) (s : State) : List Due × State :=
  if new = expected then
    let (onTime, s) := takeDue new s
    (onTime.map fun e => ⟨false, e⟩, s)
  else
    let (late, s) := takeLate (expected - 1) (delta expected new) s
    let (onTime, s) := takeDue new s
    (late.map (fun e => ⟨true, e⟩) ++ onTime.map fun e => ⟨false, e⟩, s)

/-- R36: every output's source, whether in RUN or OFF. -/
def updateSources (s : State) : State :=
  { s with content := { s.content with
      outs := .tabulate fun p => (s.out p).updateSource ((s.outCfg p).regId != 0) } }

/-- R44, R46, R55: text and list commits of the outputs in RUN. -/
def commitTexts (s : State) : State :=
  { s with content := { s.content with
      outs := .tabulate fun p => if (s.lane p).run then (s.out p).commitText.commitFreqs else s.out p } }

/-- R158: the token count of a link advances, and at its interval the link gains a token. -/
def gainToken (cfg : LinkSettings) (k : LinkState) : LinkState :=
  if cfg.interval ≤ k.tokenCount + 1 then
    { k with tokenCount := 0, tokens := if k.tokens < 32 then k.tokens + 1 else k.tokens }
  else { k with tokenCount := k.tokenCount + 1 }

/-- R158: the tokens of every link. -/
def gainTokens (s : State) : State :=
  { s with links := .tabulate fun l => gainToken (s.linkCfg l) (s.link l) }

/-- R99, R135: the timed entries and the other table changes of the boundary. The changes are listed once, before any is
taken, so a line whose request waited for this boundary and is refused at it makes its first retry (R124) at the next
boundary: the model's choice (log 46). -/
def tableChanges (o : Order) (expected new : Count) (s : State) : State :=
  let (timed, s) := takeEntries expected new s
  let others := changes s
  takeChanges o new (timed.length + others.length) timed others s

/-- What each output sends: sequencers, statuses and times, views, schedulers and cells (R105, R66). -/
def fillCells (s : State) : State :=
  let s := s.eachOut sequence
  let held := s.claims.table
  let s := writeViews (advanceClaims s)
  s.eachOut (schedule held)

/-- R53, R61: the neighbour comparison after the choices. -/
def compareNeighbours (first : Bool) (s : State) : State :=
  keepAn (s.eachOut (requestBursts first))

/-- A boundary, or a truncating strobe, which is one in every respect (R30): the cell that begins takes count `new`
where `expected` was due. -/
def boundaryAt (o : Order) (expected new : Count) (arm : Option Count) (marked : Bool) (s : State) : State :=
  let first := s.tb.start != .running
  let s := (judgeCell s).modTb (Timebase.beginCell new arm marked)
  let s := s.eachOut changeRun
  let s := if new = expected then s else noteJump new s
  let s := tableChanges o expected new s
  let s := updateSources s
  let s := holdPool new s
  let s := commitTexts s
  let s := fillCells s
  let s := compareNeighbours first s
  let s := gainTokens s
  beginBits 0 (selectMonitor s)

/-- R19: the boundary the timebase makes. -/
def boundary (o : Order) (s : State) : State :=
  let next := s.tb.decideNext s.settings.mode
  boundaryAt o s.tb.expected next.1 next.2 s.tb.markNext.isSome s

/-! ### The EPOCH strobe (R28 to R30) -/

/-- R34: an aligned strobe is counted. -/
def countAligned (s : State) : State :=
  s.modTb fun t => { t with counters := { t.counters with aligned := satInc t.counters.aligned } }

/-- The entries of a jump inside a cell are applied at once, in queue order (R139). -/
def applyLate (count : Count) (es : List QueueEntry) (s : State) : State :=
  es.foldl (fun s e => applyEntry true count e s) s

/-- R28, R29, R33: a strobe in the first bit period marks the cell being emitted, and may correct its count. -/
def strobeFirstBit (s : State) : State :=
  if s.tb.markThis then countAligned s
  else
    let old := s.tb.count
    let new := s.tb.strobeCount old
    let s := s.modTb fun t => { t with markThis := true, arm := none }
    if new = old then countAligned s
    else
      let pulse := !Timebase.isEpoch old
      let s := s.modTb fun t => { t with
        count := new, epout := t.epout || pulse, epoutEnds := if pulse then 2 else t.epoutEnds }
      let s := noteJump new s
      let (late, s) := takeLate old (delta old new) s
      applyLate new late s

/-- R28, R29: a strobe in the last bit period marks the next cell and decides its count. -/
def strobeLastBit (s : State) : State :=
  if s.tb.markNext.isSome then countAligned s
  else
    let expected := s.tb.count + 1
    let new := s.tb.strobeCount expected
    let s := s.modTb fun t => { t with markNext := some new, arm := none }
    if new = expected then countAligned s else s

/-- R12, R16: the cell of every output in RUN is cut. -/
def cutCells (s : State) : State :=
  { s with lanes := s.lanes.map fun ln =>
      if ln.run then { ln with asm := { ln.asm with truncated := satInc ln.asm.truncated } } else ln }

/-- R30: a strobe inside the cell cuts it and begins the marked cell. -/
def strobeCut (s : State) : State :=
  let expected := s.tb.count + 1
  let new := s.tb.strobeCount expected
  let s := s.modTb fun t => { t with
    counters := { t.counters with realignments := satInc t.counters.realignments } }
  boundaryAt .free expected new none true (cutCells s)

/-- EPOCH_STROBE (R28): ignored in MASTER and before the first boundary. -/
def execEpochStrobe (s : State) : Host.Outcome State Fault Refusal :=
  .next (if listens s then
    if s.tb.bitPos = 0 then strobeFirstBit s
    else if s.tb.bitPos < 113 then strobeCut s
    else strobeLastBit s
  else s)

/-! ### The rows that are boundaries (log 3) -/

/-- CELL_BOUNDARY (R19). -/
def execCellBoundary (s : State) : Host.Outcome State Fault Refusal := .next (boundary .free s)

/-- LOCK_ACQUISITION (R23): the boundary at which the qualification count reaches 20. -/
def execLockAcquisition (s : State) : Host.Outcome State Fault Refusal :=
  .next (if s.tb.acquires s.settings.mode then boundary .free s else s)

/-- HOLDOVER_EXPIRY (R25): the boundary at which the holdover count reaches 12,000. -/
def execHoldoverExpiry (s : State) : Host.Outcome State Fault Refusal :=
  .next (if s.tb.givesUp s.settings.mode then boundary .free s else s)

/-- Output `p` stays in service at the coming boundary. -/
def inService (s : State) (p : OutId) : Bool := (s.lane p).run && (s.outCfg p).enable && (s.outCfg p).tc

/-- LEAD_END (R108): the boundary at which the lead counter of output `p` reaches 0 and it goes on air. An onset that
would be abandoned at the boundary is CELL_BOUNDARY's, and the row leaves the state as it stands: the model's choice
(log 45). -/
def execLeadEnd (p : OutId) (s : State) : Host.Outcome State Fault Refusal :=
  let t := boundary .free s
  .next (if inService s p ∧ (s.lane p).seq.phase = .onset ∧ (t.lane p).seq.phase = .onAir then t else s)

/-- TRAIL_END (R110): the boundary at which the trail counter of output `p` reaches 0 and it goes to QUIET. A trail that
would be resumed at the boundary is CELL_BOUNDARY's, and the row leaves the state as it stands: the model's choice
(log 45). -/
def execTrailEnd (p : OutId) (s : State) : Host.Outcome State Fault Refusal :=
  let t := boundary .free s
  .next (if inService s p ∧ (s.lane p).seq.phase = .trail ∧ (t.lane p).seq.phase = .quiet then t else s)

/-- The claim with this key has reached its hold limit, or only its wait limit (R97). -/
def expiresAs (byWait : Bool) (k : ClaimKey) (s : State) : Bool :=
  match claimHeld s k with
  | none => false
  | some c =>
    match expiryReason c with
    | none => false
    | some reason => (reason == .stale) == byWait

/-- CLAIM_HOLD_EXPIRY (R97): the boundary at which this claim ends OVERRUN or ELAPSED; the expiry is what happens, so
it is taken before what could forestall it (R99). -/
def execClaimHoldExpiry (origin : Origin) (number : Byte) (s : State) : Host.Outcome State Fault Refusal :=
  .next (if expiresAs false ⟨origin, number⟩ s then boundary .expiriesFirst s else s)

/-- CLAIM_WAIT_EXPIRY (R97): the boundary at which this claim ends STALE. -/
def execClaimWaitExpiry (origin : Origin) (number : Byte) (s : State) : Host.Outcome State Fault Refusal :=
  .next (if expiresAs true ⟨origin, number⟩ s then boundary .expiriesFirst s else s)

/-- TOKEN_GAIN (R158): the boundary at which the token count of link `l` reaches its interval. -/
def execTokenGain (l : LinkId) (s : State) : Host.Outcome State Fault Refusal :=
  .next (if (s.linkCfg l).interval ≤ (s.link l).tokenCount + 1 then boundary .free s else s)

/-! ### The middle of a bit period (log 4) -/

/-- R11: DCKn of every output with a cell in progress rises, and MONCK with it. -/
def middle (s : State) : State :=
  followMonitor { s with lanes := s.lanes.map fun ln => { ln with asm := ln.asm.middle } }

end Sys2Proof.Machine
end

