-- ==== Sys2Proof/Machine/Cue.lean ====
section
/-! DEFINITION. The cue input unit (section 8): sampling, debounce, capture and the requests of an accepted change. -/

namespace Sys2Proof.Machine

/-- R121: the pin level read through the polarity. -/
def sampledActive (p : Polarity) (high : Bool) : Bool :=
  match p with
  | .activeHigh => high
  | .activeLow => !high

/-- R121: a sample of line `c` at which a change is accepted. -/
def accepts (c : LineId) (high : Bool) (s : State) : Bool :=
  (s.cueCfg c).mode != .off && sampledActive (s.cueCfg c).polarity high != (s.cue c).active &&
    decide ((s.cueCfg c).debounce ≤ (s.cue c).debounce + 1)

/-- R121: a sample at which no change is accepted: the debounce counter advances, or returns to 0 with a rejected
bounce. -/
def debounceStep (differs : Bool) (k : CueLine) : CueLine :=
  if differs then { k with debounce := k.debounce + 1 }
  else { k with debounce := 0
                counters := { k.counters with bounces := satIncIf (decide (0 < k.debounce)) k.counters.bounces } }

/-- R121, R122: the accepted level, the capture record and the count of accepted changes. -/
def acceptLevel (active : Bool) (count : Count) (bit : Nat) (k : CueLine) : CueLine :=
  { k with active := active, debounce := 0, capture := some { active := active, count := count, bit := bit }
           counters := { k.counters with accepted := satInc k.counters.accepted } }

/-- The request an accepted change makes, by the mode (R123, R125 to R127). -/
def modeRequest (c : LineId) (active : Bool) (s : State) : Option CueRequest :=
  match (s.cueCfg c).mode, active with
  | .off, _ => none
  | .level, true => some .entry
  | .level, false => some .finish
  | .pulse, true =>
    if (claimHeld s { origin := .cue c, number := 0 }).isSome then some .retrigger else some .entry
  | .pulse, false => none

/-- A request that still waits for a boundary is taken before a later one of its line (log 21). -/
def flushDue (c : LineId) (s : State) : State :=
  match (s.cue c).due with
  | none => s
  | some r => cueRequest c r s.tb.count (clearDue c s)

/-- R121 to R127: a change is accepted; its request is taken at once, or, for an acceptance at the instant of the
coming boundary, with that boundary's table changes. -/
def acceptChange (c : LineId) (active coincident : Bool) (s : State) : State :=
  let s := (flushDue c s).modCue c (acceptLevel active s.tb.count s.tb.bitPos)
  match modeRequest c active s with
  | none => s
  | some r =>
    if coincident then s.modCue c fun k => { k with due := some r, pending := k.pending && active }
    else cueRequest c r s.tb.count s

/-- R121: the millisecond sample of a line. A line in OFF is not sampled. -/
def sampleLine (c : LineId) (high coincident : Bool) (s : State) : State :=
  let active := sampledActive (s.cueCfg c).polarity high
  if (s.cueCfg c).mode = .off then s
  else if accepts c high s then acceptChange c active coincident s
  else s.modCue c (debounceStep (active != (s.cue c).active))

/-- CUE_SAMPLE (R121). -/
def execCueSample (c : LineId) (high coincident : Bool) (s : State) : Host.Outcome State Fault Refusal :=
  .next (sampleLine c high coincident s)

/-- CUE_CHANGE_ACCEPTED (R121): the sample at which the debounce counter reaches N. -/
def execCueChangeAccepted (c : LineId) (high coincident : Bool) (s : State) : Host.Outcome State Fault Refusal :=
  .next (if accepts c high s then sampleLine c high coincident s else s)

/-- R120: a change of mode or polarity resets the line's working state. A request that still waits for a boundary (log
21) is dropped with it (log 35). -/
def resetCue (old new : CueSettings) (k : CueLine) : CueLine :=
  if old.mode = new.mode ∧ old.polarity = new.polarity then k
  else { k with active := false, debounce := 0, pending := false, capture := none, due := none }

end Sys2Proof.Machine
end

