-- ==== Sys2Proof/Machine/Store.lean ====
section
/-! DEFINITION. The store image (R178): its bytes, and the settings and content a valid image holds. -/

namespace Sys2Proof.Machine

/-! ### Writing the body -/

/-- Every item of a table, in order. -/
def tableBytes {n : Nat} {α : Type} (f : α → List Byte) (t : Table n α) : List Byte := t.items.flatMap f

def siteBytes (x : SiteSlot) : List Byte := bytesOf 2 x.address.toNat ++ [boolByte x.enable]

/-- Code c is bit (c modulo 8) of byte (c divided by 8) of its set (R178). -/
def groupSetBytes (g : BitVec 256) : List Byte := (bytesOf 32 g.toNat).reverse

/-- A term's flags, slot and group set; an absent test gives 0 in its byte (R173, R176). -/
def termBytes (t : RouteTerm) : List Byte :=
  [boolByte t.enable <<< 7 ||| boolByte t.addressTest.isSome <<< 6 ||| boolByte t.groupTest.isSome <<< 5 |||
      boolByte (t.combiner == .or) <<< 4,
    match t.addressTest with
    | none => 0
    | some i => BitVec.ofNat 8 i.val,
    match t.groupTest with
    | none => 0
    | some i => BitVec.ofNat 8 i.val]

def routeBytes (e : RouteEntry) : List Byte :=
  [boolByte e.enable, maskByte e.dest] ++ tableBytes termBytes e.terms

/-- The parameters of SET_OUTPUT without the output number, then the six intervals (R178). -/
def outputBytes (o : OutSettings) : List Byte :=
  [boolByte o.enable ||| boolByte o.tc <<< 1] ++ bytesOf 2 o.netId.toNat ++ bytesOf 2 o.regId.toNat ++
    [BitVec.ofNat 8 o.accNet.val, BitVec.ofNat 8 o.accReg.val, BitVec.ofNat 8 o.lead, BitVec.ofNat 8 o.trail,
      BitVec.ofNat 8 o.burst] ++ tableBytes (bytesOf 2) o.intervals

/-- The parameters of SET_CUE without the line number (R178). -/
def cueBytes (c : CueSettings) : List Byte :=
  [c.mode.code, c.polarity.code] ++ bytesOf 2 c.debounce ++
    [c.cls.code, BitVec.ofNat 8 c.priority, c.group, maskByte c.target] ++ bytesOf 3 c.holdLimit ++
    bytesOf 3 c.waitLimit

/-- The parameters of SET_LINK without the link number (R178). -/
def linkBytes (k : LinkSettings) : List Byte :=
  [boolByte k.enable, k.rate.code, k.perms.setWidth 8] ++ bytesOf 2 k.pause ++ bytesOf 2 k.resume ++
    bytesOf 2 k.interval

def settingsBytes (g : Settings) : List Byte :=
  tableBytes siteBytes g.sites ++ tableBytes groupSetBytes g.groupSets ++ tableBytes routeBytes g.routes ++
    [maskByte g.defaultMask] ++ tableBytes outputBytes g.outputs ++ tableBytes cueBytes g.cues ++
    tableBytes linkBytes g.links ++
    [g.mode.code, outOrNoneByte g.monitor, g.alertMask.setWidth 8]

/-- One variant's label, category and text; character positions past a length hold 0x20 (R178). -/
def variantBytes (l : Label) (text : List Byte) : List Byte :=
  BitVec.ofNat 8 l.chars.length :: padTo 18 l.chars ++
    [BitVec.ofNat 8 l.category, BitVec.ofNat 8 text.length] ++ padTo 60 text

/-- A frequency list; positions past the count hold 0 (R178). -/
def freqsBytes (codes : List Nat) : List Byte :=
  BitVec.ofNat 8 codes.length :: codesBytes ((codes ++ List.replicate 24 0).take 24)

/-- The fields of a used neighbour record, as READ_RECORD and the image give them (R177, R178). -/
def neighbourBytes (r : Neighbour) : List Byte :=
  bytesOf 2 r.identity.toNat ++ [BitVec.ofNat 8 r.label.length] ++ padTo 8 r.label ++ bytesOf 2 r.freq ++
    [maskByte r.carriers, outOrNoneByte r.link, r.ext.code]

/-- A neighbour slot; an unused record holds 0 in every byte (R178). -/
def slotBytes : Option Neighbour → List Byte
  | none => List.replicate 17 0
  | some r => 1 :: neighbourBytes r

def contentBytes (c : SavedContent) : List Byte :=
  outputs.flatMap (fun p =>
    variantBytes ((c.labels.get p).get 0) ((c.texts.get p).get 0) ++
      variantBytes ((c.labels.get p).get 1) ((c.texts.get p).get 1)) ++
    tableBytes freqsBytes c.freqs ++ tableBytes slotBytes c.neighbours

/-- The body length of the layout (R178). -/
def imageBodyLength : Nat := 1748

/-- The model code (section 4 of the introduction). -/
def modelCode : Nat := 0x4216

/-- R178: header, body and check word. -/
def imageBytes (g : Settings) (c : SavedContent) : List Byte :=
  let head := bytesOf 2 modelCode ++ bytesOf 2 imageBodyLength ++ settingsBytes g ++ contentBytes c
  head ++ bytesOf 2 (crc head).toNat

/-! ### Reading the body: every field within its range (R178) -/

/-- All the items, if every one is there; the default is never an item of the result. -/
def collect {n : Nat} {α : Type} (d : α) (f : Fin n → Option α) : Option (Table n α) :=
  let t := Table.tabulate f
  if t.items.all Option.isSome then some (t.map fun x => x.getD d) else none

/-- A check that passed without adjusting a value. -/
def exact {α : Type} : Checked α → Option α
  | .ok (x, false) => some x
  | .ok (_, true) => none
  | .error _ => none

/-- An enable or used byte holds 0 or 1 (R178). -/
def flagOf (b : Byte) : Option Bool := if b = 0 then some false else if b = 1 then some true else none

/-- A byte whose bits from `n` up, which have no meaning, are 0 (R173, log 20). -/
def only (n : Nat) (b : Byte) : Bool := decide (b.toNat < 2 ^ n)

def readSite (bs : List Byte) : Option SiteSlot :=
  (flagOf (byteAt bs 2)).map fun e => { address := BitVec.ofNat 16 (natAt bs 0 2), enable := e }

def readGroupSet (bs : List Byte) : BitVec 256 := BitVec.ofNat 256 (natOf bs.reverse)

/-- The flags of a term have no meaning in bits 3 to 0. -/
def termFlagsOk (b : Byte) : Bool := b.toNat % 16 == 0

def readRoute (bs : List Byte) : Option RouteEntry :=
  if (flagOf (byteAt bs 0)).isSome && only 4 (byteAt bs 1) &&
      [2, 5, 8, 11].all fun i => termFlagsOk (byteAt bs i) then exact (routeOf bs) else none

def readInterval (bs : List Byte) (i : Fin 6) : Option Nat :=
  let v := natAt bs (10 + 2 * i.val) 2
  if v ≤ 1023 then some v else none

def readOutput (bs : List Byte) : Option OutSettings :=
  match collect 0 (readInterval bs) with
  | none => none
  | some intervals => if only 2 (byteAt bs 0) then exact (outputOf intervals (slice bs 0 10)) else none

def readCue (bs : List Byte) : Option CueSettings :=
  if only 4 (byteAt bs 7) then exact (cueOf bs) else none

def readLink (bs : List Byte) : Option LinkSettings :=
  if (flagOf (byteAt bs 0)).isSome && only 5 (byteAt bs 2) then exact (linkOf bs) else none

/-- A string of `n` characters in a field of `k` bytes: printable, and spaces past its length (R178). -/
def readChars (n k : Nat) (bs : List Byte) : Option (List Byte) :=
  let chars := bs.take n
  if n ≤ k ∧ chars.all printable ∧ (bs.drop n).all (· == 0x20) then some chars else none

def readLabel (bs : List Byte) : Option Label :=
  let n := (byteAt bs 0).toNat
  let category := (byteAt bs 19).toNat
  if 1 ≤ n ∧ category ≤ 31 then
    (readChars n 18 (slice bs 1 18)).map fun chars => { chars := chars, category := category }
  else none

def readText (bs : List Byte) : Option (List Byte) := readChars (byteAt bs 20).toNat 60 (slice bs 21 60)

/-- A count to 24 and codes 1 to 880; R41's dropping of repeats belongs to FREQLIST, so a list of the image may repeat a
code. -/
def readFreqs (bs : List Byte) : Option (List Nat) :=
  let k := (byteAt bs 0).toNat
  let codes := (List.range 24).map fun i => natAt bs (1 + 2 * i) 2
  if k ≤ 24 ∧ (codes.take k).all isFreqCode ∧ (codes.drop k).all (· == 0) then some (codes.take k) else none

/-- A used record with every field in range. -/
def readUsedRecord (bs : List Byte) : Option Neighbour :=
  let identity : Word := BitVec.ofNat 16 (natAt bs 1 2)
  let freq := natAt bs 12 2
  match readChars (byteAt bs 3).toNat 8 (slice bs 4 8), outOrNone (byteAt bs 15) with
  | some label, some link =>
    if identity ≠ 0 ∧ freq ≤ 880 ∧ only 4 (byteAt bs 14) ∧ maskOf (byteAt bs 14) ≠ 0 ∧ only 3 (byteAt bs 16) then
      some { identity := identity, label := label, freq := freq, carriers := maskOf (byteAt bs 14), link := link,
             ext := flags3Of (byteAt bs 16) }
    else none
  | _, _ => none

def readSlot (bs : List Byte) : Option (Option Neighbour) :=
  if byteAt bs 0 = 0 then (if bs.all (· == 0) then some none else none)
  else if byteAt bs 0 = 1 then (readUsedRecord bs).map some
  else none

def readAlert (b : Byte) : Option (BitVec 5) := if only 5 b then some (b.setWidth 5) else none

/-- The settings of a body: parts in the order of R178. -/
def readSettings (body : List Byte) : Option Settings :=
  match collect { address := 0, enable := false } fun i : Fin 16 => readSite (slice body (3 * i.val) 3),
        collect builtinRoute fun i : Fin 16 => readRoute (slice body (304 + 14 * i.val) 14),
        collect builtinOutput fun i : Fin 4 => readOutput (slice body (529 + 22 * i.val) 22),
        collect builtinCue fun i : Fin 8 => readCue (slice body (617 + 14 * i.val) 14),
        collect (builtinLink .r9600) fun i : Fin 4 => readLink (slice body (729 + 9 * i.val) 9),
        timingModeOf (byteAt body 765), outOrNone (byteAt body 766), readAlert (byteAt body 767) with
  | some sites, some routes, some outs, some cues, some links, some mode, some monitor, some alertMask =>
    if only 4 (byteAt body 528) then
      some { sites := sites
             groupSets := .tabulate fun i => readGroupSet (slice body (48 + 32 * i.val) 32)
             routes := routes, defaultMask := maskOf (byteAt body 528), outputs := outs, cues := cues, links := links
             mode := mode, monitor := monitor, alertMask := alertMask }
    else none
  | _, _, _, _, _, _, _, _ => none

/-- The 81 bytes of a variant's label and text (R178). -/
def variantSlice (body : List Byte) (p : OutId) (v : Fin 2) : List Byte :=
  slice body (768 + 81 * (2 * p.val + v.val)) 81

def readContent (body : List Byte) : Option SavedContent :=
  match collect (.replicate 2 builtinLabel) fun p : OutId =>
          collect builtinLabel fun v : Fin 2 => readLabel (variantSlice body p v),
        collect (.replicate 2 []) fun p : OutId =>
          collect [] fun v : Fin 2 => readText (variantSlice body p v),
        collect [] fun p : OutId => readFreqs (slice body (1416 + 49 * p.val) 49),
        collect none fun i : SlotId => readSlot (slice body (1612 + 17 * i.val) 17) with
  | some labels, some texts, some freqs, some neighbours =>
    some { labels := labels, texts := texts, freqs := freqs, neighbours := neighbours }
  | _, _, _, _ => none

/-- R178: what a valid image holds; an image that fails any condition is invalid. -/
def readImage (bs : List Byte) : Option (Settings × SavedContent) :=
  let body := slice bs 4 imageBodyLength
  if bs.length < 4 + imageBodyLength + 2 then none
  else if natAt bs 0 2 ≠ modelCode then none
  else if natAt bs 2 2 ≠ imageBodyLength then none
  else if crc (bs.take (4 + imageBodyLength)) ≠ BitVec.ofNat 16 (natAt bs (4 + imageBodyLength) 2) then none
  else match readSettings body, readContent body with
    | some g, some c => some (g, c)
    | _, _ => none

/-- The live content as a save copies it (R166, R54). -/
def savedContent (c : Content) : SavedContent :=
  { labels := c.outs.map fun o => ⟨[o.varN.label, o.varR.label], rfl⟩
    texts := c.outs.map fun o => ⟨[o.varN.text, o.varR.text], rfl⟩
    freqs := c.outs.map fun o => o.freqs
    neighbours := c.neighbours }

/-- R166: the snapshot of the running settings and the live content. -/
def snapshot (s : State) : List Byte := imageBytes s.settings (savedContent s.content)

/-- The store state is SAVING (R166). -/
def isSaving (s : State) : Bool := s.store.saving.isSome

end Sys2Proof.Machine
end

