-- ==== Sys2Proof/Machine/SettingsCommands.lean ====
section
/-! DEFINITION. The settings commands, the store's commands, and the other part commands that act (sections 11.1, 11.2,
R31, R96, R138). -/

namespace Sys2Proof.Machine

/-! ### One setting at a time (R162 to R164) -/

def setSite (i : Fin 16) (x : SiteSlot) (s : State) : State :=
  s.modSettings fun g => { g with sites := g.sites.set i x }

def setGroupset (i : SetId) (x : BitVec 256) (s : State) : State :=
  s.modSettings fun g => { g with groupSets := g.groupSets.set i x }

def setRoute (i : Fin 16) (x : RouteEntry) (s : State) : State :=
  s.modSettings fun g => { g with routes := g.routes.set i x }

def setDefaultRoute (m : Mask) (s : State) : State := s.modSettings fun g => { g with defaultMask := m }

/-- R3, R36: a SET_OUTPUT that sets the regional identity to 0 while the source is REGIONAL requests NETWORK (log
24). -/
def regionalCleared (regId : Word) (o : OutContent) : OutContent :=
  if regId = 0 ∧ o.source = .regional then { o with requested := .network } else o

def setOutput (p : OutId) (x : OutSettings) (s : State) : State :=
  (s.modSettings fun g => { g with outputs := g.outputs.set p x }).modOut p (regionalCleared x.regId)

def setCue (c : LineId) (x : CueSettings) (s : State) : State :=
  (s.modCue c (resetCue (s.cueCfg c) x)).modSettings fun g => { g with cues := g.cues.set c x }

/-- R143, R144, R149: the link's working state follows its new settings. `carrier` is the link that carries the
command. -/
def setLink (carrier l : LinkId) (x : LinkSettings) (s : State) : State :=
  (s.modLink l (LinkState.reconfigure (carrier == l) (s.linkCfg l) x)).modSettings fun g =>
    { g with links := g.links.set l x }

/-- R20: a mode that differs from the one in force takes effect at once. -/
def setTiming (m : TimingMode) (s : State) : State :=
  if s.settings.mode = m then s else (s.modTb Timebase.changeMode).modSettings fun g => { g with mode := m }

def setMonitor (m : Option OutId) (s : State) : State := s.modSettings fun g => { g with monitor := m }

/-! ### The rows of the settings commands -/

/-- SET_SITE (R153). -/
def execSetSite (l : LinkId) (s : State) : Host.Outcome State Fault Refusal :=
  partRow .setSite (checkedAct checkSetSite fun x s => .done (setSite x.1 x.2 s)) noAfter l s

/-- SET_GROUPSET (R154). -/
def execSetGroupset (l : LinkId) (s : State) : Host.Outcome State Fault Refusal :=
  partRow .setGroupset (checkedAct checkSetGroupset fun x s => .done (setGroupset x.1 x.2 s)) noAfter l s

/-- SET_ROUTE (R156). -/
def execSetRoute (l : LinkId) (s : State) : Host.Outcome State Fault Refusal :=
  partRow .setRoute (checkedAct checkSetRoute fun x s => .done (setRoute x.1 x.2 s)) noAfter l s

/-- SET_DEFAULT_ROUTE (R156). -/
def execSetDefaultRoute (l : LinkId) (s : State) : Host.Outcome State Fault Refusal :=
  partRow .setDefaultRoute (checkedAct checkSetDefaultRoute fun m s => .done (setDefaultRoute m s)) noAfter l s

/-- SET_OUTPUT leaves the intervals as they stand (R163). -/
def setOutputAct (ps : List Byte) (s : State) : Answer :=
  checkedAct (checkSetOutput fun p => (s.outCfg p).intervals) (fun x s => .done (setOutput x.1 x.2 s)) ps s

/-- SET_OUTPUT (R163). -/
def execSetOutput (l : LinkId) (s : State) : Host.Outcome State Fault Refusal :=
  partRow .setOutput setOutputAct noAfter l s

/-- SET_CUE (R164, R120). -/
def execSetCue (l : LinkId) (s : State) : Host.Outcome State Fault Refusal :=
  partRow .setCue (checkedAct checkSetCue fun x s => .done (setCue x.1 x.2 s)) noAfter l s

/-- SET_LINK's settings act once its reply is placed (R143, R144). -/
def setLinkAfter (carrier : LinkId) (ps : List Byte) (s : State) : State :=
  match checkSetLink ps with
  | .error _ => s
  | .ok (x, _) => setLink carrier x.1 x.2 s

/-- SET_LINK (R164). -/
def execSetLink (l : LinkId) (s : State) : Host.Outcome State Fault Refusal :=
  partRow .setLink (checkedAct checkSetLink fun _ s => .done s) (setLinkAfter l) l s

/-- SET_TIMING (R20). -/
def execSetTiming (l : LinkId) (s : State) : Host.Outcome State Fault Refusal :=
  partRow .setTiming (checkedAct checkSetTiming fun m s => .done (setTiming m s)) noAfter l s

/-- SET_MONITOR (R15). -/
def execSetMonitor (l : LinkId) (s : State) : Host.Outcome State Fault Refusal :=
  partRow .setMonitor (checkedAct checkSetMonitor fun m s => .done (setMonitor m s)) noAfter l s

/-- SET_ALERT (R164, R169). -/
def execSetAlert (l : LinkId) (s : State) : Host.Outcome State Fault Refusal :=
  partRow .setAlert (checkedAct checkSetAlert fun m s => .done (s.setAlertMask m)) noAfter l s

/-- CLEAR_FAULTS (R169). -/
def execClearFaults (l : LinkId) (s : State) : Host.Outcome State Fault Refusal :=
  partRow .clearFaults (checkedAct checkNone fun _ s => .done s.clearFaultFlags) noAfter l s

/-! ### Timebase, claims and queue -/

/-- R31: an accepted value arms the timebase. -/
def armEpoch (v : Count) (s : State) : State := s.modTb fun t => { t with arm := some v }

/-- SET_EPOCH (R31). -/
def execSetEpoch (l : LinkId) (s : State) : Host.Outcome State Fault Refusal :=
  partRow .setEpoch (checkedAct checkSetEpoch fun v s => .done (armEpoch v s)) noAfter l s

/-- R96: any claim held with the key ends REVOKED. -/
def applyRevoke (k : ClaimKey) (s : State) : Answer :=
  match claimHeld s k with
  | none => .refuse .notFound s
  | some c => .done (endClaim c .revoked s.tb.count s)

/-- REVOKE (R96). -/
def execRevoke (l : LinkId) (s : State) : Host.Outcome State Fault Refusal :=
  partRow .revoke (checkedAct checkRevoke applyRevoke) noAfter l s

/-- CANCEL_TIMED (R138). -/
def execCancelTimed (l : LinkId) (s : State) : Host.Outcome State Fault Refusal :=
  partRow .cancelTimed (checkedAct checkCancelTimed fun tag s => applyCancelTimed l tag s) noAfter l s

/-! ### The store (R166 to R168) -/

/-- R166: the snapshot is taken and the image counts as invalid until the write completes. -/
def beginSave (s : State) : State :=
  { s with store := { s.store with image := [], saving := some (snapshot s) } }

/-- R166: BUSY while SAVING. -/
def saveAct (ps : List Byte) (s : State) : Answer :=
  checkedAct checkNone (fun _ s => if isSaving s then .refuse .busy s else .done (beginSave s)) ps s

/-- STORE_SAVE (R166). -/
def execStoreSave (l : LinkId) (s : State) : Host.Outcome State Fault Refusal := partRow .storeSave saveAct noAfter l s

/-- STORE_SAVE_COMPLETE (R166): the image becomes the snapshot, or stays invalid with SAVE_FAILED. -/
def execStoreSaveComplete (verified : Bool) (s : State) : Host.Outcome State Fault Refusal :=
  .next (match s.store.saving with
    | none => s
    | some image =>
      if verified then { s with store := { s.store with image := image, saving := none } }
      else State.raiseFault .saveFailed { s with store := { s.store with saving := none } })

/-- R167: every running setting is replaced as one act, each acting as the command that writes it would. The content
store is left whole, its requested sources too (R54): a source whose regional identity is now 0 falls back at the next
boundary by R36 (log 24). -/
def replaceSettings (carrier : LinkId) (g : Settings) (s : State) : State :=
  State.followAlert { s with
    settings := g
    tb := if s.settings.mode = g.mode then s.tb else s.tb.changeMode
    cues := .tabulate fun c => resetCue (s.cueCfg c) (g.cues.get c) (s.cue c)
    links := .tabulate fun l => (s.link l).reconfigure (carrier == l) (s.linkCfg l) (g.links.get l) }

/-- R167: BUSY while SAVING; otherwise the data says whether the image is valid, in one byte (log 42). -/
def reloadAct (ps : List Byte) (s : State) : Answer :=
  checkedAct checkNone (fun _ s =>
    if isSaving s then .refuse .busy s
    else match readImage s.store.image with
      | some _ => .give [0] s
      | none => .give [1] s) ps s

/-- R167: the settings act once the reply is placed. -/
def reloadAfter (carrier : LinkId) (_ : List Byte) (s : State) : State :=
  match readImage s.store.image with
  | none => s
  | some (g, _) => replaceSettings carrier g s

/-- RELOAD (R167). -/
def execReload (l : LinkId) (s : State) : Host.Outcome State Fault Refusal := partRow .reload reloadAct (reloadAfter l) l s

/-- R168: BUSY while SAVING. -/
def restartAct (ps : List Byte) (s : State) : Answer :=
  checkedAct checkNone (fun _ s => if isSaving s then .refuse .busy s else .done s) ps s

/-- R168: the restart waits until every reply byte placed up to and including its reply has been sent. The bytes an
earlier RESTART of the link still waits for are among them, or are a closing GO that stays waited for. -/
def restartAfter (carrier : LinkId) (_ : List Byte) (s : State) : State :=
  s.modLink carrier fun k => { k with restartAt := some { reply := k.replyBytes, ctrl := (k.restartAt.map (·.ctrl)).getD 0 } }

/-- RESTART (R168). -/
def execRestart (l : LinkId) (s : State) : Host.Outcome State Fault Refusal :=
  partRow .restart restartAct (restartAfter l) l s

end Sys2Proof.Machine
end

