-- ==== Sys2Proof/Machine/Reading.lean ====
section
/-! DEFINITION. The reading commands STATUS, READ_RECORD and READ_COUNTERS (section 11.4, R177). -/

namespace Sys2Proof.Machine

/-- An index or position as a byte. -/
def natByte (n : Nat) : Byte := BitVec.ofNat 8 n

/-- A counter as 4 bytes (R177). -/
def counterBytes (c : Counter) : List Byte := bytesOf 4 c.toNat

/-! ### STATUS (R170, R177) -/

/-- The current claim's origin and number, 0xFF and 0 for none (R177). -/
def currentBytes : Option ClaimRef → List Byte
  | none => [0xFF, 0]
  | some r => [originCode r.key.origin, r.key.number]

/-- Per output: run state, source, phase, current claim, label shown variant (R177). -/
def statusOutput (s : State) (p : OutId) : List Byte :=
  [boolByte (s.lane p).run, (s.out p).source.code, (s.lane p).seq.phase.code] ++
    currentBytes (s.lane p).seq.current ++ [(s.out p).labelShown.code]

/-- The 41 bytes of STATUS (R177). -/
def statusData (s : State) : List Byte :=
  bytesOf 2 modelCode ++ [s.settings.mode.code, s.tb.lock.code] ++ bytesOf 3 s.tb.count.toNat ++
    [boolByte s.tb.arm.isSome] ++ bytesOf 3 (s.tb.arm.getD 0).toNat ++
    [s.store.faults.setWidth 8, boolByte (isSaving s), s.store.origin.code] ++
    outputs.flatMap (statusOutput s) ++
    [natByte s.claims.table.length, natByte s.pool.records.length, natByte s.queue.entries.length]

/-- STATUS (R170). -/
def execStatus (l : LinkId) (s : State) : Host.Outcome State Fault Refusal :=
  partRow .status (checkedAct checkNone fun _ s => .give (statusData s) s) noAfter l s

/-! ### READ_RECORD (R171, R177) -/

/-- Two bits per output, output 0 in bits 1 and 0 (R177). -/
def statusesByte (t : Table 4 ClaimStatus) : Byte :=
  natByte ((t.get 0).code + 4 * (t.get 1).code + 16 * (t.get 2).code + 64 * (t.get 3).code)

def claimRecord (c : Claim) : List Byte :=
  [originCode c.key.origin, c.key.number, c.kind.code, c.cls.code, natByte c.priority, c.group, maskByte c.target] ++
    bytesOf 3 c.holdLimit ++ bytesOf 3 c.waitLimit ++ counterBytes c.holdUsed ++ counterBytes c.waitUsed ++
    counterBytes c.stamp ++ [statusesByte c.status]

def endedRecord (e : Ended) : List Byte :=
  [e.number, e.cls.code, e.reason.code] ++ bytesOf 3 e.count.toNat ++ counterBytes e.onAir

def poolRecordBytes (position : Nat) (r : PoolRecord) : List Byte :=
  bytesOf 2 r.key.toNat ++ bytesOf 6 r.content.toNat ++ [maskByte r.target] ++ bytesOf 2 r.spacing ++
    r.repeats.items.map natByte ++ r.nextEligible.items.flatMap (fun c => bytesOf 3 c.toNat) ++ [natByte position]

def queueRecord (e : QueueEntry) : List Byte :=
  bytesOf 3 e.cell.toNat ++ [natByte e.link.val, e.tag, e.cmd.cmd.code, maskByte e.target,
    natByte e.cmd.params.length] ++ e.cmd.params

def captureRecord (c : Capture) : List Byte :=
  [boolByte c.active] ++ bytesOf 3 c.count.toNat ++ [natByte c.bit]

/-- A list's count and codes (R177). -/
def listBytes (codes : List Nat) : List Byte := natByte codes.length :: codesBytes codes

/-- A present byte, and the rest only where present (R177). -/
def presentBytes {α : Type} (f : α → List Byte) : Option α → List Byte
  | none => [0]
  | some x => 1 :: f x

/-- R177. An absent staged list gives its present byte of 0 alone, without a count byte (log 43). -/
def outputRecord (o : OutContent) : List Byte :=
  [o.source.code, o.requested.code, o.labelShown.code, o.textShown.code, natByte o.labelPos, natByte o.textPos,
    natByte o.freqPos, natByte o.nbSlot.val, boolByte o.nbSeg, o.textVersion, boolByte o.lv] ++
    listBytes o.freqs ++ presentBytes listBytes o.stagedFreqs

/-- A string's length and characters. -/
def stringBytes (chars : List Byte) : List Byte := natByte chars.length :: chars

/-- A label's category, length and characters. -/
def labelBytes (l : Label) : List Byte := natByte l.category :: stringBytes l.chars

def variantRecord (identity : Word) (v : VariantContent) : List Byte :=
  bytesOf 2 identity.toNat ++ labelBytes v.label ++ presentBytes labelBytes v.staged ++ stringBytes v.text ++
    presentBytes stringBytes v.stagedText

def resultRecord (r : TimedResult) : List Byte := [r.tag, r.cmd.code, r.status.code] ++ bytesOf 3 r.count.toNat

/-- The variant of an output variant index, output × 2 plus 0 for N or 1 for R (R171). -/
def variantAt (s : State) (i : Fin 8) : List Byte :=
  let p : OutId := ⟨i.val / 2, by omega⟩
  if i.val % 2 = 0 then variantRecord (s.outCfg p).netId (s.out p).varN
  else variantRecord (s.outCfg p).regId (s.out p).varR

/-- The record of a place in a list of at most `n`: none past the range, empty past the list. -/
def placeRecord {α : Type} (n i : Nat) (f : α → List Byte) (xs : List α) : Option (Option (List Byte)) :=
  if i < n then some ((xs[i]?).map f) else none

/-- The record an instance number names. -/
def instanceRecord (n i : Nat) (f : Fin n → Option (List Byte)) : Option (Option (List Byte)) :=
  (index? n i).map f

/-- R171: one record of a kind; `none` for an undefined kind or an index beyond its range, `some none` for empty. -/
def recordOf (s : State) (kind i : Nat) : Option (Option (List Byte)) :=
  match kind with
  | 0 => placeRecord 8 i claimRecord (ranked s.claims.table)
  | 1 => instanceRecord 12 i fun o => (s.claims.lastEnded.get o).map endedRecord
  | 2 => placeRecord 32 i (poolRecordBytes i) s.pool.records
  | 3 => placeRecord 32 i queueRecord s.queue.entries
  | 4 => instanceRecord 8 i fun c => (s.cue c).capture.map captureRecord
  | 5 => instanceRecord 4 i fun p => some (outputRecord (s.out p))
  | 6 => instanceRecord 8 i fun v => some (variantAt s v)
  | 7 => instanceRecord 8 i fun slot => (s.content.neighbours.get slot).map neighbourBytes
  | 8 => instanceRecord 4 i fun l => (s.queue.results.get l).map resultRecord
  | _ => none

/-- R171. -/
def readRecordAct (x : Nat × Nat) (s : State) : Answer :=
  match recordOf s x.1 x.2 with
  | none => .refuse .badParam s
  | some r => .give ([natByte x.1, natByte x.2] ++ presentBytes id r) s

/-- READ_RECORD (R171). -/
def execReadRecord (l : LinkId) (s : State) : Host.Outcome State Fault Refusal :=
  partRow .readRecord (checkedAct checkReadRecord readRecordAct) noAfter l s

/-! ### READ_COUNTERS (R172, R177): each group with its values and its clear -/

def outputCounters (a : Assembler) : List Counter := a.kinds.items ++ [a.truncated]

def contentCounters (k : ContentCounters) : List Counter :=
  [k.labelCommits, k.textCommits, k.listCommits, k.superseded, k.sourceSwitches]

/-- The fifteen values of R70; the largest ages are carried as counters are. -/
def schedulerCounters (k : Scheduler) : List Counter :=
  k.late.items ++ k.largest.items.map (BitVec.ofNat 32) ++ [k.begun, k.replaced, k.endedEarly]

def seqCounters (k : SeqCounters) : List Counter :=
  [k.onsets, k.aborted, k.handovers, k.onAirEnds, k.resumptions, k.drops]

def timebaseCounters (k : TimebaseCounters) : List Counter :=
  [k.acquisitions, k.holdoverEntries, k.holdoverExpiries, k.aligned, k.realignments, k.jumps]

def poolCounters (k : PoolCounters) : List Counter := [k.added, k.replaced, k.cancelled, k.refusedFull]

def claimCounters (k : ClaimCounters) : List Counter := [k.admitted, k.refusedFull] ++ k.ended.items

def cueCounters (k : CueCounters) : List Counter := [k.accepted, k.bounces, k.admitted, k.failures, k.retriggers]

def queueCounters (k : QueueCounters) : List Counter :=
  [k.queued, k.lateAtArrival, k.refusedTooFar, k.refusedFull, k.applied, k.failed, k.appliedLate, k.discarded,
    k.cancelled]

def linkCounters (k : LinkCounters) : List Counter :=
  [k.good, k.checkErrors, k.overruns, k.notForUs, k.refusals, k.dropped, k.timedFailures]

def routerCounters (k : RouterCounters) : List Counter := k.matched.items ++ [k.defaultUses, k.discards]

/-- The counter groups of R172 with the output of a per-output group. -/
inductive CounterGroup where
  | output (p : OutId) | content (p : OutId) | scheduler (p : OutId) | signalling (p : OutId)
  | timebase | pool | claim | cue | queue | link
  deriving DecidableEq, Repr

/-- R172, R177: the group a code and an index name. -/
def groupOf (group i : Nat) : Option CounterGroup :=
  match group with
  | 0 => (index? 4 i).map .output
  | 1 => (index? 4 i).map .content
  | 2 => (index? 4 i).map .scheduler
  | 3 => (index? 4 i).map .signalling
  | 4 => if i = 0 then some .timebase else none
  | 5 => if i = 0 then some .pool else none
  | 6 => if i = 0 then some .claim else none
  | 7 => if i = 0 then some .cue else none
  | 8 => if i = 0 then some .queue else none
  | 9 => if i = 0 then some .link else none
  | _ => none

/-- R172: every counter of the group, in the order of its table; the cue and link groups line by line and link by link
(log 38). -/
def counterValues (s : State) : CounterGroup → List Counter
  | .output p => outputCounters (s.lane p).asm
  | .content p => contentCounters (s.out p).counters
  | .scheduler p => schedulerCounters (s.lane p).sched
  | .signalling p => seqCounters (s.lane p).seq.counters
  | .timebase => timebaseCounters s.tb.counters
  | .pool => poolCounters s.pool.counters
  | .claim => claimCounters s.claims.counters
  | .cue => s.cues.items.flatMap fun k => cueCounters k.counters
  | .queue => queueCounters s.queue.counters
  | .link => s.links.items.flatMap (fun k => linkCounters k.counters) ++ routerCounters s.router

/-- R172: those counters return to 0. -/
def clearCounters (g : CounterGroup) (s : State) : State :=
  match g with
  | .output p => s.modLane p fun ln =>
      { ln with asm := { ln.asm with kinds := .replicate 7 0, truncated := 0 } }
  | .content p => s.modOut p fun o => { o with counters := resetContentCounters }
  | .scheduler p => s.modLane p (Lane.modSched fun k =>
      { k with late := .replicate 6 0, largest := .replicate 6 0, begun := 0, replaced := 0, endedEarly := 0 })
  | .signalling p => s.modLane p (Lane.modSeq fun q => { q with counters := resetSeqCounters })
  | .timebase => s.modTb fun t => { t with counters := resetTimebaseCounters }
  | .pool => s.modPoolCounters fun _ => resetPool.counters
  | .claim => { s with claims := { s.claims with counters := resetClaims.counters } }
  | .cue => { s with cues := s.cues.map fun k => { k with counters := resetCueCounters } }
  | .queue => s.modQueueCounters fun _ => resetQueueCounters
  | .link => { s with links := s.links.map fun k => { k with counters := resetLinkCounters }, router := resetRouter }

/-- R172: the values as they stand at the take, and the clear in the same act. -/
def readCountersAct (x : Nat × Nat × Bool) (s : State) : Answer :=
  match groupOf x.1 x.2.1 with
  | none => .refuse .badParam s
  | some g =>
    .give ([natByte x.1, natByte x.2.1] ++ (counterValues s g).flatMap counterBytes)
      (if x.2.2 then clearCounters g s else s)

/-- READ_COUNTERS (R172). -/
def execReadCounters (l : LinkId) (s : State) : Host.Outcome State Fault Refusal :=
  partRow .readCounters (checkedAct checkReadCounters readCountersAct) noAfter l s

end Sys2Proof.Machine
end

