-- ==== Sys2Proof/Machine/Reset.lean ====
section
/-! DEFINITION. The resets (R165 to R168, and the reset table of each section): power-on, pin reset and the restart
that begins. -/

namespace Sys2Proof.Machine

/-- The image as a reset finds it: a write under way has left it invalid (R166). -/
def resetImage (s : State) : Option (Settings × SavedContent) := readImage s.store.image

/-- R165, R169: the store, the fault flags and ALERT once the load is complete. The load sets CONFIG_DEFAULTS where
it takes the built-in settings. -/
def loadedStore (image : List Byte) (origin : ContentOrigin) (valid : Bool) (mask : BitVec 5) (rate1 rate0 : Bool) :
    StoreCtl :=
  let faults : BitVec 5 := if valid then 0 else FaultFlag.configDefaults.bit
  { image := image, saving := none, faults := faults, origin := origin, alert := alertLevel faults mask,
    rate1 := rate1, rate0 := rate0 }

/-- R144, R149, R161: a link through a pin reset or a restart. An enabled link starts with a GO; one that the loaded
settings leave disabled ends what it sends as at a disable, with the closing GO where a HOLD was outstanding (log 23). -/
def retainLink (cfg : LinkSettings) (k : LinkState) : LinkState :=
  if cfg.enable then resetLink cfg
  else LinkState.nextByte { resetLink cfg with tx := k.turnOff.tx, ctrl := k.turnOff.ctrl }

/-- What every kind of reset leaves in every block (R17, R71, R83, R103, R118, R129, R142, R161), given the settings
loaded and what the kinds of reset differ in. The free values drawn and the commands that wait are no state of the
part's own. -/
def resetBlocks (g : Settings) (tb : Timebase) (content : Content) (store : StoreCtl) (links : Table 4 LinkState)
    (s : State) : State :=
  { settings := g
    tb := tb
    content := content
    lanes := .replicate 4 resetLane
    monitor := resetMonitor
    claims := resetClaims
    pool := resetPool
    queue := resetQueue
    cues := .replicate 8 resetCueLine
    links := links
    router := resetRouter
    store := store
    draws := s.draws
    pending := s.pending }

/-- R54: one variant's content through a pin reset or a restart: the staged copies are lost. -/
def retainVariant (v : VariantContent) : VariantContent := { v with staged := none, stagedText := none }

/-- R54: one output's content through a pin reset or a restart. -/
def retainOut (o : OutContent) : OutContent :=
  { o with
    source := .network, requested := .network, varN := retainVariant o.varN, varR := retainVariant o.varR
    stagedFreqs := none, labelPos := 0, textPos := 0, freqPos := 0, nbSlot := 0, nbSeg := false
    counters := resetContentCounters }

/-- R54: the content store through a pin reset or a restart. -/
def retainContent (c : Content) : Content :=
  { outs := c.outs.map retainOut, neighbours := c.neighbours, prevAn := .replicate 8 none }

/-- R165: a power-on latches the straps and loads settings and content. -/
def powerOnState (rate1 rate0 : Bool) (s : State) : State :=
  match resetImage s with
  | some (g, c) =>
    resetBlocks g (resetTimebase .afterPowerOn 0) (freshContent c)
      (loadedStore s.store.image .store true g.alertMask rate1 rate0) (g.links.map resetLink) s
  | none =>
    let g := builtinSettings (strapRate rate1 rate0)
    resetBlocks g (resetTimebase .afterPowerOn 0) (freshContent builtinContent)
      (loadedStore s.store.image .defaults false g.alertMask rate1 rate0) (g.links.map resetLink) s

/-- The settings a pin reset or a restart loads; the strap rate is that latched at the power-on (R165, R161). -/
def loadedSettings (s : State) : Settings :=
  match resetImage s with
  | some (g, _) => g
  | none => builtinSettings (strapRate s.store.rate1 s.store.rate0)

/-- R165: a pin reset or a restart loads the settings and retains the content and the count (R26, R35). -/
def retainedReset (s : State) : State :=
  resetBlocks (loadedSettings s) (resetTimebase .afterReset s.tb.count) (retainContent s.content)
    (loadedStore s.store.image .retained (resetImage s).isSome (loadedSettings s).alertMask s.store.rate1
      s.store.rate0) (.tabulate fun l => retainLink ((loadedSettings s).links.get l) (s.link l)) s

/-- R168: some RESTART is pending, the bytes that each waits for have been sent, and the store is IDLE. -/
def restartDue (s : State) : Bool :=
  s.links.items.any (fun k => k.restartAt.isSome) &&
    s.links.items.all (fun k => k.restartAt.all fun m => m == ⟨0, 0⟩) && !isSaving s

/-- POWER_ON (R165). -/
def execPowerOn (rate1 rate0 : Bool) (s : State) : Host.Outcome State Fault Refusal :=
  .next (powerOnState rate1 rate0 s)

/-- PIN_RESET (R165). -/
def execPinReset (s : State) : Host.Outcome State Fault Refusal := .next (retainedReset s)

/-- RESTART_BEGIN (R168). -/
def execRestartBegin (s : State) : Host.Outcome State Fault Refusal :=
  .next (if restartDue s then retainedReset s else s)

end Sys2Proof.Machine
end

