-- ==== Sys2Proof/Machine/Dispatch.lean ====
section
/-! DEFINITION. One arm for each command: its meaning. -/

namespace Sys2Proof.Machine

def exec (i : Instr) (s : State) : Host.Outcome State Fault Refusal :=
  match i with
  | .powerOn rate1 rate0 => Sys2Proof.Machine.execPowerOn rate1 rate0 s
  | .pinReset => Sys2Proof.Machine.execPinReset s
  | .restartBegin => Sys2Proof.Machine.execRestartBegin s
  | .cellBoundary => Sys2Proof.Machine.execCellBoundary s
  | .lockAcquisition => Sys2Proof.Machine.execLockAcquisition s
  | .holdoverExpiry => Sys2Proof.Machine.execHoldoverExpiry s
  | .leadEnd p => Sys2Proof.Machine.execLeadEnd p s
  | .trailEnd p => Sys2Proof.Machine.execTrailEnd p s
  | .claimHoldExpiry origin number => Sys2Proof.Machine.execClaimHoldExpiry origin number s
  | .claimWaitExpiry origin number => Sys2Proof.Machine.execClaimWaitExpiry origin number s
  | .tokenGain l => Sys2Proof.Machine.execTokenGain l s
  | .refEdge period => Sys2Proof.Machine.execRefEdge period s
  | .refGap => Sys2Proof.Machine.execRefGap s
  | .epochStrobe => Sys2Proof.Machine.execEpochStrobe s
  | .cueSample c high coincident => Sys2Proof.Machine.execCueSample c high coincident s
  | .cueChangeAccepted c high coincident => Sys2Proof.Machine.execCueChangeAccepted c high coincident s
  | .linkByteReceived l b => Sys2Proof.Machine.execLinkByteReceived l b s
  | .unknownCommand l => Sys2Proof.Machine.execUnknownCommand l s
  | .status l => Sys2Proof.Machine.execStatus l s
  | .readRecord l => Sys2Proof.Machine.execReadRecord l s
  | .readCounters l => Sys2Proof.Machine.execReadCounters l s
  | .clearFaults l => Sys2Proof.Machine.execClearFaults l s
  | .setSite l => Sys2Proof.Machine.execSetSite l s
  | .setGroupset l => Sys2Proof.Machine.execSetGroupset l s
  | .setRoute l => Sys2Proof.Machine.execSetRoute l s
  | .setDefaultRoute l => Sys2Proof.Machine.execSetDefaultRoute l s
  | .setOutput l => Sys2Proof.Machine.execSetOutput l s
  | .setCue l => Sys2Proof.Machine.execSetCue l s
  | .setLink l => Sys2Proof.Machine.execSetLink l s
  | .linkDisable l => Sys2Proof.Machine.execLinkDisable l s
  | .linkRateChange l => Sys2Proof.Machine.execLinkRateChange l s
  | .setTiming l => Sys2Proof.Machine.execSetTiming l s
  | .setMonitor l => Sys2Proof.Machine.execSetMonitor l s
  | .setAlert l => Sys2Proof.Machine.execSetAlert l s
  | .storeSave l => Sys2Proof.Machine.execStoreSave l s
  | .storeSaveComplete verified => Sys2Proof.Machine.execStoreSaveComplete verified s
  | .reload l => Sys2Proof.Machine.execReload l s
  | .restart l => Sys2Proof.Machine.execRestart l s
  | .revoke l => Sys2Proof.Machine.execRevoke l s
  | .setEpoch l => Sys2Proof.Machine.execSetEpoch l s
  | .cancelTimed l => Sys2Proof.Machine.execCancelTimed l s
  | .label l => Sys2Proof.Machine.execLabel l s
  | .text l => Sys2Proof.Machine.execText l s
  | .freqlist l => Sys2Proof.Machine.execFreqlist l s
  | .neighbour l => Sys2Proof.Machine.execNeighbour l s
  | .neighbourFlags l => Sys2Proof.Machine.execNeighbourFlags l s
  | .optoutBegin l => Sys2Proof.Machine.execOptoutBegin l s
  | .optoutEnd l => Sys2Proof.Machine.execOptoutEnd l s
  | .setInterval l => Sys2Proof.Machine.execSetInterval l s
  | .claim l => Sys2Proof.Machine.execClaim l s
  | .release l => Sys2Proof.Machine.execRelease l s
  | .tmsgAdd l => Sys2Proof.Machine.execTmsgAdd l s
  | .tmsgCancel l => Sys2Proof.Machine.execTmsgCancel l s
  | .bitPeriodEnd => Sys2Proof.Machine.execBitPeriodEnd s
  | .linkByteSent l => Sys2Proof.Machine.execLinkByteSent l s

end Sys2Proof.Machine
end

