-- ==== Sys2Proof/Machine/Step.lean ====
section
/-! DEFINITION. One step of the part: the command at the front of the queue, or, with none waiting, the middle of a
bit period. -/

namespace Sys2Proof.Machine

/-- The command at the front of the queue is carried out on the state with the rest of the queue. With no command
waiting the middle of a bit period passes (log 4). -/
def step (s : State) : Host.Outcome State Fault Refusal :=
  match s.pending with
  | [] => .next (middle s)
  | c :: rest => exec c { s with pending := rest }

/-- The command a table word spells put at the front of the queue; no word spells one (log 27). -/
def State.withFetchWord (s : State) (nbits w : Nat) : State :=
  match decodeTableWord nbits w with
  | none => s
  | some c => { s with pending := c :: s.pending }

end Sys2Proof.Machine
end

