-- ==== Sys2Proof/Safety.lean ====
section
/-! DEFINITION. The words claims about the part are stated in: the frames a link can take, what the take leaves of the
link, and the properties a state of the part should have. -/

namespace Sys2Proof.Machine

/-! ### Frames -/

/-- The row of the table in which link `l` takes a frame of a command (log 2). -/
def Cmd.row (l : LinkId) : Cmd → Instr
  | .status => .status l | .readRecord => .readRecord l | .readCounters => .readCounters l
  | .clearFaults => .clearFaults l | .setSite => .setSite l | .setGroupset => .setGroupset l
  | .setRoute => .setRoute l | .setDefaultRoute => .setDefaultRoute l | .setOutput => .setOutput l
  | .setCue => .setCue l | .setLink => .setLink l | .setTiming => .setTiming l | .setMonitor => .setMonitor l
  | .setAlert => .setAlert l | .storeSave => .storeSave l | .reload => .reload l | .restart => .restart l
  | .revoke => .revoke l | .setEpoch => .setEpoch l | .cancelTimed => .cancelTimed l | .label => .label l
  | .text => .text l | .freqlist => .freqlist l | .neighbour => .neighbour l | .neighbourFlags => .neighbourFlags l
  | .optoutBegin => .optoutBegin l | .optoutEnd => .optoutEnd l | .setInterval => .setInterval l
  | .claim => .claim l | .release => .release l | .tmsgAdd => .tmsgAdd l | .tmsgCancel => .tmsgCancel l

/-- Routed commands act on programme outputs, part commands on the part as a whole (R151). -/
def Cmd.isRouted : Cmd → Bool
  | .label | .text | .freqlist | .neighbour | .neighbourFlags | .optoutBegin | .optoutEnd | .setInterval | .claim
  | .release | .tmsgAdd | .tmsgCancel => true
  | .status | .readRecord | .readCounters | .clearFaults | .setSite | .setGroupset | .setRoute | .setDefaultRoute
  | .setOutput | .setCue | .setLink | .setTiming | .setMonitor | .setAlert | .storeSave | .reload | .restart
  | .revoke | .setEpoch | .cancelTimed => false

/-- The owner's checks on the parameters of a routed command (R131, R152 step 8). -/
def Cmd.ownerCheck : Cmd → List Byte → Checked TimedCmd
  | .label => checkLabel | .text => checkText | .freqlist => checkFreqlist | .neighbour => checkNeighbour
  | .neighbourFlags => checkNeighbourFlags | .optoutBegin => checkOptoutBegin | .optoutEnd => checkOptoutEnd
  | .setInterval => checkSetInterval | .claim => checkClaim | .release => checkRelease | .tmsgAdd => checkTmsgAdd
  | .tmsgCancel => checkTmsgCancel
  | .status | .readRecord | .readCounters | .clearFaults | .setSite | .setGroupset | .setRoute | .setDefaultRoute
  | .setOutput | .setCue | .setLink | .setTiming | .setMonitor | .setAlert | .storeSave | .reload | .restart
  | .revoke | .setEpoch | .cancelTimed => fun _ => bad

/-- The oldest frame that waits on link `l` has this body and carries this command. -/
structure Front (s : State) (l : LinkId) (c : Cmd) (body : List Byte) : Prop where
  oldest : (s.link l).waiting.head? = some body
  code : byteAt body 0 = c.code

/-- The oldest waiting frame is a part command that reaches its owner: direct-matched, of a class the link holds, and
untimed (R152 steps 2 to 6). -/
structure PartFrame (s : State) (l : LinkId) (c : Cmd) (body : List Byte) : Prop extends Front s l c body where
  direct : directMatch s.settings (targetAddress body) = true
  allowed : permitted s l c.cls = true
  untimed : timedFlag body = false

/-- The oldest waiting frame is a routed command that reaches its owner with the route mask `m`: of a class the link
holds, with a token to spend (R152 steps 3 to 7). A timed one has a whole header. -/
structure RoutedFrame (s : State) (l : LinkId) (c : Cmd) (body : List Byte) (m : Mask) : Prop
    extends Front s l c body where
  header : timedFlag body = true → 9 ≤ body.length
  mask : routeMask s.settings (targetAddress body) (regionGroup body) = m
  outputs : m ≠ 0
  allowed : permitted s l c.cls = true
  tokens : 0 < (s.link l).tokens

/-! ### What a take leaves of the link -/

/-- The body of a reply (R159). -/
def replyOf (c : Cmd) (st : Status) (adjusted : Bool) (data : List Byte) : List Byte :=
  [c.code + 0x80, st.code, boolByte adjusted] ++ data

/-- Link `l` has taken its oldest frame and placed this reply; nothing else has changed. -/
def answered (l : LinkId) (c : Cmd) (st : Status) (adjusted : Bool) (data : List Byte) (s : State) : State :=
  s.modLink l fun k => (k.take (s.linkCfg l)).placeReply (replyOf c st adjusted data)

/-- Link `l` has taken its oldest frame, counted a refusal and placed the reply that says so. -/
def refused (l : LinkId) (c : Cmd) (st : Status) (s : State) : State :=
  s.modLink l fun k => (countRefusal (k.take (s.linkCfg l))).placeReply (replyOf c st false [])

/-- The reply of a routed command, placed where the frame was direct-matched (R152). -/
def replyIf (direct : Bool) (body : List Byte) (k : LinkState) : LinkState :=
  if direct then k.placeReply body else k

/-- Link `l` has taken a routed frame, its route has been counted, a token has been spent, and the reply has been
placed where the frame was direct-matched. -/
def routed (l : LinkId) (c : Cmd) (body : List Byte) (st : Status) (adjusted : Bool) (data : List Byte) (s : State) :
    State :=
  (countRoute (targetAddress body) (regionGroup body) s).modLink l fun k =>
    replyIf (directMatch s.settings (targetAddress body)) (replyOf c st adjusted data)
      (spendToken (k.take (s.linkCfg l)))

/-- As `routed`, for a command its owner refuses. -/
def routedRefused (l : LinkId) (c : Cmd) (body : List Byte) (st : Status) (s : State) : State :=
  (countRoute (targetAddress body) (regionGroup body) s).modLink l fun k =>
    replyIf (directMatch s.settings (targetAddress body)) (replyOf c st false [])
      (countRefusal (spendToken (k.take (s.linkCfg l))))

/-! ### What a disable leaves of a link -/

/-- The byte on the line belongs to a reply, so that a disable gives its frame up (R144). -/
def LinkState.inReply (k : LinkState) : Bool :=
  match k.tx with
  | some (.ctrl _) => false
  | some (.cut _) => false
  | some .start => true
  | some .escape => true
  | some (.data _) => true
  | none => false

/-- The bytes still to be sent of a link that has no reply left: the one on the line, and HOLD and GO (R144). -/
def LinkState.bytesLeft (k : LinkState) : Nat := k.ctrl.length + if k.tx = none then 0 else 1

/-- The five acts of a disable (R144): `k` has become `t`. HOLD and GO bytes due still go out and a reply half sent is
not counted as dropped (log 14). A change of rate that waits for dropped bytes waits for what still goes out ahead of it
(R143), a RESTART for the last byte (R168); one that waits for no reply byte is left (log 18). -/
structure LinkState.TurnedOff (k t : LinkState) : Prop where
  off : t.on = false
  receiver : t.recv = .hunt ∧ t.escape = false ∧ t.stored = [] ∧ t.waiting = []
  replies : t.replies = []
  dropped : t.counters = { k.counters with dropped := satAdd k.counters.dropped (match k.replies with
    | [] => 0
    | r :: rs => if r.begun = true ∨ k.tx = some .start then rs.length else rs.length + 1) }
  hold : t.holdOut = false
  byteInProgress : k.tx ≠ none → t.tx = k.tx.map fun
    | .start => .cut 0xC5
    | .escape => .cut 0xCA
    | .data b => .cut b
    | .ctrl b => .ctrl b
    | .cut b => .cut b
  closing : k.tx ≠ none → t.ctrl = if k.holdOut then k.ctrl ++ [0xC1] else k.ctrl
  silent : k.tx = none → k.ctrl = [] → k.rateChanges = [] →
    t.tx = (if k.holdOut then some (.ctrl 0xC1) else none) ∧ t.ctrl = []
  goesOut : t.bytesLeft = k.bytesLeft + if k.holdOut then 1 else 0
  rateWaits : t.rateChanges = k.rateChanges.map fun (rc : RateChange) =>
    if rc.after.reply = 0 then rc else { rc with after := ⟨0, rc.after.ctrl + if k.inReply then 1 else 0⟩ }
  restartWaits : t.restartAt = k.restartAt.map fun (m : Mark) => if m.reply = 0 then m else ⟨0, t.bytesLeft⟩
  disable : t.disableAt = none
  kept : t.rate = k.rate ∧ t.tokens = k.tokens ∧ t.tokenCount = k.tokenCount

/-- HOLD and GO bytes become due on a link: `k` has become `t`. With a byte on the line they wait behind the HOLD and GO
bytes due before; with none, and nothing due that holds the transmitter back (log 16), the first goes out at once
(R149). -/
def LinkState.Sends (k t : LinkState) (bytes : List Byte) : Prop :=
  let heldBack : Prop :=
    k.disableAt = some ⟨0, 0⟩ ∨ ∃ (rc : RateChange) (rest : List RateChange),
      k.rateChanges = rc :: rest ∧ rc.after = ⟨0, 0⟩
  (k.tx ≠ none ∨ heldBack → t.tx = k.tx ∧ t.ctrl = k.ctrl ++ bytes) ∧
    (k.tx = none → k.ctrl = [] → ¬ heldBack → t.tx = bytes.head?.map TxByte.ctrl ∧ t.ctrl = bytes.tail)

/-! ### Cells and the pool through a boundary -/

/-- The kind of the cell an output in RUN has in progress (R4, R174). -/
def State.cellKind (t : State) (p : OutId) : Option Nat :=
  if (t.lane p).run then (t.lane p).asm.cell.map fun c => c.control.toNat / 16 else none

/-- The pool in the course of the boundary that leads from `s` to `t`, without timed entries, as output `n` finds it: at
a jump every next-eligible count is the new count (R81), the hold of R78 has been made, and each of the outputs before
`n` that sends a TMSG cell has sent its record (R79, R80). -/
def State.poolAt (s t : State) (n : Nat) : List PoolRecord :=
  (outputs.take n).foldl (fun rs p => if t.cellKind p = some 4 then sendFirst t.tb.count p rs else rs)
    (s.pool.records.map fun r => holdRecord t.tb.count
      (if t.tb.count = s.tb.expected then r else { r with nextEligible := .replicate 4 t.tb.count }))

/-! ### Boundaries at which nothing else meets -/

/-- What asks for a change of the claim table at the coming boundary, beside the timed entries: a claim whose hold or
wait limit has been reached (R97), a request of a cue line that waits for the boundary (R121, R126), and a LEVEL line,
pending and active, that makes its entry request again (R124). -/
def State.asks (s : State) : Change → Prop
  | .expiry k => ∃ c, c ∈ s.claims.table ∧ c.key = k ∧
      ((c.holdLimit ≠ 0 ∧ c.holdLimit ≤ c.holdUsed.toNat) ∨ (c.waitLimit ≠ 0 ∧ c.waitLimit ≤ c.waitUsed.toNat))
  | .request c r => (s.cue c).due = some r
  | .retry c => (s.cueCfg c).mode = .level ∧ (s.cue c).pending = true ∧ (s.cue c).active = true

/-- Exactly these ask, in a claim table in which no two claims have one key (R90). -/
def State.onlyAsk (s : State) (asking : List Change) : Prop :=
  (∀ x, s.asks x ↔ x ∈ asking) ∧ (s.claims.table.map Claim.key).Nodup

/-- The coming boundary brings neither a jump nor a change of the claim table: the count advances by one, nothing is
timed for it, no limit has been reached and no cue line asks. -/
structure PlainBoundary (s : State) : Prop where
  running : s.tb.start = .running
  unmarked : s.tb.markNext = none
  unarmed : s.settings.mode = .master → s.tb.arm = none
  noEntries : s.queue.entries = []
  noneAsks : ∀ x, ¬ s.asks x

/-! ### Properties a state of the part should have -/

/-- The stores of a link are within their sizes (R148, R158, R159). -/
def LinkState.withinSize (k : LinkState) : Prop := k.tokens ≤ 32 ∧ k.occupancy ≤ 1024 ∧ k.replyBytes ≤ 512

/-- The counts of the timebase are below their limits: 114 bits (R1, R19), 20 qualifying cells (R23), 12,000 cells of
holdover (R25), and an EPOUT pulse ends with the second end of a bit period at the latest (R27, log 12). -/
def Timebase.withinSize (t : Timebase) : Prop :=
  t.bitPos ≤ 113 ∧ t.qual < 20 ∧ t.holdover < 12000 ∧ t.epoutEnds ≤ 2

/-- The ages of the services, and the largest of each, are at most 1,023 (R59, R70). -/
def Scheduler.withinSize (k : Scheduler) : Prop := ∀ i, k.ages.get i ≤ 1023 ∧ k.largest.get i ≤ 1023

/-- The image in the store, and the one being written, fit its 8 KiB (R178). -/
def StoreCtl.withinSize (c : StoreCtl) : Prop :=
  c.image.length ≤ 8192 ∧ ∀ image, c.saving = some image → image.length ≤ 8192

/-- Every table, buffer and counter whose size is fixed whatever the settings is within it: 8 claims (R84), 32 traffic
messages (R72), 32 timed entries (R133), the timebase, the schedulers, the store and the links. -/
def State.withinSize (s : State) : Prop :=
  s.claims.table.length ≤ 8 ∧ s.pool.records.length ≤ 32 ∧ s.queue.entries.length ≤ 32 ∧ s.tb.withinSize ∧
    (∀ p, (s.lane p).sched.withinSize) ∧ s.store.withinSize ∧ ∀ l, (s.link l).withinSize

/-- The counters that a setting starts or ends are within the range of that setting: lead and trail at most 200 and the
announce burst at most 8 (R104, R111), the debounce counter below 255 (R119, R121), the token count below 255 (R158). -/
def State.countersFollow (s : State) : Prop :=
  (∀ p, (s.lane p).seq.lead ≤ 200 ∧ (s.lane p).seq.trail ≤ 200 ∧ (s.lane p).seq.burst ≤ 8) ∧
    (∀ c, (s.cue c).debounce < 255) ∧ ∀ l, (s.link l).tokenCount < 255

/-- ALERT stands as the flags and the mask say (R169). -/
def State.alertFollows (s : State) : Prop := s.store.alert = alertLevel s.store.faults s.settings.alertMask

/-- COn is active exactly in ON_AIR (R115), and an output that is OFF has no cell, still pins and a QUIET sequencer
(R11, R14). -/
def Lane.pinsFollow (ln : Lane) : Prop :=
  ln.seq.co = (ln.seq.phase == .onAir) ∧
    (ln.run = false → ln.asm.cell = none ∧ ln.asm.dout = false ∧ ln.asm.dck = false ∧ ln.seq.phase = .quiet)

/-- An output in RUN has a cell in progress and DOn shows its bit of index `i`; DCKn, low in the first half of a bit
period and high in the second, is free (R11). -/
def Lane.showsBit (i : Nat) (ln : Lane) : Prop :=
  ln.run = true → ∃ c, ln.asm.cell = some c ∧ ln.asm.dout = c.bits.getMsbD i

/-- The monitor's pins stand at the level of the pins of the output it copies, or low (R15). -/
def State.monitorFollows (s : State) : Prop :=
  match s.monitor.source with
  | none => s.monitor.mon = false ∧ s.monitor.monck = false
  | some p => s.monitor.mon = (s.lane p).asm.dout ∧ s.monitor.monck = (s.lane p).asm.dck

/-- DOn and COn of every output, DCKn of one that is OFF, and the monitor's pins stand as the part's state says. -/
def State.pinsFollow (s : State) : Prop :=
  (∀ p, (s.lane p).pinsFollow ∧ (s.lane p).showsBit s.tb.bitPos) ∧ s.monitorFollows

/-- A sequencer names a claim exactly in ONSET and ON_AIR (R107 to R110, R114). -/
def Sequencer.namesByPhase (q : Sequencer) : Prop := q.current = none ↔ q.phase = .quiet ∨ q.phase = .trail

/-- The sequencer of every output names a claim exactly in ONSET and ON_AIR. -/
def State.namesFollow (s : State) : Prop := ∀ p, (s.lane p).seq.namesByPhase

/-- The settings of an output are within their ranges (R57, R104, R163). -/
def OutSettings.inRange (o : OutSettings) : Prop :=
  o.netId ≠ 0 ∧ o.lead ≤ 200 ∧ o.trail ≤ 200 ∧ 1 ≤ o.burst ∧ o.burst ≤ 8 ∧ ∀ i, o.intervals.get i ≤ 1023

/-- The settings of a cue line are within their ranges (R119, R164). -/
def CueSettings.inRange (c : CueSettings) : Prop :=
  1 ≤ c.debounce ∧ c.debounce ≤ 255 ∧ c.priority ≤ 7 ∧ c.holdLimit ≤ 72000 ∧ c.waitLimit ≤ 72000

/-- The settings of a link are within their ranges (R149, R158, R164). -/
def LinkSettings.inRange (k : LinkSettings) : Prop :=
  64 ≤ k.pause ∧ k.pause ≤ 1008 ∧ k.resume < k.pause ∧ 1 ≤ k.interval ∧ k.interval ≤ 255

/-- Every running setting is within its range. -/
def Settings.inRange (g : Settings) : Prop :=
  (∀ p, (g.outputs.get p).inRange) ∧ (∀ c, (g.cues.get c).inRange) ∧ ∀ l, (g.links.get l).inRange

/-- A label as the part holds one: 1 to 18 printable characters, category 0 to 31 (R38, R39). -/
def Label.proper (l : Label) : Prop :=
  1 ≤ l.chars.length ∧ l.chars.length ≤ 18 ∧ l.chars.all printable = true ∧ l.category ≤ 31

/-- A text as the part holds one: at most 60 printable characters (R38, R40). -/
def properText (chars : List Byte) : Prop := chars.length ≤ 60 ∧ chars.all printable = true

/-- A frequency list as the part holds one: at most 24 codes, each 1 to 880 (section 3). A list of the store image may
hold a code twice (R178). -/
def freqsInRange (codes : List Nat) : Prop := codes.length ≤ 24 ∧ codes.all isFreqCode = true

/-- A frequency list as FREQLIST leaves one: no code twice (R41). -/
def properFreqs (codes : List Nat) : Prop := freqsInRange codes ∧ codes.Nodup

/-- A used neighbour record as the part holds one (R49, R50). -/
def Neighbour.proper (r : Neighbour) : Prop :=
  r.identity ≠ 0 ∧ r.carriers ≠ 0 ∧ r.freq ≤ 880 ∧ r.label.length ≤ 8 ∧ r.label.all printable = true

/-- The content of a variant, live and staged. -/
def VariantContent.proper (v : VariantContent) : Prop :=
  v.label.proper ∧ properText v.text ∧ (∀ l, v.staged = some l → l.proper) ∧
    ∀ chars, v.stagedText = some chars → properText chars

/-- The content of an output, live and staged. -/
def OutContent.proper (o : OutContent) : Prop :=
  o.varN.proper ∧ o.varR.proper ∧ freqsInRange o.freqs ∧ ∀ codes, o.stagedFreqs = some codes → properFreqs codes

/-- The whole content store. -/
def Content.proper (c : Content) : Prop :=
  (∀ p, (c.outs.get p).proper) ∧ ∀ slot r, c.neighbours.get slot = some r → r.proper

/-- The positions of an output's cycles lie within the totals of what they run through: the next label segment within
the live label of the shown variant (R43), the next text segment within the text shown, the next chunk within the live
list, both at 0 where there is none (R45, R46). -/
def OutContent.positionsWithin (o : OutContent) : Prop :=
  o.labelPos < (o.shownLabel.chars.length + 5) / 6 ∧
    (o.textPos = 0 ∨ o.textPos < (o.shownText.length + 5) / 6) ∧
    (o.freqPos = 0 ∨ o.freqPos < (o.freqs.length + 3) / 4)

/-- The positions of every output. -/
def State.positionsWithin (s : State) : Prop := ∀ p, (s.out p).positionsWithin

/-- A timed command as the arrival checks leave it (R131). -/
def TimedCmd.proper : TimedCmd → Prop
  | .label _ l => l.proper
  | .text _ chars => properText chars
  | .freqlist codes => properFreqs codes
  | .neighbour _ identity freq carriers _ chars =>
    (identity = 0 → carriers = 0) ∧ freq ≤ 880 ∧ chars.length ≤ 8 ∧ chars.all printable = true
  | .neighbourFlags _ _ => True
  | .optoutBegin => True
  | .optoutEnd => True
  | .setInterval _ v => v ≤ 1023
  | .claim _ _ priority _ hold wait => priority ≤ 7 ∧ hold ≤ 72000 ∧ wait ≤ 72000
  | .release _ => True
  | .tmsgAdd key _ reps spacing => key ≠ 0 ∧ 1 ≤ reps ∧ reps ≤ 8 ∧ 1 ≤ spacing ∧ spacing ≤ 1200
  | .tmsgCancel key => key ≠ 0

/-- A claim as the claim manager holds one (R84). -/
def Claim.proper (c : Claim) : Prop := c.priority ≤ 7 ∧ c.holdLimit ≤ 72000 ∧ c.waitLimit ≤ 72000

/-- A record as the pool holds one (R72): a key, a spacing of 1 to 1,200 and at most 8 repeats on each output. -/
def PoolRecord.proper (r : PoolRecord) : Prop :=
  r.key ≠ 0 ∧ 1 ≤ r.spacing ∧ r.spacing ≤ 1200 ∧ (∀ p, r.repeats.get p ≤ 8)

/-- Every value the part holds is within the range the spec gives it. -/
def State.inRange (s : State) : Prop :=
  s.settings.inRange ∧ s.content.proper ∧ (∀ e, e ∈ s.queue.entries → e.cmd.proper) ∧
    (∀ c, c ∈ s.claims.table → c.proper) ∧ ∀ r, r ∈ s.pool.records → r.proper

/-- No two claims held have one key (R90), and no two pool records one key (R75). -/
def State.keysDistinct (s : State) : Prop :=
  (s.claims.table.map Claim.key).Nodup ∧ (s.pool.records.map PoolRecord.key).Nodup

end Sys2Proof.Machine
end

