-- ==== Sys2Proof/Certificates/Slice0/Obligations.lean ====
section
/-! DEFINITION. The statements about the part, for the provers. A statement that rests on a choice of the model names
the log entry. -/

open Sys2Proof Sys2Proof.Machine

/-! ## Part commands (R151, R152, R162 to R172) -/

/-- SET_SITE, R153: the slot takes the address and enable given; a slot above 15 is refused. SET_GROUPSET, R154: the
membership becomes every code within at least one of the ranges; a set above 7, more than 16 ranges, or a range with
its low code above its high code is refused. SET_ROUTE, R156 and R176: the entry is replaced whole, each term read
from its flags, slot and group set bytes; an entry above 15, or a slot or group set above its range in a test that is
present, is refused. SET_DEFAULT_ROUTE, R156: the mask replaces the default destination mask; bits 7 to 4 are ignored
(R173). -/
def Obligations.RoutingSettingsAreWritten : Prop :=
  (∀ (s : State) (l : LinkId) (body : List Byte) (i a1 a0 e : Byte), PartFrame s l .setSite body →
     body.drop 5 = [i, a1, a0, e] →
     (∀ slot : Fin 16, i.toNat = slot.val → exec (.setSite l) s = .next { answered l .setSite .ok false [] s with
       settings := { s.settings with
         sites := s.settings.sites.set slot { address := BitVec.ofNat 16 (natOf [a1, a0]), enable := e != 0 } } }) ∧
     (16 ≤ i.toNat → exec (.setSite l) s = .next (refused l .setSite .badParam s))) ∧
  (∀ (s : State) (l : LinkId) (body : List Byte) (i k : Byte) (ranges : List (Byte × Byte)),
     PartFrame s l .setGroupset body → ranges.length = k.toNat →
     body.drop 5 = i :: k :: ranges.flatMap (fun r => [r.1, r.2]) →
     (∀ set : SetId, i.toNat = set.val → k.toNat ≤ 16 → (∀ r, r ∈ ranges → r.1.toNat ≤ r.2.toNat) →
       ∃ members : BitVec 256, exec (.setGroupset l) s = .next { answered l .setGroupset .ok false [] s with
           settings := { s.settings with groupSets := s.settings.groupSets.set set members } } ∧
         ∀ code : Nat, code < 256 →
           (members.getLsbD code = true ↔ ∃ r, r ∈ ranges ∧ r.1.toNat ≤ code ∧ code ≤ r.2.toNat)) ∧
     (8 ≤ i.toNat ∨ 16 < k.toNat ∨ (∃ r, r ∈ ranges ∧ r.2.toNat < r.1.toNat) →
       exec (.setGroupset l) s = .next (refused l .setGroupset .badParam s))) ∧
  (∀ (s : State) (l : LinkId) (body : List Byte) (i e m : Byte) (flags slots sets : Fin 4 → Byte),
     PartFrame s l .setRoute body →
     body.drop 5 = [i, e, m, flags 0, slots 0, sets 0, flags 1, slots 1, sets 1, flags 2, slots 2, sets 2,
       flags 3, slots 3, sets 3] →
     (∀ (entry : Fin 16) (terms : Table 4 RouteTerm), i.toNat = entry.val →
       (∀ j : Fin 4, (terms.get j).enable = (flags j).getLsbD 7 ∧
         (terms.get j).combiner = (if (flags j).getLsbD 4 then .or else .and) ∧
         ((flags j).getLsbD 6 = false → (terms.get j).addressTest = none) ∧
         ((flags j).getLsbD 6 = true → ∃ slot, (terms.get j).addressTest = some slot ∧ slot.val = (slots j).toNat) ∧
         ((flags j).getLsbD 5 = false → (terms.get j).groupTest = none) ∧
         ((flags j).getLsbD 5 = true → ∃ set, (terms.get j).groupTest = some set ∧ set.val = (sets j).toNat)) →
       exec (.setRoute l) s = .next { answered l .setRoute .ok false [] s with
         settings := { s.settings with
           routes := s.settings.routes.set entry { enable := e != 0, dest := m.setWidth 4, terms := terms } } }) ∧
     (16 ≤ i.toNat ∨ (∃ j, (flags j).getLsbD 6 = true ∧ 16 ≤ (slots j).toNat) ∨
         (∃ j, (flags j).getLsbD 5 = true ∧ 8 ≤ (sets j).toNat) →
       exec (.setRoute l) s = .next (refused l .setRoute .badParam s))) ∧
  (∀ (s : State) (l : LinkId) (body : List Byte) (m : Byte), PartFrame s l .setDefaultRoute body →
     body.drop 5 = [m] →
     exec (.setDefaultRoute l) s = .next { answered l .setDefaultRoute .ok false [] s with
       settings := { s.settings with defaultMask := m.setWidth 4 } })

/-- SET_OUTPUT, R163 and R104: the fields replaced, each clamped to its range with the adjusted flag; a network identity
of 0 or an output above 3 is refused; the intervals stay. A regional identity of 0 on an output whose source is
REGIONAL makes its requested source NETWORK (R36, log 24). -/
def Obligations.SetOutputWritesTheFields : Prop :=
  ∀ (s : State) (l : LinkId) (body : List Byte) (i flags n1 n0 r1 r0 aN aR lead trail burst : Byte),
    PartFrame s l .setOutput body →
    body.drop 5 = [i, flags, n1, n0, r1, r0, aN, aR, lead, trail, burst] →
    (∀ p : OutId, i.toNat = p.val → natOf [n1, n0] ≠ 0 →
      ∃ cfg : OutSettings, exec (.setOutput l) s = .next { answered l .setOutput .ok
            (decide (7 < aN.toNat) || decide (7 < aR.toNat) || decide (200 < lead.toNat) ||
              decide (200 < trail.toNat) || decide (burst.toNat = 0) || decide (8 < burst.toNat)) [] s with
          settings := { s.settings with outputs := s.settings.outputs.set p cfg }
          content := { s.content with
            outs := s.content.outs.modify p fun o =>
              if natOf [r1, r0] = 0 ∧ o.source = .regional then { o with requested := .network } else o } } ∧
        cfg.enable = flags.getLsbD 0 ∧ cfg.tc = flags.getLsbD 1 ∧ cfg.netId = BitVec.ofNat 16 (natOf [n1, n0]) ∧
        cfg.regId = BitVec.ofNat 16 (natOf [r1, r0]) ∧ cfg.accNet.val = min aN.toNat 7 ∧
        cfg.accReg.val = min aR.toNat 7 ∧ cfg.lead = min lead.toNat 200 ∧ cfg.trail = min trail.toNat 200 ∧
        cfg.burst = max 1 (min burst.toNat 8) ∧ cfg.intervals = (s.outCfg p).intervals) ∧
    (4 ≤ i.toNat ∨ natOf [n1, n0] = 0 → exec (.setOutput l) s = .next (refused l .setOutput .badParam s))

/-- SET_CUE, R164 and R120: every setting of the line replaced, each number clamped with the adjusted flag; a changed
mode or polarity resets the line's working state, and drops a request that still waits for a boundary (the model's
choice, logs 21 and 35); an undefined mode, polarity or class, or a line above 7, is refused. -/
def Obligations.SetCueWritesTheLine : Prop :=
  ∀ (s : State) (l : LinkId) (body : List Byte)
    (i mode pol d1 d0 cls prio group target h2 h1 h0 w2 w1 w0 : Byte), PartFrame s l .setCue body →
    body.drop 5 = [i, mode, pol, d1, d0, cls, prio, group, target, h2, h1, h0, w2, w1, w0] →
    (∀ (c : LineId) (m : CueMode) (po : Polarity) (cl : ClaimClass), i.toNat = c.val → mode = m.code →
      pol = po.code → cls = cl.code →
      ∃ cfg : CueSettings, exec (.setCue l) s = .next { answered l .setCue .ok
            (decide (natOf [d1, d0] = 0) || decide (255 < natOf [d1, d0]) || decide (7 < prio.toNat) ||
              decide (72000 < natOf [h2, h1, h0]) || decide (72000 < natOf [w2, w1, w0])) [] s with
          settings := { s.settings with cues := s.settings.cues.set c cfg }
          cues := s.cues.modify c fun k =>
            if (s.cueCfg c).mode = m ∧ (s.cueCfg c).polarity = po then k
            else { k with active := false, debounce := 0, pending := false, capture := none, due := none } } ∧
        cfg.mode = m ∧ cfg.polarity = po ∧ cfg.debounce = max 1 (min (natOf [d1, d0]) 255) ∧ cfg.cls = cl ∧
        cfg.priority = min prio.toNat 7 ∧ cfg.group = group ∧ cfg.target = target.setWidth 4 ∧
        cfg.holdLimit = min (natOf [h2, h1, h0]) 72000 ∧ cfg.waitLimit = min (natOf [w2, w1, w0]) 72000) ∧
    (8 ≤ i.toNat ∨ 2 < mode.toNat ∨ 1 < pol.toNat ∨ cls.toNat = 0 ∨ 4 < cls.toNat →
      exec (.setCue l) s = .next (refused l .setCue .badParam s))

/-- SET_LINK, R164: every setting of the link replaced, clamped with the adjusted flag; the reply is placed before the
settings act on the link's working state (R143, R144); an undefined rate or a link above 3 is refused. What new
settings do to a link, R143, R144 and R149: a changed rate waits for the reply, HOLD and GO bytes placed before it; a
cleared enable acts at once (logs 14 and 18), or on the carrying link once the reply bytes placed so far have been
sent (its own dropped: log 36); a set enable withdraws a disable that waits (log 17), a cleared one leaves it (log
40); a HOLD or GO of the same command goes out behind its change of rate (log 41); a link enabled again starts with an
empty input buffer and a GO, behind HOLD and GO bytes still unsent (log 37); a changed level is tested against the
occupancy at once. -/
def Obligations.SetLinkWritesTheLink : Prop :=
  (∀ (s : State) (l : LinkId) (body : List Byte) (i enable rate perms p1 p0 r1 r0 t1 t0 : Byte),
     PartFrame s l .setLink body →
     body.drop 5 = [i, enable, rate, perms, p1, p0, r1, r0, t1, t0] →
     (∀ (k : LinkId) (rt : LineRate) (cfg : LinkSettings), i.toNat = k.val → rate = rt.code →
       cfg.enable = (enable != 0) → cfg.rate = rt → cfg.perms = perms.setWidth 5 →
       cfg.pause = max 64 (min (natOf [p1, p0]) 1008) → cfg.resume = min (natOf [r1, r0]) (cfg.pause - 1) →
       cfg.interval = max 1 (min (natOf [t1, t0]) 255) →
       exec (.setLink l) s = .next { answered l .setLink .ok
           (decide (natOf [p1, p0] < 64) || decide (1008 < natOf [p1, p0]) || decide (cfg.pause ≤ natOf [r1, r0]) ||
             decide (natOf [t1, t0] = 0) || decide (255 < natOf [t1, t0])) [] s with
         settings := { s.settings with links := s.settings.links.set k cfg }
         links := (answered l .setLink .ok
           (decide (natOf [p1, p0] < 64) || decide (1008 < natOf [p1, p0]) || decide (cfg.pause ≤ natOf [r1, r0]) ||
             decide (natOf [t1, t0] = 0) || decide (255 < natOf [t1, t0])) [] s).links.modify k
           (LinkState.reconfigure (l == k) (s.linkCfg k) cfg) }) ∧
     (4 ≤ i.toNat ∨ 4 < rate.toNat → exec (.setLink l) s = .next (refused l .setLink .badParam s))) ∧
  (∀ (carrying : Bool) (old new : LinkSettings) (k t : LinkState) (rates : List RateChange),
     t = LinkState.reconfigure carrying old new k → 0 < new.pause → new.resume < new.pause →
     rates = (if old.rate = new.rate then k.rateChanges
       else k.rateChanges ++ [{ after := { reply := k.replyBytes, ctrl := k.ctrlLeft }, rate := new.rate }]) →
     (old.enable = true → new.enable = false → carrying = false →
       LinkState.TurnedOff { k with rateChanges := rates } t) ∧
     (k.on = false → new.enable = false → old.enable = false → t = { k with rateChanges := rates }) ∧
     (k.on = false → new.enable = true →
       t.on = true ∧ t.recv = .hunt ∧ t.escape = false ∧ t.stored = [] ∧ t.waiting = [] ∧ t.holdOut = false ∧
       t.rateChanges = rates ∧ t.rate = k.rate ∧ t.replies = k.replies ∧ t.disableAt = k.disableAt ∧
       t.restartAt = k.restartAt ∧ t.tokens = k.tokens ∧ t.tokenCount = k.tokenCount ∧ t.counters = k.counters ∧
       t.ctrlLeft = k.ctrlLeft + 1 ∧ (k.tx ≠ none → t.tx = k.tx ∧ t.ctrl = k.ctrl ++ [0xC1]) ∧
       (k.tx = none → k.ctrl = [] → k.disableAt = none → rates = [] → t.tx = some (.ctrl 0xC1) ∧ t.ctrl = [])) ∧
     (k.on = true → (new.enable = true ∨ old.enable = false ∨ carrying = true) →
       t.on = true ∧ t.recv = k.recv ∧ t.escape = k.escape ∧ t.stored = k.stored ∧ t.waiting = k.waiting ∧
       t.rateChanges = rates ∧ t.rate = k.rate ∧ t.replies = k.replies ∧ t.restartAt = k.restartAt ∧
       t.tokens = k.tokens ∧ t.tokenCount = k.tokenCount ∧ t.counters = k.counters ∧
       t.disableAt = (if new.enable then none
         else if old.enable then some { reply := k.replyBytes, ctrl := 0 } else k.disableAt) ∧
       (k.holdOut = false → (old.pause ≠ new.pause ∨ old.resume ≠ new.resume) → new.pause ≤ k.occupancy →
         t.holdOut = true ∧ t.ctrlLeft = k.ctrlLeft + 1 ∧ (k.tx ≠ none → t.ctrl = k.ctrl ++ [0xC3])) ∧
       (k.holdOut = true → (old.pause ≠ new.pause ∨ old.resume ≠ new.resume) → k.occupancy ≤ new.resume →
         t.holdOut = false ∧ t.ctrlLeft = k.ctrlLeft + 1 ∧ (k.tx ≠ none → t.ctrl = k.ctrl ++ [0xC1])) ∧
       ((old.pause = new.pause ∧ old.resume = new.resume) ∨ (k.holdOut = false ∧ k.occupancy < new.pause) ∨
           (k.holdOut = true ∧ new.resume < k.occupancy) →
         t.holdOut = k.holdOut ∧ t.ctrlLeft = k.ctrlLeft ∧ (k.tx ≠ none → t.tx = k.tx ∧ t.ctrl = k.ctrl))))

/-- SET_TIMING (R20) and SET_MONITOR (R15, R164). A mode that differs returns the lock state to FREE, clears both
counts and discards the mark on the next cell; the arm and the count stay. SET_EPOCH, R31: a multiple of 1024 arms the
timebase, any other value is refused. SET_ALERT and CLEAR_FAULTS, R169: the mask or the flags change and ALERT follows
at once. -/
def Obligations.TimingMonitorEpochAndAlertAreSet : Prop :=
  ((∀ (s : State) (l : LinkId) (body : List Byte) (v : Byte), PartFrame s l .setTiming body →
     body.drop 5 = [v] →
     (∀ m : TimingMode, v = m.code → ∃ t, exec (.setTiming l) s = .next t ∧
       t = { answered l .setTiming .ok false [] s with
         settings := { s.settings with mode := m }, tb := t.tb } ∧
       (s.settings.mode = m → t.tb = s.tb) ∧
       (s.settings.mode ≠ m → t.tb.lock = .free ∧ t.tb.qual = 0 ∧ t.tb.holdover = 0 ∧ t.tb.markNext = none ∧
         t.tb.count = s.tb.count ∧ t.tb.arm = s.tb.arm ∧ t.tb.rate = s.tb.rate ∧ t.tb.bitPos = s.tb.bitPos ∧
         t.tb.markThis = s.tb.markThis ∧ t.tb.epout = s.tb.epout ∧ t.tb.counters = s.tb.counters)) ∧
     (1 < v.toNat → exec (.setTiming l) s = .next (refused l .setTiming .badParam s))) ∧
   (∀ (s : State) (l : LinkId) (body : List Byte) (sel : Byte), PartFrame s l .setMonitor body →
     body.drop 5 = [sel] →
     (sel = 0xFF → exec (.setMonitor l) s = .next { answered l .setMonitor .ok false [] s with
       settings := { s.settings with monitor := none } }) ∧
     (∀ p : OutId, sel.toNat = p.val → exec (.setMonitor l) s = .next { answered l .setMonitor .ok false [] s with
       settings := { s.settings with monitor := some p } }) ∧
     (4 ≤ sel.toNat ∧ sel ≠ 0xFF → exec (.setMonitor l) s = .next (refused l .setMonitor .badParam s)))) ∧
  (∀ (s : State) (l : LinkId) (body : List Byte) (v2 v1 v0 : Byte), PartFrame s l .setEpoch body →
     body.drop 5 = [v2, v1, v0] →
     (natOf [v2, v1, v0] % 1024 = 0 → exec (.setEpoch l) s = .next { answered l .setEpoch .ok false [] s with
       tb := { s.tb with arm := some (BitVec.ofNat 24 (natOf [v2, v1, v0])) } }) ∧
     (natOf [v2, v1, v0] % 1024 ≠ 0 → exec (.setEpoch l) s = .next (refused l .setEpoch .badParam s))) ∧
  (∀ (s : State) (l : LinkId) (body : List Byte) (m : Byte), PartFrame s l .setAlert body → body.drop 5 = [m] →
    exec (.setAlert l) s = .next { answered l .setAlert .ok false [] s with
      settings := { s.settings with alertMask := m.setWidth 5 }
      store := { s.store with alert := decide (s.store.faults &&& m.setWidth 5 ≠ 0) } }) ∧
  (∀ (s : State) (l : LinkId) (body : List Byte), PartFrame s l .clearFaults body → body.drop 5 = [] →
    exec (.clearFaults l) s = .next { answered l .clearFaults .ok false [] s with
      store := { s.store with faults := 0, alert := false } })

/-- STORE_SAVE and STORE_SAVE_COMPLETE, R166: BUSY while SAVING; otherwise the snapshot is taken and the image counts as
invalid until the write completes; the completed image is the snapshot, or SAVE_FAILED is set. That the store is empty
while a write is under way, and that the verify's result is the row's operand, is the model's choice (log 19). -/
def Obligations.StoreSaveTakesTheSnapshot : Prop :=
  (∀ (s : State) (l : LinkId) (body : List Byte), PartFrame s l .storeSave body → body.drop 5 = [] →
    (s.store.saving ≠ none → exec (.storeSave l) s = .next (refused l .storeSave .busy s)) ∧
    (s.store.saving = none → exec (.storeSave l) s = .next { answered l .storeSave .ok false [] s with
      store := { s.store with
        image := [], saving := some (imageBytes s.settings (savedContent s.content)) } })) ∧
  (∀ (s : State) (image : List Byte), s.store.saving = some image →
    exec (.storeSaveComplete true) s =
      .next { s with store := { s.store with image := image, saving := none } } ∧
    exec (.storeSaveComplete false) s = .next { s with
      store := { s.store with
        saving := none, faults := s.store.faults ||| 8
        alert := decide ((s.store.faults ||| 8) &&& s.settings.alertMask ≠ 0) } })

/-- R178, R166 and R165: the image a save writes from settings and content within their ranges is 1,754 bytes long, and
what a load reads from it is those settings and that content: every field is written and read. -/
def Obligations.AnImageHoldsWhatWasSaved : Prop :=
  ∀ s : State, s.inRange → (snapshot s).length = 1754 ∧
    readImage (snapshot s) = some (s.settings, savedContent s.content)

/-- RELOAD, R167: BUSY while SAVING; an invalid image changes no setting; a valid one replaces every running setting
once the reply is placed, each acting as the command that writes it would (for a link as SetLinkWritesTheLink says; for
a cue line with logs 21 and 35), in one act (log 30). It leaves live and staged content, every source and requested
source (R54, log 24), claims, pool, queue, sequencers, the count, the arm, the image, the flags and every counter as
they stand. The byte that says "loaded" or "image invalid" is the model's choice of width (log 42). -/
def Obligations.ReloadReplacesTheSettings : Prop :=
  ∀ (s : State) (l : LinkId) (body : List Byte), PartFrame s l .reload body → body.drop 5 = [] →
    (s.store.saving ≠ none → exec (.reload l) s = .next (refused l .reload .busy s)) ∧
    (s.store.saving = none → readImage s.store.image = none →
      exec (.reload l) s = .next (answered l .reload .ok false [1] s)) ∧
    (∀ g c, s.store.saving = none → readImage s.store.image = some (g, c) → exec (.reload l) s = .next
      { s with
        settings := g
        tb := if s.settings.mode = g.mode then s.tb
          else { s.tb with lock := .free, qual := 0, holdover := 0, markNext := none, judged := false
                           refWatch := .noEdge }
        cues := .tabulate fun c =>
          if (s.cueCfg c).mode = (g.cues.get c).mode ∧ (s.cueCfg c).polarity = (g.cues.get c).polarity then s.cue c
          else { s.cue c with active := false, debounce := 0, pending := false, capture := none, due := none }
        links := .tabulate fun k => ((answered l .reload .ok false [0] s).link k).reconfigure (l == k)
          (s.linkCfg k) (g.links.get k)
        store := { s.store with alert := decide (s.store.faults &&& g.alertMask ≠ 0) } })

/-- RESTART, R168: BUSY while SAVING; otherwise the reply OK is placed and the restart waits for every reply byte
placed so far, and for the HOLD and GO bytes an earlier RESTART of the link still waits for (log 18). RESTART_BEGIN,
R168: with some RESTART pending, the bytes each waits for sent and the store IDLE, the restart is a pin reset but for
its cause; otherwise the row changes nothing (log 1). -/
def Obligations.RestartWaitsAndBegins : Prop :=
  (∀ (s : State) (l : LinkId) (body : List Byte), PartFrame s l .restart body → body.drop 5 = [] →
     (s.store.saving ≠ none → exec (.restart l) s = .next (refused l .restart .busy s)) ∧
     (s.store.saving = none → exec (.restart l) s = .next ((answered l .restart .ok false [] s).modLink l fun k =>
       { k with restartAt := some { reply := k.replyBytes, ctrl := match k.restartAt with
         | none => 0
         | some m => m.ctrl } }))) ∧
  (∀ s : State,
     ((∃ l, (s.link l).restartAt ≠ none) → (∀ l m, (s.link l).restartAt = some m → m = ⟨0, 0⟩) →
       s.store.saving = none → exec .restartBegin s = exec .pinReset s) ∧
     ((∀ l, (s.link l).restartAt = none) ∨ (∃ l m, (s.link l).restartAt = some m ∧ m ≠ ⟨0, 0⟩) ∨
       s.store.saving ≠ none → exec .restartBegin s = .next s))

/-- REVOKE, R96, R100 and R101: the claim held with the key leaves the table, its origin's last-ended record is
written and the end is counted; NOT_FOUND when none is held; an origin above 11 is refused. RELEASE, R95: the claim
the link holds under the number ends RELEASED; NO_CLAIM when none is held. CANCEL_TIMED, R138: every entry with the
frame's link and tag leaves the queue and is counted, the rest keep their order, and the reply gives the number in one
byte (the model's choice, log 42); NOT_FOUND when there is none. -/
def Obligations.ClaimsAndEntriesAreWithdrawn : Prop :=
  (∀ (s : State) (l : LinkId) (body : List Byte) (o n : Byte), PartFrame s l .revoke body →
     body.drop 5 = [o, n] →
     (∀ (origin : Origin) (c : Claim), o = originCode origin →
       (s.claims.table.find? fun d => d.key == ⟨origin, n⟩) = some c →
       exec (.revoke l) s = .next { answered l .revoke .ok false [] s with
         claims := { s.claims with
           table := s.claims.table.filter fun d => d.key != ⟨origin, n⟩
           lastEnded := s.claims.lastEnded.set (originIndex origin)
             (some { number := n, cls := c.cls, reason := .revoked, count := s.tb.count, onAir := c.holdUsed })
           counters := { s.claims.counters with ended := s.claims.counters.ended.modify 5 satInc } } }) ∧
     (∀ origin : Origin, o = originCode origin → (∀ d, d ∈ s.claims.table → d.key ≠ ⟨origin, n⟩) →
       exec (.revoke l) s = .next (refused l .revoke .notFound s)) ∧
     (12 ≤ o.toNat → exec (.revoke l) s = .next (refused l .revoke .badParam s))) ∧
  (∀ (s : State) (l : LinkId) (body : List Byte) (m : Mask) (n : Byte), RoutedFrame s l .release body m →
     timedFlag body = false → body.drop 5 = [n] →
     (∀ c : Claim, (s.claims.table.find? fun d => d.key == ⟨.link l, n⟩) = some c →
       exec (.release l) s = .next { routed l .release body .ok false [] s with
         claims := { s.claims with
           table := s.claims.table.filter fun d => d.key != ⟨.link l, n⟩
           lastEnded := s.claims.lastEnded.set (originIndex (.link l))
             (some { number := n, cls := c.cls, reason := .released, count := s.tb.count, onAir := c.holdUsed })
           counters := { s.claims.counters with ended := s.claims.counters.ended.modify 0 satInc } } }) ∧
     ((∀ d, d ∈ s.claims.table → d.key ≠ ⟨.link l, n⟩) →
       exec (.release l) s = .next (routedRefused l .release body .noClaim s))) ∧
  (∀ (s : State) (l : LinkId) (body : List Byte) (tag : Byte), PartFrame s l .cancelTimed body →
     body.drop 5 = [tag] →
     (∀ n : Nat, (s.queue.entries.filter fun e => e.link == l && e.tag == tag).length = n → 0 < n →
       exec (.cancelTimed l) s = .next { answered l .cancelTimed .ok false [BitVec.ofNat 8 n] s with
         queue := { s.queue with
           entries := s.queue.entries.filter fun e => !(e.link == l && e.tag == tag)
           counters := { s.queue.counters with cancelled := satAdd s.queue.counters.cancelled n } } }) ∧
     ((∀ e, e ∈ s.queue.entries → ¬ (e.link = l ∧ e.tag = tag)) →
       exec (.cancelTimed l) s = .next (refused l .cancelTimed .notFound s)))

/-! ## The reading commands (R170 to R172, R177) -/

/-- STATUS, R170 and R177: the reply carries the 41 bytes, read as one act; nothing but the link changes. -/
def Obligations.StatusReportsThePart : Prop :=
  ∀ (s : State) (l : LinkId) (body : List Byte), PartFrame s l .status body → body.drop 5 = [] →
    ∃ d : List Byte, exec (.status l) s = .next (answered l .status .ok false d s) ∧ d.length = 41 ∧
      d.take 2 = [0x42, 0x16] ∧ byteAt d 2 = s.settings.mode.code ∧ byteAt d 3 = s.tb.lock.code ∧
      natAt d 4 3 = s.tb.count.toNat ∧ byteAt d 7 = boolByte s.tb.arm.isSome ∧
      natAt d 8 3 = (s.tb.arm.getD 0).toNat ∧ byteAt d 11 = s.store.faults.setWidth 8 ∧
      byteAt d 12 = boolByte s.store.saving.isSome ∧ byteAt d 13 = s.store.origin.code ∧
      (∀ p : OutId, byteAt d (14 + 6 * p.val) = boolByte (s.lane p).run ∧
        byteAt d (15 + 6 * p.val) = (s.out p).source.code ∧
        byteAt d (16 + 6 * p.val) = (s.lane p).seq.phase.code ∧
        ((s.lane p).seq.current = none → byteAt d (17 + 6 * p.val) = 0xFF ∧ byteAt d (18 + 6 * p.val) = 0) ∧
        (∀ r, (s.lane p).seq.current = some r →
          byteAt d (17 + 6 * p.val) = originCode r.key.origin ∧ byteAt d (18 + 6 * p.val) = r.key.number) ∧
        byteAt d (19 + 6 * p.val) = (s.out p).labelShown.code) ∧
      byteAt d 38 = BitVec.ofNat 8 s.claims.table.length ∧ byteAt d 39 = BitVec.ofNat 8 s.pool.records.length ∧
      byteAt d 40 = BitVec.ofNat 8 s.queue.entries.length

/-- READ_RECORD, R171 and R177, for every kind: the record of the index laid out byte by byte; a place that names no
record gives "empty"; an absent staged frequency list gives its present byte alone (the model's choice, log 43); an
undefined kind or an index beyond its range is refused. Claims are numbered in rank order. -/
def Obligations.ReadRecordReturnsOneRecord : Prop :=
  ∀ (s : State) (l : LinkId) (body : List Byte) (kind i : Byte) (t : List Byte → State),
    PartFrame s l .readRecord body →
    body.drop 5 = [kind, i] → (∀ d, t d = answered l .readRecord .ok false ([kind, i] ++ d) s) →
    (ranked s.claims.table).Perm s.claims.table ∧
    (ranked s.claims.table).Pairwise (fun c d => outranks d c = false) ∧
    (kind = 0 → i.toNat < 8 → s.claims.table.length ≤ i.toNat → exec (.readRecord l) s = .next (t [0])) ∧
    (∀ c : Claim, kind = 0 → i.toNat < 8 → (ranked s.claims.table)[i.toNat]? = some c →
      exec (.readRecord l) s = .next (t ([1, originCode c.key.origin, c.key.number, c.kind.code, c.cls.code,
        BitVec.ofNat 8 c.priority, c.group, c.target.setWidth 8] ++ bytesOf 3 c.holdLimit ++ bytesOf 3 c.waitLimit ++
        bytesOf 4 c.holdUsed.toNat ++ bytesOf 4 c.waitUsed.toNat ++ bytesOf 4 c.stamp.toNat ++
        [BitVec.ofNat 8 ((c.status.get 0).code + 4 * (c.status.get 1).code + 16 * (c.status.get 2).code +
          64 * (c.status.get 3).code)]))) ∧
    (∀ o : Fin 12, kind = 1 → i.toNat = o.val → s.claims.lastEnded.get o = none →
      exec (.readRecord l) s = .next (t [0])) ∧
    (∀ (o : Fin 12) (e : Ended), kind = 1 → i.toNat = o.val → s.claims.lastEnded.get o = some e →
      exec (.readRecord l) s = .next (t ([1, e.number, e.cls.code, e.reason.code] ++ bytesOf 3 e.count.toNat ++
        bytesOf 4 e.onAir.toNat))) ∧
    (kind = 2 → i.toNat < 32 → s.pool.records.length ≤ i.toNat → exec (.readRecord l) s = .next (t [0])) ∧
    (∀ r : PoolRecord, kind = 2 → i.toNat < 32 → s.pool.records[i.toNat]? = some r →
      exec (.readRecord l) s = .next (t ([1] ++ bytesOf 2 r.key.toNat ++ bytesOf 6 r.content.toNat ++
        [r.target.setWidth 8] ++ bytesOf 2 r.spacing ++ r.repeats.items.map (BitVec.ofNat 8) ++
        r.nextEligible.items.flatMap (fun c => bytesOf 3 c.toNat) ++ [i]))) ∧
    (kind = 3 → i.toNat < 32 → s.queue.entries.length ≤ i.toNat → exec (.readRecord l) s = .next (t [0])) ∧
    (∀ e : QueueEntry, kind = 3 → i.toNat < 32 → s.queue.entries[i.toNat]? = some e →
      exec (.readRecord l) s = .next (t ([1] ++ bytesOf 3 e.cell.toNat ++ [BitVec.ofNat 8 e.link.val, e.tag,
        e.cmd.cmd.code, e.target.setWidth 8, BitVec.ofNat 8 e.cmd.params.length] ++ e.cmd.params))) ∧
    (∀ c : LineId, kind = 4 → i.toNat = c.val → (s.cue c).capture = none →
      exec (.readRecord l) s = .next (t [0])) ∧
    (∀ (c : LineId) (r : Capture), kind = 4 → i.toNat = c.val → (s.cue c).capture = some r →
      exec (.readRecord l) s = .next (t ([1, boolByte r.active] ++ bytesOf 3 r.count.toNat ++
        [BitVec.ofNat 8 r.bit]))) ∧
    (∀ (p : OutId) (o : OutContent) (d : List Byte), kind = 5 → i.toNat = p.val → o = s.out p →
      (o.stagedFreqs = none → d = [0]) →
      (∀ codes, o.stagedFreqs = some codes →
        d = ([1, BitVec.ofNat 8 codes.length] : List Byte) ++ (codes.flatMap (bytesOf 2))) →
      exec (.readRecord l) s = .next (t ([1, o.source.code, o.requested.code, o.labelShown.code, o.textShown.code,
        BitVec.ofNat 8 o.labelPos, BitVec.ofNat 8 o.textPos, BitVec.ofNat 8 o.freqPos, BitVec.ofNat 8 o.nbSlot.val,
        boolByte o.nbSeg, o.textVersion, boolByte o.lv, BitVec.ofNat 8 o.freqs.length] ++
        o.freqs.flatMap (bytesOf 2) ++ d))) ∧
    (∀ (p : OutId) (regional : Bool) (v : VariantContent) (d e : List Byte), kind = 6 →
      i.toNat = 2 * p.val + regional.toNat → v = (if regional then (s.out p).varR else (s.out p).varN) →
      (v.staged = none → d = [0]) →
      (∀ b, v.staged = some b → d = [1, BitVec.ofNat 8 b.category, BitVec.ofNat 8 b.chars.length] ++ b.chars) →
      (v.stagedText = none → e = [0]) →
      (∀ chars, v.stagedText = some chars → e = [1, BitVec.ofNat 8 chars.length] ++ chars) →
      exec (.readRecord l) s = .next (t ([1] ++
        bytesOf 2 (if regional then (s.outCfg p).regId else (s.outCfg p).netId).toNat ++
        [BitVec.ofNat 8 v.label.category, BitVec.ofNat 8 v.label.chars.length] ++ v.label.chars ++ d ++
        [BitVec.ofNat 8 v.text.length] ++ v.text ++ e))) ∧
    (∀ slot : SlotId, kind = 7 → i.toNat = slot.val → s.content.neighbours.get slot = none →
      exec (.readRecord l) s = .next (t [0])) ∧
    (∀ (slot : SlotId) (r : Neighbour) (b : Byte), kind = 7 → i.toNat = slot.val →
      s.content.neighbours.get slot = some r → r.label.length ≤ 8 → (r.link = none → b = 0xFF) →
      (∀ p, r.link = some p → b = BitVec.ofNat 8 p.val) →
      exec (.readRecord l) s = .next (t ([1] ++ bytesOf 2 r.identity.toNat ++ [BitVec.ofNat 8 r.label.length] ++
        (r.label ++ List.replicate (8 - r.label.length) (0x20 : Byte)) ++ bytesOf 2 r.freq ++ [r.carriers.setWidth 8, b,
        r.ext.code]))) ∧
    (∀ k : LinkId, kind = 8 → i.toNat = k.val → s.queue.results.get k = none →
      exec (.readRecord l) s = .next (t [0])) ∧
    (∀ (k : LinkId) (r : TimedResult), kind = 8 → i.toNat = k.val → s.queue.results.get k = some r →
      exec (.readRecord l) s = .next (t ([1, r.tag, r.cmd.code, r.status.code] ++ bytesOf 3 r.count.toNat))) ∧
    (9 ≤ kind.toNat ∨ 32 ≤ i.toNat ∨ (kind.toNat ∈ [0, 4, 6, 7] ∧ 8 ≤ i.toNat) ∨
        (kind.toNat ∈ [5, 8] ∧ 4 ≤ i.toNat) ∨ (kind = 1 ∧ 12 ≤ i.toNat) →
      exec (.readRecord l) s = .next (refused l .readRecord .badParam s))

/-- READ_COUNTERS, R172 and R177, for every group: the reply carries group, index and every counter of the group as it
stood, the cue and link groups line by line and link by link (the model's choice, log 38); with the clear flag set those
counters return to 0 and nothing else changes; an undefined group or an index outside its range is refused. -/
def Obligations.ReadCountersReadsAndClears : Prop :=
  ∀ (s : State) (l : LinkId) (body : List Byte) (group i clear : Byte) (t : List Counter → State),
    PartFrame s l .readCounters body → body.drop 5 = [group, i, clear] →
    (∀ cs, t cs = answered l .readCounters .ok false ([group, i] ++ cs.flatMap fun c => bytesOf 4 c.toNat) s) →
    (∀ (p : OutId) (u : State), group = 0 → i.toNat = p.val →
      u = t [(s.lane p).asm.kinds.get 0, (s.lane p).asm.kinds.get 1, (s.lane p).asm.kinds.get 2,
        (s.lane p).asm.kinds.get 3, (s.lane p).asm.kinds.get 4, (s.lane p).asm.kinds.get 5,
        (s.lane p).asm.kinds.get 6, (s.lane p).asm.truncated] →
      exec (.readCounters l) s = .next (if clear = 0 then u else u.modLane p fun ln =>
        { ln with asm := { ln.asm with kinds := .replicate 7 0, truncated := 0 } })) ∧
    (∀ (p : OutId) (u : State) (k : ContentCounters), group = 1 → i.toNat = p.val → k = (s.out p).counters →
      u = t [k.labelCommits, k.textCommits, k.listCommits, k.superseded, k.sourceSwitches] →
      exec (.readCounters l) s = .next (if clear = 0 then u else u.modOut p fun o =>
        { o with counters := ⟨0, 0, 0, 0, 0⟩ })) ∧
    (∀ (p : OutId) (u : State) (k : Scheduler), group = 2 → i.toNat = p.val → k = (s.lane p).sched →
      u = t [k.late.get 0, k.late.get 1, k.late.get 2, k.late.get 3, k.late.get 4, k.late.get 5,
        BitVec.ofNat 32 (k.largest.get 0), BitVec.ofNat 32 (k.largest.get 1), BitVec.ofNat 32 (k.largest.get 2),
        BitVec.ofNat 32 (k.largest.get 3), BitVec.ofNat 32 (k.largest.get 4), BitVec.ofNat 32 (k.largest.get 5),
        k.begun, k.replaced, k.endedEarly] →
      exec (.readCounters l) s = .next (if clear = 0 then u else u.modLane p fun ln =>
        { ln with sched := { ln.sched with late := .replicate 6 0, largest := .replicate 6 0, begun := 0, replaced := 0,
                                           endedEarly := 0 } })) ∧
    (∀ (p : OutId) (u : State) (k : SeqCounters), group = 3 → i.toNat = p.val → k = (s.lane p).seq.counters →
      u = t [k.onsets, k.aborted, k.handovers, k.onAirEnds, k.resumptions, k.drops] →
      exec (.readCounters l) s = .next (if clear = 0 then u else u.modLane p fun ln =>
        { ln with seq := { ln.seq with counters := ⟨0, 0, 0, 0, 0, 0⟩ } })) ∧
    (∀ (u : State) (k : TimebaseCounters), group = 4 → i = 0 → k = s.tb.counters →
      u = t [k.acquisitions, k.holdoverEntries, k.holdoverExpiries, k.aligned, k.realignments, k.jumps] →
      exec (.readCounters l) s = .next (if clear = 0 then u else
        { u with tb := { u.tb with counters := ⟨0, 0, 0, 0, 0, 0⟩ } })) ∧
    (∀ (u : State) (k : PoolCounters), group = 5 → i = 0 → k = s.pool.counters →
      u = t [k.added, k.replaced, k.cancelled, k.refusedFull] →
      exec (.readCounters l) s = .next (if clear = 0 then u else
        { u with pool := { u.pool with counters := ⟨0, 0, 0, 0⟩ } })) ∧
    (∀ (u : State) (k : ClaimCounters), group = 6 → i = 0 → k = s.claims.counters →
      u = t [k.admitted, k.refusedFull, k.ended.get 0, k.ended.get 1, k.ended.get 2, k.ended.get 3, k.ended.get 4,
        k.ended.get 5] →
      exec (.readCounters l) s = .next (if clear = 0 then u else
        { u with claims := { u.claims with counters := ⟨0, 0, .replicate 6 0⟩ } })) ∧
    (∀ u : State, group = 7 → i = 0 →
      u = t (s.cues.items.flatMap fun c => [c.counters.accepted, c.counters.bounces, c.counters.admitted,
        c.counters.failures, c.counters.retriggers]) →
      exec (.readCounters l) s = .next (if clear = 0 then u else
        { u with cues := u.cues.map fun c => { c with counters := ⟨0, 0, 0, 0, 0⟩ } })) ∧
    (∀ (u : State) (k : QueueCounters), group = 8 → i = 0 → k = s.queue.counters →
      u = t [k.queued, k.lateAtArrival, k.refusedTooFar, k.refusedFull, k.applied, k.failed, k.appliedLate,
        k.discarded, k.cancelled] →
      exec (.readCounters l) s = .next (if clear = 0 then u else
        { u with queue := { u.queue with counters := ⟨0, 0, 0, 0, 0, 0, 0, 0, 0⟩ } })) ∧
    (∀ (u v : State) (cs : List Counter), group = 9 → i = 0 →
      cs = (s.links.items.flatMap fun k => [k.counters.good, k.counters.checkErrors, k.counters.overruns,
        k.counters.notForUs, k.counters.refusals, k.counters.dropped, k.counters.timedFailures]) ++
        s.router.matched.items ++ [s.router.defaultUses, s.router.discards] →
      u = t cs →
      v = { s with
        links := s.links.map fun k => { k with counters := ⟨0, 0, 0, 0, 0, 0, 0⟩ }
        router := ⟨.replicate 16 0, 0, 0⟩ } →
      exec (.readCounters l) s = .next (if clear = 0 then u else
        answered l .readCounters .ok false ([group, i] ++ cs.flatMap fun c => bytesOf 4 c.toNat) v)) ∧
    (10 ≤ group.toNat ∨ (group.toNat ≤ 3 ∧ 4 ≤ i.toNat) ∨ (4 ≤ group.toNat ∧ i ≠ 0) →
      exec (.readCounters l) s = .next (refused l .readCounters .badParam s))

/-! ## Refusals before the owner (R152) -/

/-- R152 steps 3, 4, 5 and 7 for every routed command, with the counters of the route (R155, R160). Each refusal is
counted; the reply is placed only where the frame is direct-matched: its address is that of an enabled slot and is not
0xFFFF (R153). R155 and R160: the first true entry in index order gives its mask and counts one match; with no true
entry the default mask is given and one default use counted; an empty mask counts one discard. An entry is true when it
is enabled and one of its enabled terms is true: a term without tests, one whose test passes, one whose two tests pass
as its combiner asks; the address test passes where the slot is enabled and holds the address, the group test where the
group set has the code. -/
def Obligations.RoutesAreTakenAndRefusedInOrder : Prop :=
  (∀ (s : State) (l : LinkId) (c : Cmd) (body : List Byte), c.isRouted = true → Front s l c body →
     let reply (st : Status) (t : State) : State := t.modLink l fun k =>
       replyIf (directMatch s.settings (targetAddress body)) (replyOf c st false [])
         (countRefusal (k.take (s.linkCfg l)))
     let counted : State := countRoute (targetAddress body) (regionGroup body) s
     let m : Mask := routeMask s.settings (targetAddress body) (regionGroup body)
     (timedFlag body = true → body.length < 9 → exec (c.row l) s = .next (reply .badParam s)) ∧
     ((timedFlag body = true → 9 ≤ body.length) →
       (m = 0 → exec (c.row l) s = .next (reply .noTarget counted)) ∧
       (m ≠ 0 → permitted s l c.cls = false → exec (c.row l) s = .next (reply .denied counted)) ∧
       (m ≠ 0 → permitted s l c.cls = true → (s.link l).tokens = 0 →
         exec (c.row l) s = .next (reply .budget counted)))) ∧
  (∀ (s : State) (a : Word) (g : Byte),
     let holds (i : Fin 16) : Prop := (s.settings.sites.get i).enable = true ∧ (s.settings.sites.get i).address = a
     let member (i : SetId) : Prop := (s.settings.groupSets.get i).getLsbD g.toNat = true
     let passes (t : RouteTerm) : Prop := match t.addressTest, t.groupTest, t.combiner with
       | none, none, _ => True
       | some i, none, _ => holds i
       | none, some j, _ => member j
       | some i, some j, .and => holds i ∧ member j
       | some i, some j, .or => holds i ∨ member j
     let isTrue (e : RouteEntry) : Prop :=
       e.enable = true ∧ ∃ j : Fin 4, (e.terms.get j).enable = true ∧ passes (e.terms.get j)
     (directMatch s.settings a = true ↔ a ≠ 0xFFFF ∧ ∃ i, holds i) ∧
     (∀ i : Fin 16, isTrue (s.settings.routes.get i) → (∀ j : Fin 16, j < i → ¬ isTrue (s.settings.routes.get j)) →
       routeMask s.settings a g = (s.settings.routes.get i).dest ∧
       (countRoute a g s).router.matched = s.router.matched.modify i satInc ∧
       (countRoute a g s).router.defaultUses = s.router.defaultUses) ∧
     ((∀ i : Fin 16, ¬ isTrue (s.settings.routes.get i)) →
       routeMask s.settings a g = s.settings.defaultMask ∧
       (countRoute a g s).router.matched = s.router.matched ∧
       (countRoute a g s).router.defaultUses = satInc s.router.defaultUses) ∧
     (countRoute a g s).router.discards =
       (if routeMask s.settings a g = 0 then satInc s.router.discards else s.router.discards) ∧
     countRoute a g s = { s with router := (countRoute a g s).router })

/-- UNKNOWN_COMMAND, R152 step 1: a code that names no command is refused where the frame is direct-matched, its reply
carrying the code plus 0x80 (R175), and dropped as not-for-us where it is not. R152 steps 2, 3, 5 and 6 for every part
command: not direct-matched, dropped and counted as not-for-us; a timed header cut short, BAD_PARAM; a class the link
lacks, DENIED; a whole timed header, NOT_TIMEABLE. R157 and R176: the code and the class of every command, and the
permission bit each class needs, for part commands and routed ones alike; a command of no class is always allowed. -/
def Obligations.PartCommandsAreRefusedBeforeTheOwner : Prop :=
  (∀ (c : Cmd) (code : Byte) (cls : Option CmdClass),
     (c, code, cls) ∈ [(.status, 0x01, none), (.readRecord, 0x02, none), (.readCounters, 0x03, none),
       (.clearFaults, 0x04, some .settings), (.setSite, 0x10, some .settings), (.setGroupset, 0x11, some .settings),
       (.setRoute, 0x12, some .settings), (.setDefaultRoute, 0x13, some .settings),
       (.setOutput, 0x14, some .settings), (.setCue, 0x15, some .settings), (.setLink, 0x16, some .settings),
       (.setTiming, 0x17, some .settings), (.setMonitor, 0x18, some .settings), (.setAlert, 0x19, some .settings),
       (.storeSave, 0x1A, some .settings), (.reload, 0x1B, some .settings), (.restart, 0x1C, some .settings),
       (.revoke, 0x1D, some .settings), (.setEpoch, 0x1E, some .timing), (.cancelTimed, 0x1F, none),
       (.label, 0x20, some .content), (.text, 0x21, some .content), (.freqlist, 0x22, some .content),
       (.neighbour, 0x23, some .content), (.neighbourFlags, 0x24, some .content),
       (.optoutBegin, 0x25, some .content), (.optoutEnd, 0x26, some .content), (.setInterval, 0x27, some .content),
       (.claim, 0x30, some .announce), (.release, 0x31, some .announce), (.tmsgAdd, 0x38, some .traffic),
       (.tmsgCancel, 0x39, some .traffic)] → c.code = code ∧ c.cls = cls) ∧
  (∀ (s : State) (l : LinkId), permitted s l none = true ∧
     permitted s l (some .content) = (s.linkCfg l).perms.getLsbD 0 ∧
     permitted s l (some .announce) = (s.linkCfg l).perms.getLsbD 1 ∧
     permitted s l (some .traffic) = (s.linkCfg l).perms.getLsbD 2 ∧
     permitted s l (some .timing) = (s.linkCfg l).perms.getLsbD 3 ∧
     permitted s l (some .settings) = (s.linkCfg l).perms.getLsbD 4) ∧
  (∀ (s : State) (l : LinkId) (body : List Byte), (s.link l).waiting.head? = some body →
     (∀ c : Cmd, byteAt body 0 ≠ c.code) →
     (directMatch s.settings (targetAddress body) = true →
       exec (.unknownCommand l) s = .next (s.modLink l fun k =>
         (countRefusal (k.take (s.linkCfg l))).placeReply [byteAt body 0 + 0x80, 0x10, 0])) ∧
     (directMatch s.settings (targetAddress body) = false →
       exec (.unknownCommand l) s = .next (s.modLink l fun k => countNotForUs (k.take (s.linkCfg l))))) ∧
  (∀ (s : State) (l : LinkId) (c : Cmd) (body : List Byte), c.isRouted = false → Front s l c body →
     (directMatch s.settings (targetAddress body) = false → exec (c.row l) s = .next (s.modLink l fun k =>
       countNotForUs (k.take (s.linkCfg l)))) ∧
     (directMatch s.settings (targetAddress body) = true →
       (timedFlag body = true → body.length < 9 → exec (c.row l) s = .next (refused l c .badParam s)) ∧
       ((timedFlag body = true → 9 ≤ body.length) → permitted s l c.cls = false →
         exec (c.row l) s = .next (refused l c .denied s)) ∧
       (timedFlag body = true → 9 ≤ body.length → permitted s l c.cls = true →
         exec (c.row l) s = .next (refused l c .notTimeable s))))

/-- R176: a parameter count that differs from the command's layout is refused with BAD_PARAM before anything else its
owner tests, for every part command and every routed command; a timed one is refused so at its arrival (R131). -/
def Obligations.WrongLengthsAreRefused : Prop :=
  (∀ (s : State) (l : LinkId) (c : Cmd) (body : List Byte) (n : Nat), PartFrame s l c body →
     (c, n) ∈ [(.status, 0), (.readRecord, 2), (.readCounters, 3), (.clearFaults, 0), (.setSite, 4),
       (.setGroupset, 2 + 2 * (byteAt body 6).toNat), (.setRoute, 15), (.setDefaultRoute, 1), (.setOutput, 11),
       (.setCue, 15), (.setLink, 10), (.setTiming, 1), (.setMonitor, 1), (.setAlert, 1), (.storeSave, 0), (.reload, 0),
       (.restart, 0), (.revoke, 2), (.setEpoch, 3), (.cancelTimed, 1)] →
     (body.drop 5).length ≠ n → exec (c.row l) s = .next (refused l c .badParam s)) ∧
  (∀ (s : State) (l : LinkId) (c : Cmd) (body : List Byte) (m : Mask) (n : Nat), RoutedFrame s l c body m →
     timedFlag body = false →
     (c, n) ∈ [(.label, 3 + (byteAt body 7).toNat), (.text, 2 + (byteAt body 6).toNat),
       (.freqlist, 1 + 2 * (byteAt body 5).toNat), (.neighbour, 8 + (byteAt body 12).toNat), (.neighbourFlags, 2),
       (.optoutBegin, 0), (.optoutEnd, 0), (.setInterval, 3), (.claim, 10), (.release, 1), (.tmsgAdd, 11),
       (.tmsgCancel, 2)] →
     (body.drop 5).length ≠ n → exec (c.row l) s = .next (routedRefused l c body .badParam s)) ∧
  (∀ (s : State) (l : LinkId) (c : Cmd) (body : List Byte) (m : Mask) (n : Nat), RoutedFrame s l c body m →
     timedFlag body = true →
     (c, n) ∈ [(.label, 3 + (byteAt body 11).toNat), (.text, 2 + (byteAt body 10).toNat),
       (.freqlist, 1 + 2 * (byteAt body 9).toNat), (.neighbour, 8 + (byteAt body 16).toNat), (.neighbourFlags, 2),
       (.optoutBegin, 0), (.optoutEnd, 0), (.setInterval, 3), (.claim, 10), (.release, 1), (.tmsgAdd, 11),
       (.tmsgCancel, 2)] →
     (body.drop 9).length ≠ n → exec (c.row l) s = .next (routedRefused l c body .badParam s))

/-! ## Routed commands, untimed (R36 to R51, R68, R73 to R76, R89 to R95) -/

/-- LABEL and TEXT, R38 to R40: the staged copy of the variant is written on every target output, the string cleaned
before it is cut: a byte outside 0x20 to 0x7E is replaced by the space; replaced bytes and cuts set the adjusted flag.
Nothing else of the content changes but, where a staged copy stood, the superseded counter, by 1 (R48). A label without
characters, or a variant code above 1, is refused. FREQLIST, R41: the codes outside 1 to 880 are dropped, then each
code equal to an earlier one that is left, then all past the first 24; the adjusted flag says that the list changed;
the list is staged on every target output. -/
def Obligations.VariantsAndListsAreStaged : Prop :=
  ((∀ (s : State) (l : LinkId) (body : List Byte) (m : Mask) (vb category n : Byte) (chars clean : List Byte),
     RoutedFrame s l .label body m → timedFlag body = false → body.drop 5 = vb :: category :: n :: chars →
     chars.length = n.toNat →
     clean = (chars.map fun b => if 0x20 ≤ b.toNat ∧ b.toNat ≤ 0x7E then b else 0x20) →
     (∀ v : Variant, vb = v.code → n ≠ 0 → exec (.label l) s = .next { routed l .label body .ok
         (decide (clean ≠ chars) || decide (18 < n.toNat) || decide (31 < category.toNat)) [] s with
       content := { s.content with
         outs := .tabulate fun p =>
           let o : OutContent := s.out p
           let label : Label := { chars := clean.take 18, category := min category.toNat 31 }
           let count (staged : Option Label) : ContentCounters :=
             { o.counters with
               superseded := if staged = none then o.counters.superseded else satInc o.counters.superseded }
           if m.getLsbD p.val then
             match v with
             | .n => { o with varN := { o.varN with staged := some label }, counters := count o.varN.staged }
             | .r => { o with varR := { o.varR with staged := some label }, counters := count o.varR.staged }
           else o } }) ∧
     (n = 0 ∨ 1 < vb.toNat → exec (.label l) s = .next (routedRefused l .label body .badParam s))) ∧
   (∀ (s : State) (l : LinkId) (body : List Byte) (m : Mask) (vb n : Byte) (chars clean : List Byte),
     RoutedFrame s l .text body m → timedFlag body = false → body.drop 5 = vb :: n :: chars →
     chars.length = n.toNat →
     clean = (chars.map fun b => if 0x20 ≤ b.toNat ∧ b.toNat ≤ 0x7E then b else 0x20) →
     (∀ v : Variant, vb = v.code → exec (.text l) s = .next { routed l .text body .ok
         (decide (clean ≠ chars) || decide (60 < n.toNat)) [] s with
       content := { s.content with
         outs := .tabulate fun p =>
           let o : OutContent := s.out p
           let text : List Byte := clean.take 60
           let count (staged : Option (List Byte)) : ContentCounters :=
             { o.counters with
               superseded := if staged = none then o.counters.superseded else satInc o.counters.superseded }
           if m.getLsbD p.val then
             match v with
             | .n => { o with varN := { o.varN with stagedText := some text }, counters := count o.varN.stagedText }
             | .r => { o with varR := { o.varR with stagedText := some text }, counters := count o.varR.stagedText }
           else o } }) ∧
     (1 < vb.toNat → exec (.text l) s = .next (routedRefused l .text body .badParam s)))) ∧
  (∀ (s : State) (l : LinkId) (body : List Byte) (m : Mask) (k : Byte) (codes : List Nat),
     RoutedFrame s l .freqlist body m → timedFlag body = false →
     body.drop 5 = k :: codes.flatMap (bytesOf 2) → codes.length = k.toNat → (∀ c, c ∈ codes → c < 65536) →
     ∃ list : List Nat, exec (.freqlist l) s = .next { routed l .freqlist body .ok (list != codes) [] s with
         content := { s.content with
           outs := .tabulate fun p =>
             let o : OutContent := s.out p
             if m.getLsbD p.val then
               { o with
                 stagedFreqs := some list
                 counters := { o.counters with
                   superseded := if o.stagedFreqs = none then o.counters.superseded
                     else satInc o.counters.superseded } }
             else o } } ∧
       list = ((codes.filter fun c => decide (1 ≤ c ∧ c ≤ 880)).eraseDups).take 24)

/-- NEIGHBOUR and NEIGHBOUR_FLAGS, R38 and R49 to R51: the record is written at once whatever the route mask, or the
slot is freed where the carrier mask is empty; a byte of the label outside 0x20 to 0x7E is replaced by the space; the
external flags are kept only where the slot was used with no link and the new link is none; NEIGHBOUR_FLAGS writes
them where the slot is used with no link. A slot above 7, a link that is no output, or an identity of 0 with carriers
is refused. -/
def Obligations.NeighbourWritesTheRecord : Prop :=
  (∀ (s : State) (l : LinkId) (body : List Byte) (m : Mask) (i i1 i0 f1 f0 carriers k n : Byte)
      (chars clean : List Byte) (slot : SlotId) (link : Option OutId),
    RoutedFrame s l .neighbour body m → timedFlag body = false →
    body.drop 5 = i :: i1 :: i0 :: f1 :: f0 :: carriers :: k :: n :: chars → chars.length = n.toNat →
    clean = (chars.map fun b => if 0x20 ≤ b.toNat ∧ b.toNat ≤ 0x7E then b else 0x20) →
    i.toNat = slot.val → (k = 0xFF ∧ link = none ∨ ∃ q : OutId, k.toNat = q.val ∧ link = some q) →
    (carriers.setWidth 4 = (0 : Mask) → exec (.neighbour l) s = .next { routed l .neighbour body .ok
        (decide (clean ≠ chars) || decide (8 < n.toNat) || decide (880 < natOf [f1, f0])) [] s with
      content := { s.content with neighbours := s.content.neighbours.set slot none } }) ∧
    (carriers.setWidth 4 ≠ (0 : Mask) → natOf [i1, i0] ≠ 0 → exec (.neighbour l) s = .next
      { routed l .neighbour body .ok
        (decide (clean ≠ chars) || decide (8 < n.toNat) || decide (880 < natOf [f1, f0])) [] s with
      content := { s.content with
        neighbours := s.content.neighbours.set slot (some
          { identity := BitVec.ofNat 16 (natOf [i1, i0]), label := clean.take 8
            freq := if 880 < natOf [f1, f0] then 0 else natOf [f1, f0], carriers := carriers.setWidth 4
            link := link
            ext := match s.content.neighbours.get slot with
              | some r => if r.link = none ∧ link = none then r.ext else ⟨false, false, false⟩
              | none => ⟨false, false, false⟩ }) } }) ∧
    (carriers.setWidth 4 ≠ (0 : Mask) → natOf [i1, i0] = 0 →
      exec (.neighbour l) s = .next (routedRefused l .neighbour body .badParam s))) ∧
  (∀ (s : State) (l : LinkId) (body : List Byte) (m : Mask) (i flags : Byte) (slot : SlotId),
    RoutedFrame s l .neighbourFlags body m → timedFlag body = false → body.drop 5 = [i, flags] →
    i.toNat = slot.val →
    (∀ r, s.content.neighbours.get slot = some r → r.link = none →
      exec (.neighbourFlags l) s = .next { routed l .neighbourFlags body .ok false [] s with
        content := { s.content with
          neighbours := s.content.neighbours.set slot (some { r with
            ext := { tc := flags.getLsbD 0, an := flags.getLsbD 1, rg := flags.getLsbD 2 } }) } }) ∧
    ((s.content.neighbours.get slot).all (fun r => r.link.isSome) = true →
      exec (.neighbourFlags l) s = .next (routedRefused l .neighbourFlags body .badParam s))) ∧
  (∀ (s : State) (l : LinkId) (body : List Byte) (m : Mask) (i i1 i0 f1 f0 carriers k n : Byte) (chars : List Byte),
    RoutedFrame s l .neighbour body m → timedFlag body = false →
    body.drop 5 = i :: i1 :: i0 :: f1 :: f0 :: carriers :: k :: n :: chars → chars.length = n.toNat →
    (8 ≤ i.toNat ∨ (4 ≤ k.toNat ∧ k ≠ 0xFF)) →
    exec (.neighbour l) s = .next (routedRefused l .neighbour body .badParam s)) ∧
  (∀ (s : State) (l : LinkId) (body : List Byte) (m : Mask) (i flags : Byte),
    RoutedFrame s l .neighbourFlags body m → timedFlag body = false → body.drop 5 = [i, flags] → 8 ≤ i.toNat →
    exec (.neighbourFlags l) s = .next (routedRefused l .neighbourFlags body .badParam s))

/-- OPTOUT_BEGIN and OPTOUT_END, R37: the requested source of every target output is set; OPTOUT_BEGIN is refused
whole with NO_VARIANT where a target output's regional identity is unset. SET_INTERVAL, R68: the interval of the
service on every target output, at most 1023; a service code above 5 is refused. -/
def Obligations.OptoutAndSetIntervalAct : Prop :=
  ((∀ (s : State) (l : LinkId) (body : List Byte) (m : Mask), RoutedFrame s l .optoutBegin body m →
     timedFlag body = false → body.drop 5 = [] →
     ((∀ p : OutId, inMask m p = true → (s.outCfg p).regId ≠ 0) →
       exec (.optoutBegin l) s = .next { routed l .optoutBegin body .ok false [] s with
         content := { s.content with
           outs := .tabulate fun p => if inMask m p then { s.out p with requested := .regional } else s.out p } }) ∧
     ((∃ p : OutId, inMask m p = true ∧ (s.outCfg p).regId = 0) →
       exec (.optoutBegin l) s = .next (routedRefused l .optoutBegin body .noVariant s))) ∧
   (∀ (s : State) (l : LinkId) (body : List Byte) (m : Mask), RoutedFrame s l .optoutEnd body m →
     timedFlag body = false → body.drop 5 = [] →
     exec (.optoutEnd l) s = .next { routed l .optoutEnd body .ok false [] s with
       content := { s.content with
         outs := .tabulate fun p => if inMask m p then { s.out p with requested := .network } else s.out p } })) ∧
  (∀ (s : State) (l : LinkId) (body : List Byte) (m : Mask) (c v1 v0 : Byte),
     RoutedFrame s l .setInterval body m → timedFlag body = false → body.drop 5 = [c, v1, v0] →
     (∀ i : Fin 6, c.toNat = i.val → exec (.setInterval l) s = .next
       { routed l .setInterval body .ok (decide (1023 < natOf [v1, v0])) [] s with
         settings := { s.settings with
           outputs := .tabulate fun p =>
             if inMask m p then
               { s.outCfg p with intervals := (s.outCfg p).intervals.set i (min (natOf [v1, v0]) 1023) }
             else s.outCfg p } }) ∧
     (6 ≤ c.toNat → exec (.setInterval l) s = .next (routedRefused l .setInterval body .badParam s)))

/-- CLAIM, R89 to R92 and R94: with a place free the claim enters with the next stamp, statuses NOT_TARGET or
INELIGIBLE and times 0; a key already held is refused with DUPLICATE; an undefined class or a priority above 7 is
refused. R92: in a full table the lowest-ranked claim that is current nowhere ends DISPLACED, with its last-ended
record, where the newcomer's priority is higher; the newcomer takes its place and the reply data names the key. R86:
with the stamp counter at its end the claims held, without one displaced, are first renumbered from 0 in the order of
their stamps, and a sequencer goes on naming its claim (log 13). -/
def Obligations.ClaimEntersOrDisplaces : Prop :=
  (∀ (s : State) (l : LinkId) (body : List Byte) (m : Mask) (n cls prio group h2 h1 h0 w2 w1 w0 : Byte)
       (cl : ClaimClass),
     RoutedFrame s l .claim body m → timedFlag body = false →
     body.drop 5 = [n, cls, prio, group, h2, h1, h0, w2, w1, w0] → cls = cl.code → prio.toNat ≤ 7 →
     ((∀ d, d ∈ s.claims.table → d.key ≠ ⟨.link l, n⟩) → s.claims.table.length < 8 →
       s.claims.nextStamp ≠ BitVec.allOnes 32 →
       exec (.claim l) s = .next { routed l .claim body .ok
           (decide (72000 < natOf [h2, h1, h0]) || decide (72000 < natOf [w2, w1, w0]))
           (bytesOf 4 s.claims.nextStamp.toNat ++ [0xFF, 0]) s with
         claims := { s.claims with
           table := s.claims.table ++ [{
             key := ⟨.link l, n⟩, kind := .link, cls := cl, priority := prio.toNat, group := group, target := m
             holdLimit := min (natOf [h2, h1, h0]) 72000, waitLimit := min (natOf [w2, w1, w0]) 72000
             holdUsed := 0, waitUsed := 0, stamp := s.claims.nextStamp
             status := .tabulate fun p => if inMask m p then .ineligible else .notTarget }]
           nextStamp := s.claims.nextStamp + 1
           counters := { s.claims.counters with admitted := satInc s.claims.counters.admitted } } }) ∧
     ((∃ d, d ∈ s.claims.table ∧ d.key = ⟨.link l, n⟩) →
       exec (.claim l) s = .next (routedRefused l .claim body .duplicate s)) ∧
     ((∀ d, d ∈ s.claims.table → d.key ≠ ⟨.link l, n⟩) → s.claims.table.length = 8 →
       (∀ d, d ∈ s.claims.table → d.currentNowhere = true → prio.toNat ≤ d.priority) →
       exec (.claim l) s = .next { routedRefused l .claim body .tableFull s with
         claims := { s.claims with
           counters := { s.claims.counters with refusedFull := satInc s.claims.counters.refusedFull } } })) ∧
  (∀ (s : State) (l : LinkId) (body : List Byte) (m : Mask) (n cls prio group h2 h1 h0 w2 w1 w0 : Byte)
       (cl : ClaimClass) (d : Claim),
     RoutedFrame s l .claim body m → timedFlag body = false →
     body.drop 5 = [n, cls, prio, group, h2, h1, h0, w2, w1, w0] → cls = cl.code → prio.toNat ≤ 7 →
     (∀ e, e ∈ s.claims.table → e.key ≠ ⟨.link l, n⟩) → s.claims.table.length = 8 →
     s.claims.nextStamp ≠ BitVec.allOnes 32 →
     d ∈ s.claims.table → d.currentNowhere = true → d.priority < prio.toNat →
     (∀ e, e ∈ s.claims.table → e.currentNowhere = true → e ≠ d → outranks e d = true ∧ outranks d e = false) →
     exec (.claim l) s = .next { routed l .claim body .ok
         (decide (72000 < natOf [h2, h1, h0]) || decide (72000 < natOf [w2, w1, w0]))
         (bytesOf 4 s.claims.nextStamp.toNat ++ [originCode d.key.origin, d.key.number]) s with
       claims := {
         table := (s.claims.table.filter fun e => e.key != d.key) ++ [{
           key := ⟨.link l, n⟩, kind := .link, cls := cl, priority := prio.toNat, group := group, target := m
           holdLimit := min (natOf [h2, h1, h0]) 72000, waitLimit := min (natOf [w2, w1, w0]) 72000
           holdUsed := 0, waitUsed := 0, stamp := s.claims.nextStamp
           status := .tabulate fun p => if inMask m p then .ineligible else .notTarget }]
         nextStamp := s.claims.nextStamp + 1
         lastEnded := s.claims.lastEnded.set (originIndex d.key.origin)
           (some { number := d.key.number, cls := d.cls, reason := .displaced, count := s.tb.count
                   onAir := d.holdUsed })
         counters := { s.claims.counters with
           admitted := satInc s.claims.counters.admitted
           ended := s.claims.counters.ended.modify 4 satInc } } }) ∧
  (∀ (s : State) (l : LinkId) (body : List Byte) (m : Mask) (n cls prio group h2 h1 h0 w2 w1 w0 : Byte),
     RoutedFrame s l .claim body m → timedFlag body = false →
     body.drop 5 = [n, cls, prio, group, h2, h1, h0, w2, w1, w0] →
     (cls.toNat = 0 ∨ 4 < cls.toNat ∨ 7 < prio.toNat →
       exec (.claim l) s = .next (routedRefused l .claim body .badParam s)) ∧
     (∀ (held : List Claim) (data : List Byte) (place : Counter → Counter),
       1 ≤ cls.toNat → cls.toNat ≤ 4 → prio.toNat ≤ 7 → (∀ d, d ∈ s.claims.table → d.key ≠ ⟨.link l, n⟩) →
       s.claims.nextStamp = BitVec.allOnes 32 →
       (s.claims.table.length < 8 ∧ held = s.claims.table ∧ data = [0xFF, 0] ∨
         s.claims.table.length = 8 ∧ ∃ d, d ∈ s.claims.table ∧ d.currentNowhere = true ∧ d.priority < prio.toNat ∧
           (∀ e, e ∈ s.claims.table → e.currentNowhere = true → e ≠ d → outranks e d = true ∧ outranks d e = false) ∧
           held = (s.claims.table.filter fun e => e.key != d.key) ∧ data = [originCode d.key.origin, d.key.number]) →
       (∀ st, place st = BitVec.ofNat 32 (held.countP fun e => decide (e.stamp.toNat < st.toNat))) →
       ∃ (t : State) (c : Claim), exec (.claim l) s = .next t ∧ c.key = ⟨.link l, n⟩ ∧
         c.stamp = BitVec.ofNat 32 held.length ∧ t.claims.nextStamp = BitVec.ofNat 32 held.length + 1 ∧
         t.claims.table = (held.map fun d => { d with stamp := place d.stamp }) ++ [c] ∧
         t.links = (routed l .claim body .ok
           (decide (72000 < natOf [h2, h1, h0]) || decide (72000 < natOf [w2, w1, w0]))
           (bytesOf 4 held.length ++ data) s).links ∧
         ∀ p d, d ∈ held → (s.lane p).seq.current = some ⟨d.key, d.stamp⟩ →
           (t.lane p).seq.current = some ⟨d.key, place d.stamp⟩))

/-- TMSG_ADD, R73 to R75: a key in the pool is replaced in its place, another enters at the end, a full pool refuses;
repeats and spacing are clamped with the adjusted flag; a key or repeats of 0 is refused; the reply gives outcome and
position in a byte each (the model's choice, log 42). TMSG_CANCEL, R76: the record
leaves the pool; NOT_FOUND when no record has the key; a key of 0 is refused. -/
def Obligations.TmsgAddAndTmsgCancelActOnThePool : Prop :=
  (∀ (s : State) (l : LinkId) (body : List Byte) (m : Mask) (k1 k0 c5 c4 c3 c2 c1 c0 reps s1 s0 : Byte),
     RoutedFrame s l .tmsgAdd body m → timedFlag body = false →
     body.drop 5 = [k1, k0, c5, c4, c3, c2, c1, c0, reps, s1, s0] →
     (natOf [k1, k0] = 0 ∨ reps = 0 → exec (.tmsgAdd l) s = .next (routedRefused l .tmsgAdd body .badParam s)) ∧
     (∀ (r : PoolRecord) (adj : Bool), natOf [k1, k0] ≠ 0 → reps ≠ 0 →
       r.key = BitVec.ofNat 16 (natOf [k1, k0]) → r.content = BitVec.ofNat 48 (natOf [c5, c4, c3, c2, c1, c0]) →
       r.target = m → r.spacing = max 1 (min (natOf [s1, s0]) 1200) →
       r.repeats = .tabulate (fun p => if inMask m p then min reps.toNat 8 else 0) →
       r.nextEligible = .replicate 4 s.tb.count →
       adj = (decide (8 < reps.toNat) || decide (natOf [s1, s0] = 0) || decide (1200 < natOf [s1, s0])) →
       ((∀ q, q ∈ s.pool.records → q.key ≠ r.key) → s.pool.records.length < 32 →
         exec (.tmsgAdd l) s = .next
           { routed l .tmsgAdd body .ok adj [0, BitVec.ofNat 8 s.pool.records.length] s with
             pool := { records := s.pool.records ++ [r]
                       counters := { s.pool.counters with added := satInc s.pool.counters.added } } }) ∧
       ((∀ q, q ∈ s.pool.records → q.key ≠ r.key) → 32 ≤ s.pool.records.length →
         exec (.tmsgAdd l) s = .next { routedRefused l .tmsgAdd body .poolFull s with
           pool := { s.pool with
             counters := { s.pool.counters with refusedFull := satInc s.pool.counters.refusedFull } } }) ∧
       (∀ i : Nat, (s.pool.records.findIdx fun q => q.key == r.key) = i → i < s.pool.records.length →
         exec (.tmsgAdd l) s = .next { routed l .tmsgAdd body .ok adj [1, BitVec.ofNat 8 i] s with
           pool := { records := s.pool.records.set i r
                     counters := { s.pool.counters with replaced := satInc s.pool.counters.replaced } } }))) ∧
  (∀ (s : State) (l : LinkId) (body : List Byte) (m : Mask) (k1 k0 : Byte) (key : Word),
     RoutedFrame s l .tmsgCancel body m → timedFlag body = false → body.drop 5 = [k1, k0] →
     key = BitVec.ofNat 16 (natOf [k1, k0]) →
     (key = 0 → exec (.tmsgCancel l) s = .next (routedRefused l .tmsgCancel body .badParam s)) ∧
     (key ≠ 0 → (∀ q, q ∈ s.pool.records → q.key ≠ key) →
       exec (.tmsgCancel l) s = .next (routedRefused l .tmsgCancel body .notFound s)) ∧
     (∀ i : Nat, key ≠ 0 → (s.pool.records.findIdx fun q => q.key == key) = i → i < s.pool.records.length →
       exec (.tmsgCancel l) s = .next { routed l .tmsgCancel body .ok false [] s with
         pool := { records := s.pool.records.eraseIdx i
                   counters := { s.pool.counters with cancelled := satInc s.pool.counters.cancelled } } }))

/-! ## Timed commands (R130 to R137) -/

/-- R132 and R133 for every routed command whose frame is timed and whose values pass the owner's checks: by the
distance from the current count the command is queued, refused TOO_FAR, refused QUEUE_FULL, or queued for the next cell
as LATE_APPLIED. A token is spent in every case. R131: a value of the command that its owner refuses is refused with
BAD_PARAM at arrival, and nothing is queued. -/
def Obligations.TimedCommandsAreClassified : Prop :=
  (∀ (s : State) (l : LinkId) (c : Cmd) (body : List Byte) (m : Mask) (cell : Count) (x : TimedCmd) (adj : Bool),
    c.isRouted = true → RoutedFrame s l c body m → timedFlag body = true →
    cell = BitVec.ofNat 24 (natAt body 5 3) → c.ownerCheck (body.drop 9) = .ok (x, adj) →
    let d := (cell - s.tb.count).toNat
    let entry (at_ : Count) : QueueEntry := { cell := at_, link := l, tag := byteAt body 8, cmd := x, target := m }
    let count (f : QueueCounters → QueueCounters) (t : State) : State :=
      { t with queue := { t.queue with counters := f t.queue.counters } }
    (36000 < d → d ≤ 8388607 → exec (c.row l) s = .next
      (count (fun k => { k with refusedTooFar := satInc k.refusedTooFar }) (routedRefused l c body .tooFar s))) ∧
    (¬ (36000 < d ∧ d ≤ 8388607) → 32 ≤ s.queue.entries.length → exec (c.row l) s = .next
      (count (fun k => { k with refusedFull := satInc k.refusedFull }) (routedRefused l c body .queueFull s))) ∧
    (s.queue.entries.length < 32 → 1 ≤ d → d ≤ 36000 → exec (c.row l) s = .next
      (count (fun k => { k with queued := satInc k.queued })
        ((routed l c body .queued adj (bytesOf 3 cell.toNat) s).setEntries
          (insertEntry s.tb.count (entry cell) s.queue.entries)))) ∧
    (s.queue.entries.length < 32 → d = 0 ∨ 8388608 ≤ d → exec (c.row l) s = .next
      (count (fun k => { k with lateAtArrival := satInc k.lateAtArrival })
        ((routed l c body .lateApplied adj (bytesOf 3 (s.tb.count + 1).toNat) s).setEntries
          (insertEntry s.tb.count (entry (s.tb.count + 1)) s.queue.entries))))) ∧
  (∀ (s : State) (l : LinkId) (c : Cmd) (body ps : List Byte) (m : Mask), RoutedFrame s l c body m →
    timedFlag body = true → ps = body.drop 9 →
    (c = .label ∧ (1 < (byteAt ps 0).toNat ∨ byteAt ps 2 = 0) ∨
      c = .text ∧ 1 < (byteAt ps 0).toNat ∨
      c = .neighbour ∧ (7 < (byteAt ps 0).toNat ∨ 4 ≤ (byteAt ps 6).toNat ∧ byteAt ps 6 ≠ 0xFF ∨
        natAt ps 1 2 = 0 ∧ (byteAt ps 5).setWidth 4 ≠ (0 : Mask)) ∨
      c = .neighbourFlags ∧ 7 < (byteAt ps 0).toNat ∨
      c = .setInterval ∧ 5 < (byteAt ps 0).toNat ∨
      c = .claim ∧ (byteAt ps 1 = 0 ∨ 4 < (byteAt ps 1).toNat ∨ 7 < (byteAt ps 2).toNat) ∨
      c = .tmsgAdd ∧ (natAt ps 0 2 = 0 ∨ byteAt ps 8 = 0) ∨
      c = .tmsgCancel ∧ natAt ps 0 2 = 0) →
    exec (c.row l) s = .next (routedRefused l c body .badParam s))

/-- R131, R133 and R176: the parameter bytes of a queue entry, read as a command's parameters, are that command again
with every value kept and none adjusted. -/
def Obligations.EntryParametersReadBack : Prop :=
  ∀ c : TimedCmd, c.proper → c.cmd.ownerCheck c.params = .ok (c, false)

/-- R133: a new entry takes its place after every entry whose distance is the same or nearer and before every one that
is farther; the others keep their order. R135: a boundary
without a jump takes exactly the entries whose cell is the count of the cell that begins, applies them in queue order,
and keeps the rest; at a jump (R139, R140), decided by a strobe or in MASTER by the arm (R32), those passed over are
applied late ahead of them, or all are discarded. R136, R137 and
R141: an entry that is applied is handed to its owner with
its target mask and origin link; its result is recorded with the count of the cell, applied counts, a refusal counts
failed and one timed failure on the link, and nothing else changes. -/
def Obligations.EntriesAreQueuedAndApplied : Prop :=
  (∀ (n : Count) (e : QueueEntry) (es : List QueueEntry),
     es.Pairwise (fun a b => (a.cell - n).toNat ≤ (b.cell - n).toNat) →
     ∃ near far, es = near ++ far ∧ insertEntry n e es = near ++ e :: far ∧
       (∀ a, a ∈ near → (a.cell - n).toNat ≤ (e.cell - n).toNat) ∧
       (∀ a, a ∈ far → (e.cell - n).toNat < (a.cell - n).toNat) ∧
       (insertEntry n e es).Pairwise (fun a b => (a.cell - n).toNat ≤ (b.cell - n).toNat)) ∧
  (∀ (late : Bool) (n : Count) (e : QueueEntry) (s : State) (a : Answer),
     a = applyCmd e.cmd e.target e.link n s →
     applyEntry late n e s =
       { a.state with
         links := if a.status.isRefusal then
             a.state.links.modify e.link fun k => { k with
               counters := { k.counters with timedFailures := satInc k.counters.timedFailures } }
           else a.state.links
         queue := { a.state.queue with
           results := a.state.queue.results.set e.link
             (some { tag := e.tag, cmd := e.cmd.cmd, status := a.status, count := n })
           counters := { a.state.queue.counters with
             applied := satInc a.state.queue.counters.applied
             failed := if a.status.isRefusal then satInc a.state.queue.counters.failed
               else a.state.queue.counters.failed
             appliedLate := if late then satInc a.state.queue.counters.appliedLate
               else a.state.queue.counters.appliedLate } } }) ∧
  (∀ (s t : State) (n : Count) (due rest : List QueueEntry), s.tb.start = .running → s.tb.markNext = none →
     (s.settings.mode = .master → s.tb.arm = none) → n = s.tb.count + 1 → exec .cellBoundary s = .next t →
     due = (s.queue.entries.filter fun e => e.cell == n) → rest = (s.queue.entries.filter fun e => e.cell != n) →
     t.queue.entries = rest ∧
     t.queue.counters.applied = satAdd s.queue.counters.applied due.length ∧
     t.queue.counters.appliedLate = s.queue.counters.appliedLate ∧
     t.queue.counters.discarded = s.queue.counters.discarded ∧
     (∀ l, (∀ e, e ∈ due → e.link ≠ l) → t.queue.results.get l = s.queue.results.get l) ∧
     (∀ before e later, due = before ++ e :: later → (∀ f, f ∈ later → f.link ≠ e.link) →
       ∃ status, t.queue.results.get e.link =
         some { tag := e.tag, cmd := e.cmd.cmd, status := status, count := n })) ∧
  (∀ (o : Order) (n : Count) (s : State), (∀ x, ¬ s.asks x) → tableChanges o n n s =
     (s.queue.entries.filter fun e => e.cell == n).foldl (fun u e => applyEntry false n e u)
       (s.setEntries (s.queue.entries.filter fun e => e.cell != n))) ∧
  (∀ (s t : State) (v : Count) (d : Nat) (late due : List QueueEntry), s.tb.start = .running →
     (s.tb.markNext = some v ∨ s.tb.markNext = none ∧ s.settings.mode = .master ∧ s.tb.arm = some v ∧
       (s.tb.count + 1).toNat % 1024 = 0) →
     v ≠ s.tb.count + 1 → d = (v - (s.tb.count + 1)).toNat → exec .cellBoundary s = .next t →
     late = (s.queue.entries.filter fun e => decide ((e.cell - s.tb.count).toNat ≤ d)) →
     due = late ++ (s.queue.entries.filter fun e => decide (d < (e.cell - s.tb.count).toNat) && e.cell == v) →
     (36000 < d → t.queue.entries = [] ∧ t.queue.results = s.queue.results ∧
       t.queue.counters.applied = s.queue.counters.applied ∧
       t.queue.counters.appliedLate = s.queue.counters.appliedLate ∧
       t.queue.counters.discarded = satAdd s.queue.counters.discarded s.queue.entries.length) ∧
     (d ≤ 36000 →
       t.queue.entries = (s.queue.entries.filter fun e =>
         decide (d < (e.cell - s.tb.count).toNat) && e.cell != v) ∧
       t.queue.counters.discarded = s.queue.counters.discarded ∧
       t.queue.counters.appliedLate = satAdd s.queue.counters.appliedLate late.length ∧
       t.queue.counters.applied = satAdd s.queue.counters.applied due.length ∧
       (∀ l, (∀ e, e ∈ due → e.link ≠ l) → t.queue.results.get l = s.queue.results.get l) ∧
       (∀ before e later, due = before ++ e :: later → (∀ f, f ∈ later → f.link ≠ e.link) →
         ∃ status, t.queue.results.get e.link =
           some { tag := e.tag, cmd := e.cmd.cmd, status := status, count := v })))

/-! ## The queue of commands, and resets (R165 to R168, R17, R35, R54) -/

/-- A step takes the command at the front of the queue and is that command's meaning on the state with the rest. -/
def Obligations.FrontCommandRuns : Prop :=
  ∀ (s : State) (c : Instr) (rest : List Instr), s.pending = c :: rest → step s = exec c { s with pending := rest }

/-- Every command answers a next state, from every state: a row out of its time the state as it stands (the model's
choice, log 1); and leaves the queue of commands to the step (log 27). -/
def Obligations.EveryCommandCompletes : Prop :=
  ∀ (c : Instr) (s : State), ∃ t, exec c s = .next t ∧ t.pending = s.pending

/-- POWER_ON, R165: settings and content from a valid image, else the built-in ones with CONFIG_DEFAULTS set; the
straps are latched (R143); the first cell will have count 0 (R35). PIN_RESET, R165, R54 and R35: settings from a valid
image, else the built-in ones at the strap rate of the power-on; live content retained, staged copies lost, sources
NETWORK, positions 0; a link left disabled sends the GO that a HOLD is owed (R144); the count kept for the first cell
to follow. The built-in settings and the levels of a link at a pin reset rest on logs 23 and 39. -/
def Obligations.ResetsLoadSettingsAndContent : Prop :=
  (∀ (rate1 rate0 : Bool) (s : State), ∃ t, exec (.powerOn rate1 rate0) s = .next t ∧
     (∀ g c, readImage s.store.image = some (g, c) → t.settings = g ∧ t.content = freshContent c ∧
       t.store.faults = 0 ∧ t.store.alert = false ∧ t.store.origin = .store) ∧
     (readImage s.store.image = none →
       t.settings = builtinSettings (match rate1, rate0 with
         | false, false => .r9600
         | false, true => .r19200
         | true, false => .r38400
         | true, true => .r115200) ∧
       t.content = freshContent builtinContent ∧ t.store.faults = 1 ∧ t.store.alert = true ∧
       t.store.origin = .defaults) ∧
     t.store.rate1 = rate1 ∧ t.store.rate0 = rate0 ∧ t.store.image = s.store.image ∧
     t.tb.start = .afterPowerOn ∧ t.tb.count = 0) ∧
  (∀ s : State, ∃ t, exec .pinReset s = .next t ∧
     (∀ g c, readImage s.store.image = some (g, c) → t.settings = g ∧ t.store.faults = 0 ∧ t.store.alert = false) ∧
     (readImage s.store.image = none →
       t.settings = builtinSettings (strapRate s.store.rate1 s.store.rate0) ∧ t.store.faults = 1 ∧
       t.store.alert = true) ∧
     t.store.origin = .retained ∧ t.store.image = s.store.image ∧ t.store.rate1 = s.store.rate1 ∧
     t.store.rate0 = s.store.rate0 ∧
     t.content.neighbours = s.content.neighbours ∧
     (∀ p, (t.out p).varN.label = (s.out p).varN.label ∧ (t.out p).varR.label = (s.out p).varR.label ∧
       (t.out p).varN.text = (s.out p).varN.text ∧ (t.out p).varR.text = (s.out p).varR.text ∧
       (t.out p).freqs = (s.out p).freqs ∧ (t.out p).labelShown = (s.out p).labelShown ∧
       (t.out p).textShown = (s.out p).textShown ∧ (t.out p).textVersion = (s.out p).textVersion ∧
       (t.out p).lv = (s.out p).lv ∧ (t.out p).varN.staged = none ∧ (t.out p).varR.staged = none ∧
       (t.out p).varN.stagedText = none ∧ (t.out p).varR.stagedText = none ∧ (t.out p).stagedFreqs = none ∧
       (t.out p).source = .network ∧ (t.out p).requested = .network ∧ (t.out p).labelPos = 0 ∧
       (t.out p).textPos = 0 ∧ (t.out p).freqPos = 0 ∧ (t.out p).nbSlot = 0 ∧ (t.out p).nbSeg = false ∧
       (t.out p).counters = ⟨0, 0, 0, 0, 0⟩) ∧
     (∀ l, (t.linkCfg l).enable = false → (s.link l).tx = none → (s.link l).ctrl = [] →
       (t.link l).tx = if (s.link l).holdOut then some (.ctrl 0xC1) else none) ∧
     t.tb.start = .afterReset ∧ t.tb.count = s.tb.count)

/-- Every reset (R17, R35, R71, R83, R103, R118, R129, R142, R161): no cell, pins low, outputs OFF and QUIET, ages,
bursts and every counter 0, timebase FREE at the nominal rate, tables and buffers empty, 32 tokens, nothing waiting on
a cue line or a link (log 31), the store IDLE, and an enabled link sends GO first. -/
def Obligations.EveryResetClearsTheWorkingState : Prop :=
  ∀ (s t : State), ((∃ r1 r0, exec (.powerOn r1 r0) s = .next t) ∨ exec .pinReset s = .next t) →
    (∀ p, (t.lane p).run = false ∧ (t.lane p).asm.cell = none ∧ (t.lane p).asm.dout = false ∧
      (t.lane p).asm.dck = false ∧ (∀ k, (t.lane p).asm.kinds.get k = 0) ∧ (t.lane p).asm.truncated = 0 ∧
      (t.lane p).seq.phase = .quiet ∧ (t.lane p).seq.current = none ∧ (t.lane p).seq.lead = 0 ∧
      (t.lane p).seq.trail = 0 ∧ (t.lane p).seq.burst = 0 ∧ (t.lane p).seq.view = none ∧ (t.lane p).seq.co = false ∧
      (t.lane p).seq.counters = ⟨0, 0, 0, 0, 0, 0⟩ ∧ (∀ i, (t.lane p).sched.ages.get i = 0) ∧
      (∀ i, (t.lane p).sched.late.get i = 0) ∧ (∀ i, (t.lane p).sched.largest.get i = 0) ∧
      (t.lane p).sched.nbPending = none ∧ (t.lane p).sched.nbRunning = none ∧ (t.lane p).sched.begun = 0 ∧
      (t.lane p).sched.replaced = 0 ∧ (t.lane p).sched.endedEarly = 0 ∧ (t.out p).counters = ⟨0, 0, 0, 0, 0⟩) ∧
    t.monitor.source = none ∧ t.monitor.mon = false ∧ t.monitor.monck = false ∧
    t.tb.lock = .free ∧ t.tb.qual = 0 ∧ t.tb.holdover = 0 ∧ t.tb.rate = ⟨2280, 1⟩ ∧ t.tb.lockedRate = ⟨2280, 1⟩ ∧
    t.tb.arm = none ∧ t.tb.markThis = false ∧ t.tb.markNext = none ∧ t.tb.epout = false ∧ t.tb.refWatch = .noEdge ∧
    t.tb.counters = ⟨0, 0, 0, 0, 0, 0⟩ ∧
    t.claims.table = [] ∧ t.claims.nextStamp = 0 ∧ (∀ o, t.claims.lastEnded.get o = none) ∧
    t.claims.counters.admitted = 0 ∧ t.claims.counters.refusedFull = 0 ∧ (∀ i, t.claims.counters.ended.get i = 0) ∧
    t.pool.records = [] ∧ t.pool.counters = ⟨0, 0, 0, 0⟩ ∧
    t.queue.entries = [] ∧ (∀ l, t.queue.results.get l = none) ∧ t.queue.counters = ⟨0, 0, 0, 0, 0, 0, 0, 0, 0⟩ ∧
    (∀ c, (t.cue c).active = false ∧ (t.cue c).debounce = 0 ∧ (t.cue c).pending = false ∧
      (t.cue c).capture = none ∧ (t.cue c).due = none ∧ (t.cue c).counters = ⟨0, 0, 0, 0, 0⟩) ∧
    (∀ l, (t.link l).on = (t.linkCfg l).enable ∧ (t.link l).rate = (t.linkCfg l).rate ∧ (t.link l).recv = .hunt ∧
      (t.link l).stored = [] ∧ (t.link l).waiting = [] ∧ (t.link l).replies = [] ∧ (t.link l).holdOut = false ∧
      (t.link l).tokens = 32 ∧ (t.link l).tokenCount = 0 ∧ (t.link l).counters = ⟨0, 0, 0, 0, 0, 0, 0⟩ ∧
      (t.link l).restartAt = none ∧ (t.link l).disableAt = none ∧ (t.link l).rateChanges = [] ∧
      (t.link l).escape = false ∧
      ((t.linkCfg l).enable = true → (t.link l).tx = some (.ctrl 0xC1) ∧ (t.link l).ctrl = [])) ∧
    (∀ i, t.router.matched.get i = 0) ∧ t.router.defaultUses = 0 ∧ t.router.discards = 0 ∧ t.store.saving = none

/-! ## Boundaries: the timebase (R18 to R35) -/

/-- CELL_BOUNDARY, R19, R26, R27 and R29: a new cell begins at bit 0; it takes the count before plus 1, or the count a
strobe decided; after a power-on the first cell keeps the count of the reset; EPOUT goes high exactly in an epoch cell,
for its first bit period (its end: PinsThroughABitPeriod).
R32 and R33: in MASTER the armed value is taken at the next boundary whose expected count is a multiple of 1024, and
the arm clears; a count decided by strobe or arm that differs from the expected one is a jump, which is counted and sets
TIMEBASE_JUMP as that cell begins. That the first boundary after a reset takes an arm as well is the model's choice
(log 44). -/
def Obligations.TheCountAdvances : Prop :=
  (∀ s : State, ∃ t, exec .cellBoundary s = .next t ∧ t.tb.bitPos = 0 ∧ t.tb.start = .running ∧
     t.tb.epout = decide (t.tb.count.toNat % 1024 = 0) ∧ t.tb.epoutEnds ≤ 1 ∧ t.tb.markNext = none ∧
     (∀ v e : Count, s.tb.markNext = some v →
       e = (if s.tb.start = .afterPowerOn then s.tb.count else s.tb.count + 1) →
       t.tb.count = v ∧ t.tb.markThis = true ∧ t.tb.arm = s.tb.arm ∧
       (v = e → t.tb.counters.jumps = s.tb.counters.jumps ∧ t.store = s.store) ∧
       (v ≠ e → t.tb.counters.jumps = satInc s.tb.counters.jumps ∧ t.store = { s.store with
         faults := s.store.faults ||| 4
         alert := decide ((s.store.faults ||| 4) &&& s.settings.alertMask ≠ 0) })) ∧
     (s.tb.markNext = none → s.tb.start ≠ .afterPowerOn →
       (s.settings.mode = .slave ∨ s.tb.arm = none ∨ (s.tb.count + 1).toNat % 1024 ≠ 0) →
       t.tb.count = s.tb.count + 1 ∧ t.tb.markThis = false ∧ t.tb.arm = s.tb.arm ∧
       t.tb.counters.jumps = s.tb.counters.jumps ∧ t.store = s.store) ∧
     (s.tb.start = .afterPowerOn → s.tb.markNext = none → s.tb.arm = none → t.tb.count = s.tb.count)) ∧
  (∀ (s : State) (v e : Count), s.settings.mode = .master → s.tb.markNext = none → s.tb.arm = some v →
     e = (if s.tb.start = .afterPowerOn then s.tb.count else s.tb.count + 1) →
     ∃ t, exec .cellBoundary s = .next t ∧
       (e.toNat % 1024 ≠ 0 → t.tb.count = e ∧ t.tb.arm = some v) ∧
       (e.toNat % 1024 = 0 → t.tb.count = v ∧ t.tb.arm = none ∧
         (v = e → t.tb.counters.jumps = s.tb.counters.jumps ∧ t.store = s.store) ∧
         (v ≠ e → t.tb.counters.jumps = satInc s.tb.counters.jumps ∧
           t.store = { s.store with
             faults := s.store.faults ||| 4
             alert := decide ((s.store.faults ||| 4) &&& s.settings.alertMask ≠ 0) })))

/-- R18: the rate of the cell that begins follows the lock state: nominal in FREE, three twenty-fifths of the average
of REF in LOCKED where a period ended in the cell, as an exact fraction of sums in femtoseconds (log 8; where none
ended the rate is a free value, log 9, and nothing is said), the locked rate in HOLDOVER. R23 and R25: in FREE and
HOLDOVER the qualification count rises by 1 at the end of a cell that qualified and returns to 0 at that of one that
did not, a cell in progress at its last clearing not judged; the holdover count rises by 1 at each boundary in
HOLDOVER; below their limits the lock state stays. In MASTER, and in LOCKED, nothing of this moves. R22: the
measurement of the cell that begins starts afresh, with no period and no fault seen, while a period under way goes on;
that cell is judged. LOCK_ACQUISITION and HOLDOVER_EXPIRY, R23 and R25: the row is the boundary at which the event
happens, and nothing where the coming boundary would not bring it (logs 1 and 3): in MASTER, in a lock state that has
no such change, below the limit, or, for the expiry, where the qualification count reaches 20 at that boundary; it
runs on through an expiry. -/
def Obligations.TheLockStateAndTheRateFollowRef : Prop :=
  (∀ (s t : State), exec .cellBoundary s = .next t →
     (t.tb.refBad = false ∧ t.tb.refPeriods = 0 ∧ t.tb.refTime = 0 ∧ t.tb.judged = true ∧
       t.tb.refWatch = s.tb.refWatch) ∧
     (t.tb.lock = .free → t.tb.rate = ⟨2280, 1⟩ ∧ t.tb.lockedRate = s.tb.lockedRate) ∧
     (t.tb.lock = .holdover → t.tb.rate = s.tb.lockedRate ∧ t.tb.lockedRate = s.tb.lockedRate) ∧
     (t.tb.lock = .locked → t.tb.lockedRate = t.tb.rate ∧ (0 < s.tb.refPeriods → 0 < s.tb.refTime →
       t.tb.rate = ⟨3 * s.tb.refPeriods * 10 ^ 15, 25 * s.tb.refTime⟩))) ∧
  (∀ (s t : State) (qual holdover : Nat), exec .cellBoundary s = .next t →
     qual = (if s.tb.judged = true then (if s.tb.refBad = false ∧ 0 < s.tb.refPeriods then s.tb.qual + 1 else 0)
       else s.tb.qual) →
     holdover = (if s.tb.lock = .holdover then s.tb.holdover + 1 else s.tb.holdover) →
     (s.settings.mode = .slave → s.tb.lock ≠ .locked → qual < 20 → (s.tb.lock = .holdover → holdover < 12000) →
       t.tb.qual = qual ∧ t.tb.holdover = holdover ∧ t.tb.lock = s.tb.lock) ∧
     (s.settings.mode = .master ∨ s.tb.lock = .locked →
       t.tb.qual = s.tb.qual ∧ t.tb.holdover = s.tb.holdover ∧ t.tb.lock = s.tb.lock)) ∧
  (∀ (s : State) (qual : Nat),
     qual = (if s.tb.judged = true then (if s.tb.refBad = false ∧ 0 < s.tb.refPeriods then s.tb.qual + 1 else 0)
       else s.tb.qual) →
     (s.settings.mode = .slave → s.tb.lock ≠ .locked → 20 ≤ qual →
       ∃ t, exec .lockAcquisition s = .next t ∧ exec .cellBoundary s = .next t ∧ t.tb.lock = .locked ∧
         t.tb.qual = 0 ∧ t.tb.holdover = 0 ∧
         t.tb.counters = { s.tb.counters with
           acquisitions := satInc s.tb.counters.acquisitions, jumps := t.tb.counters.jumps }) ∧
     (s.settings.mode = .slave → s.tb.lock = .holdover → qual < 20 → 11999 ≤ s.tb.holdover →
       ∃ t, exec .holdoverExpiry s = .next t ∧ exec .cellBoundary s = .next t ∧ t.tb.lock = .free ∧
         t.tb.qual = qual ∧ t.tb.holdover = 0 ∧ t.tb.rate = ⟨2280, 1⟩ ∧
         t.tb.counters = { s.tb.counters with
           holdoverExpiries := satInc s.tb.counters.holdoverExpiries, jumps := t.tb.counters.jumps }) ∧
     (s.settings.mode = .master ∨ s.tb.lock = .locked ∨ qual < 20 → exec .lockAcquisition s = .next s) ∧
     (s.settings.mode = .master ∨ s.tb.lock ≠ .holdover ∨ s.tb.holdover < 11999 ∨ 20 ≤ qual →
       exec .holdoverExpiry s = .next s))

/-! ## Boundaries: the outputs (R2 to R5, R11 to R14, R36, R42 to R46) -/

/-- R13, R14 and R11: at a boundary the run state follows the enable; an output that is OFF has no cell, still pins
and a QUIET sequencer; a running output begins its cell's first guard bit, which is 1. At its entry into RUN an output
goes through the boundary as one in RUN would from the starting state of R13: positions 0, ages 0, no burst, QUIET.
One that leaves RUN loses its cell, goes QUIET without claim, lead, trail, burst and view, and counts one service drop
where it was not QUIET (R114, R117); its ages, bursts and other counters stay, as they do while it is OFF. R15: from a
boundary the monitor copies the output selected where that output is in RUN, and is idle otherwise. R36: at a boundary
with nothing timed for it each output's source follows its requested source and regional identity, in RUN or OFF, and
a change counts one source switch. -/
def Obligations.RunStateAndSourceFollowTheSettings : Prop :=
  (∀ (s : State) (p : OutId), (s.lane p).pinsFollow → ∃ t, exec .cellBoundary s = .next t ∧
     (t.lane p).run = (s.outCfg p).enable ∧ (t.lane p).asm.dck = false ∧
     ((s.outCfg p).enable = false → (t.lane p).asm.cell = none ∧ (t.lane p).asm.dout = false ∧
       (t.lane p).seq.phase = .quiet ∧ (t.lane p).seq.co = false) ∧
     ((s.outCfg p).enable = true → (t.lane p).asm.cell ≠ none ∧ (t.lane p).asm.dout = true)) ∧
  (∀ (s : State) (p : OutId), (s.lane p).run = false → (s.outCfg p).enable = true →
     exec .cellBoundary s = exec .cellBoundary ((s.modLane p fun ln => { ln with
       run := true
       seq := { phase := .quiet, current := none, lead := 0, trail := 0, burst := 0, view := none, co := false
                counters := ln.seq.counters }
       sched := { ln.sched with ages := .replicate 6 0, nbPending := none, nbRunning := none } }).modOut p fun o =>
         { o with labelPos := 0, textPos := 0, freqPos := 0, nbSlot := 0, nbSeg := false })) ∧
  (∀ (s : State) (p : OutId), s.queue.entries = [] → ∃ t, exec .cellBoundary s = .next t ∧
     (t.out p).source = (if (s.out p).requested = .regional ∧ (s.outCfg p).regId ≠ 0 then .regional else .network) ∧
     (t.out p).requested = (t.out p).source ∧
     (t.out p).counters.sourceSwitches =
       (if (t.out p).source = (s.out p).source then (s.out p).counters.sourceSwitches
        else satInc (s.out p).counters.sourceSwitches)) ∧
  (∀ (s t : State) (p : OutId), exec .cellBoundary s = .next t → (s.outCfg p).enable = false →
     ((s.lane p).run = true → t.lane p =
       { run := false
         asm := { (s.lane p).asm with cell := none, dout := false, dck := false }
         seq := { phase := .quiet, current := none, lead := 0, trail := 0, burst := 0, view := none, co := false
                  counters := { (s.lane p).seq.counters with
                    drops := if (s.lane p).seq.phase = .quiet then (s.lane p).seq.counters.drops
                      else satInc (s.lane p).seq.counters.drops } }
         sched := (s.lane p).sched }) ∧
     ((s.lane p).run = false → (t.lane p).sched = (s.lane p).sched ∧
       (t.lane p).seq.counters = (s.lane p).seq.counters ∧ (t.lane p).asm.kinds = (s.lane p).asm.kinds ∧
       (t.lane p).asm.truncated = (s.lane p).asm.truncated)) ∧
  (∀ s t : State, exec .cellBoundary s = .next t → t.monitorFollows ∧
     t.monitor.source = (match s.settings.monitor with
       | none => none
       | some p => if (t.lane p).run = true then some p else none))

/-- R42 and R43: the label commit, at segment 0 alone: the shown variant becomes the active one, its staged label
becomes live and is counted, and LV toggles once where either changed; then the position advances and returns to 0.
R44 and R46: at text position 0 a pending text commit makes the active variant the shown one, its staged text live,
and raises the text version; at chunk 0 a staged list becomes live. At other positions nothing is committed. A boundary
of an output in RUN at which nothing is timed does this: the label commit where the cell is LABEL and its segment 0,
the text and list commits whatever the cell; what is not committed stands as it was, the other variant too; a cell of
LABEL, TEXT or FREQ moves its own position on, modulo the total of what it carried (R43, R45, R46), and no other. -/
def Obligations.StagedContentCommits : Prop :=
  (∀ (o : OutContent) (v : Variant), v = o.source.variant →
     o.variant .n = o.varN ∧ o.variant .r = o.varR ∧
     (o.labelPos ≠ 0 → o.commitLabel = o) ∧
     (o.labelPos = 0 →
       o.commitLabel.labelShown = v ∧
       (o.commitLabel.variant v).label = (o.variant v).staged.getD (o.variant v).label ∧
       (o.commitLabel.variant v).staged = none ∧
       (o.commitLabel.variant v).text = (o.variant v).text ∧
       (o.commitLabel.lv = o.lv ↔ o.labelShown = v ∧ (o.variant v).staged = none) ∧
       o.commitLabel.counters.labelCommits =
         (if (o.variant v).staged = none then o.counters.labelCommits else satInc o.counters.labelCommits)) ∧
     (1 ≤ o.shownLabel.chars.length → o.shownLabel.chars.length ≤ 18 → o.labelPos < o.labelTotal →
       o.advanceLabel.labelPos < o.labelTotal ∧ o.labelTotal ≤ 3 ∧
       (o.labelPos + 1 < o.labelTotal → o.advanceLabel.labelPos = o.labelPos + 1) ∧
       (o.labelPos + 1 = o.labelTotal → o.advanceLabel.labelPos = 0))) ∧
  (∀ (s t : State) (p : OutId) (v : Variant) (a b : OutContent) (kind : Nat), exec .cellBoundary s = .next t →
     s.queue.entries = [] → (s.lane p).run = true → (s.outCfg p).enable = true → a = s.out p → b = t.out p →
     v = (if a.requested = .regional ∧ (s.outCfg p).regId ≠ 0 then .r else .n) → t.cellKind p = some kind →
     (kind = 1 → a.labelPos = 0 →
       b.labelShown = v ∧ (b.variant v).label = (a.variant v).staged.getD (a.variant v).label ∧
       (b.variant v).staged = none ∧
       (∀ w, w ≠ v → (b.variant w).label = (a.variant w).label ∧ (b.variant w).staged = (a.variant w).staged) ∧
       b.lv = (if a.labelShown = v ∧ (a.variant v).staged = none then a.lv else !a.lv) ∧
       b.counters.labelCommits =
         (if (a.variant v).staged = none then a.counters.labelCommits else satInc a.counters.labelCommits)) ∧
     (kind ≠ 1 ∨ a.labelPos ≠ 0 →
       b.labelShown = a.labelShown ∧ b.lv = a.lv ∧ b.counters.labelCommits = a.counters.labelCommits ∧
       ∀ w, (b.variant w).label = (a.variant w).label ∧ (b.variant w).staged = (a.variant w).staged) ∧
     b.labelPos = (if kind = 1 then (a.labelPos + 1) % (((b.variant b.labelShown).label.chars.length + 5) / 6)
       else a.labelPos) ∧
     (a.textPos = 0 → (a.textShown ≠ v ∨ (a.variant v).stagedText ≠ none) →
       b.textShown = v ∧ b.textVersion = a.textVersion + 1 ∧
       (b.variant v).text = (a.variant v).stagedText.getD (a.variant v).text ∧ (b.variant v).stagedText = none ∧
       (∀ w, w ≠ v → (b.variant w).text = (a.variant w).text ∧ (b.variant w).stagedText = (a.variant w).stagedText) ∧
       b.counters.textCommits = satInc a.counters.textCommits) ∧
     (a.textPos ≠ 0 ∨ (a.textShown = v ∧ (a.variant v).stagedText = none) →
       b.textShown = a.textShown ∧ b.textVersion = a.textVersion ∧
       b.counters.textCommits = a.counters.textCommits ∧
       ∀ w, (b.variant w).text = (a.variant w).text ∧ (b.variant w).stagedText = (a.variant w).stagedText) ∧
     b.textPos = (if kind = 3 then (a.textPos + 1) % (((b.variant b.textShown).text.length + 5) / 6)
       else a.textPos) ∧
     (∀ codes, a.freqPos = 0 → a.stagedFreqs = some codes →
       b.freqs = codes ∧ b.stagedFreqs = none ∧ b.counters.listCommits = satInc a.counters.listCommits) ∧
     (a.freqPos ≠ 0 ∨ a.stagedFreqs = none →
       b.freqs = a.freqs ∧ b.stagedFreqs = a.stagedFreqs ∧ b.counters.listCommits = a.counters.listCommits) ∧
     b.freqPos = (if kind = 2 then (a.freqPos + 1) % ((b.freqs.length + 3) / 4) else a.freqPos))

/-! ## Boundaries: announcements (R85 to R118) -/

/-- LEAD_END and TRAIL_END, R108 and R110: the boundary at which the last cell of lead has passed with a claim chosen
takes the output on air, and the one at which the last cell of trail has passed with none takes it to QUIET. The row is
that boundary (log 3). Where an onset would be abandoned or a trail resumed at the boundary, the row leaves the state
as it stands and CELL_BOUNDARY does that (log 45). -/
def Obligations.LeadAndTrailEnd : Prop :=
  ∀ (s : State) (p : OutId), PlainBoundary s → (s.lane p).run = true → (s.outCfg p).enable = true →
    (s.outCfg p).tc = true →
    (∀ c, (s.lane p).seq.phase = .onset → (s.lane p).seq.lead = 1 → choice (updateSources s) p = some c →
      ∃ t, exec (.leadEnd p) s = .next t ∧ exec .cellBoundary s = .next t ∧ (t.lane p).seq.phase = .onAir ∧
        (t.lane p).seq.co = true ∧ (t.lane p).seq.current = some ⟨c.key, c.stamp⟩ ∧ (t.lane p).seq.lead = 0) ∧
    ((s.lane p).seq.phase = .trail → (s.lane p).seq.trail = 1 → (s.lane p).seq.current = none →
      choice (updateSources s) p = none →
      ∃ t, exec (.trailEnd p) s = .next t ∧ exec .cellBoundary s = .next t ∧ (t.lane p).seq.phase = .quiet ∧
        (t.lane p).seq.co = false ∧ (t.lane p).seq.current = none ∧ (t.lane p).seq.view = none ∧
        (t.lane p).seq.trail = 0) ∧
    ((s.lane p).seq.phase = .onset → choice (updateSources s) p = none → exec (.leadEnd p) s = .next s ∧
      ∃ t, exec .cellBoundary s = .next t ∧ (t.lane p).seq.phase = .quiet ∧ (t.lane p).seq.current = none ∧
        (t.lane p).seq.lead = 0 ∧
        (t.lane p).seq.counters.aborted = satInc (s.lane p).seq.counters.aborted) ∧
    (∀ c, (s.lane p).seq.phase = .trail → choice (updateSources s) p = some c → exec (.trailEnd p) s = .next s ∧
      ∃ t, exec .cellBoundary s = .next t ∧ (t.lane p).seq.phase = .onAir ∧
        (t.lane p).seq.current = some ⟨c.key, c.stamp⟩ ∧ (t.lane p).seq.trail = 0 ∧
        (t.lane p).seq.counters.resumptions = satInc (s.lane p).seq.counters.resumptions)

/-- R87: a claim is eligible on an output of its target mask that is in RUN with TC 1 where the group set accepted for
the source in force has its region group. R106 and R86: the current claim is the highest-ranked eligible one: none
where none is eligible; else an eligible claim that no other eligible claim outranks. R107 to R111, R114, R115 and
R117: every transition of a sequencer in RUN, by its phase and the claim chosen; a change of phase or of current claim
sets the burst counter to B, a drop with TC 0 among them. -/
def Obligations.TheSequencerFollowsItsClaim : Prop :=
  (∀ (s : State) (p : OutId) (c : Claim), eligible s p c = true ↔
     c.target.getLsbD p.val = true ∧ (s.lane p).run = true ∧ (s.outCfg p).tc = true ∧
       (s.settings.groupSets.get (match (s.out p).source with
         | .network => (s.outCfg p).accNet
         | .regional => (s.outCfg p).accReg)).getLsbD c.group.toNat = true) ∧
  (∀ (s : State) (p : OutId),
     (choice s p = none ↔ ∀ c, c ∈ s.claims.table → eligible s p c = false) ∧
     (∀ c, choice s p = some c → c ∈ s.claims.table ∧ eligible s p c = true ∧
       ∀ d, d ∈ s.claims.table → eligible s p d = true →
         d.priority < c.priority ∨ (d.priority = c.priority ∧ c.stamp.toNat ≤ d.stamp.toNat))) ∧
  (∀ (cfg : OutSettings) (q : Sequencer),
     (∀ chosen, cfg.tc = false → ∃ t, Sequencer.boundary cfg chosen q = t ∧ t.phase = .quiet ∧ t.current = none ∧
       t.lead = 0 ∧ t.trail = 0 ∧ t.view = none ∧ t.co = false ∧
       t.burst = (if q.phase = .quiet ∧ q.current = none then q.burst else cfg.burst) ∧
       t.counters = { q.counters with
         drops := if q.phase = .quiet then q.counters.drops else satInc q.counters.drops }) ∧
     (cfg.tc = true → q.phase = .quiet → q.current = none → ∀ r,
       (∃ t, Sequencer.boundary cfg none q = t ∧ t = { q with co := false }) ∧
       (∃ t, Sequencer.boundary cfg (some r) q = t ∧ t.current = some r ∧ t.burst = cfg.burst ∧
         t.counters = { q.counters with onsets := satInc q.counters.onsets } ∧ t.lead = cfg.lead ∧
         (cfg.lead = 0 → t.phase = .onAir ∧ t.co = true) ∧ (cfg.lead ≠ 0 → t.phase = .onset ∧ t.co = false))) ∧
     (cfg.tc = true → q.phase = .onset → ∀ r,
       (∃ t, Sequencer.boundary cfg none q = t ∧ t.phase = .quiet ∧ t.current = none ∧ t.burst = cfg.burst ∧
         t.lead = 0 ∧ t.co = false ∧ t.counters = { q.counters with aborted := satInc q.counters.aborted }) ∧
       (∃ t, Sequencer.boundary cfg (some r) q = t ∧ t.current = some r ∧ t.lead = q.lead - 1 ∧
         t.phase = (if q.lead - 1 = 0 then .onAir else .onset) ∧ t.co = decide (q.lead - 1 = 0) ∧
         t.burst = (if q.lead - 1 = 0 ∨ q.current ≠ some r then cfg.burst else q.burst) ∧
         t.counters = { q.counters with
           handovers := if q.current = some r then q.counters.handovers else satInc q.counters.handovers })) ∧
     (cfg.tc = true → q.phase = .onAir → ∀ r,
       (∃ t, Sequencer.boundary cfg none q = t ∧ t.current = none ∧ t.burst = cfg.burst ∧ t.co = false ∧
         t.trail = cfg.trail ∧ t.phase = (if cfg.trail = 0 then .quiet else .trail) ∧
         t.counters = { q.counters with onAirEnds := satInc q.counters.onAirEnds }) ∧
       (∃ t, Sequencer.boundary cfg (some r) q = t ∧ t.current = some r ∧ t.phase = .onAir ∧ t.co = true ∧
         t.burst = (if q.current = some r then q.burst else cfg.burst) ∧
         t.counters = { q.counters with
           handovers := if q.current = some r then q.counters.handovers else satInc q.counters.handovers })) ∧
     (cfg.tc = true → q.phase = .trail → q.current = none → ∀ r,
       (∃ t, Sequencer.boundary cfg none q = t ∧ t.current = none ∧ t.co = false ∧ t.trail = q.trail - 1 ∧
         t.phase = (if q.trail - 1 = 0 then .quiet else .trail) ∧
         t.burst = (if q.trail - 1 = 0 then cfg.burst else q.burst) ∧ t.counters = q.counters) ∧
       (∃ t, Sequencer.boundary cfg (some r) q = t ∧ t.current = some r ∧ t.phase = .onAir ∧ t.co = true ∧
         t.burst = cfg.burst ∧
         t.counters = { q.counters with resumptions := satInc q.counters.resumptions })))

/-- CLAIM_HOLD_EXPIRY and CLAIM_WAIT_EXPIRY, R97, R100 and R101: where one limit alone is reached at a boundary, that
claim ends: OVERRUN, or ELAPSED for a PULSE_CUE claim, at its hold limit, STALE at its wait limit. The last-ended record
holds the count of the cell that begins. The row is that boundary (log 3). -/
def Obligations.ClaimsEndAtTheirLimits : Prop :=
  ∀ (s : State) (k : ClaimKey) (c : Claim), s.tb.start = .running → s.tb.markNext = none →
    (s.settings.mode = .master → s.tb.arm = none) → s.queue.entries = [] → s.onlyAsk [.expiry k] →
    claimHeld s k = some c →
    (c.holdLimit ≠ 0 → c.holdLimit ≤ c.holdUsed.toNat →
      ∃ t, exec (.claimHoldExpiry k.origin k.number) s = .next t ∧ exec .cellBoundary s = .next t ∧
        (∀ d, d ∈ t.claims.table → d.key ≠ k) ∧
        t.claims.lastEnded.get (originIndex k.origin) = some { number := k.number, cls := c.cls
                                                               reason := if c.kind = .pulseCue then .elapsed
                                                                 else .overrun
                                                               count := s.tb.count + 1, onAir := c.holdUsed } ∧
        t.claims.counters.ended = s.claims.counters.ended.modify (if c.kind = .pulseCue then 2 else 1) satInc) ∧
    ((c.holdLimit = 0 ∨ c.holdUsed.toNat < c.holdLimit) → c.waitLimit ≠ 0 → c.waitLimit ≤ c.waitUsed.toNat →
      ∃ t, exec (.claimWaitExpiry k.origin k.number) s = .next t ∧ exec .cellBoundary s = .next t ∧
        (∀ d, d ∈ t.claims.table → d.key ≠ k) ∧
        t.claims.lastEnded.get (originIndex k.origin) = some { number := k.number, cls := c.cls, reason := .stale
                                                               count := s.tb.count + 1, onAir := c.holdUsed } ∧
        t.claims.counters.ended = s.claims.counters.ended.modify 3 satInc)

/-- R85: after a boundary the status of every claim held, on every output, is NOT_TARGET outside its target mask,
INELIGIBLE where it is not eligible (R87), CURRENT where the sequencer names it, WAITING otherwise. R98: at a boundary
at which nothing else meets a claim's hold used rises by 1 where it is CURRENT on some output in ON_AIR, its wait used
where it is CURRENT nowhere, both staying at 4,294,967,295; the rest of it is kept. R112: a sequencer with a current
claim holds its class, group and hold used as they then stand; in TRAIL it keeps what it held; this where in QUIET and
TRAIL the sequencer named no claim before the boundary, as every step keeps it (StepsKeepKeysAndNames). -/
def Obligations.ClaimStatusesAndTimesAdvance : Prop :=
  (∀ (s t : State) (c : Claim) (p : OutId), exec .cellBoundary s = .next t → c ∈ t.claims.table →
     c.status.get p =
       if c.target.getLsbD p.val = false then .notTarget
       else if (t.lane p).run = true ∧ (t.outCfg p).tc = true ∧
           (t.settings.groupSets.get (match (t.out p).source with
             | .network => (t.outCfg p).accNet
             | .regional => (t.outCfg p).accReg)).getLsbD c.group.toNat = true then
         if (t.lane p).seq.current = some ⟨c.key, c.stamp⟩ then .current else .waiting
       else .ineligible) ∧
  (∀ s t : State, PlainBoundary s → exec .cellBoundary s = .next t → ∃ f : Claim → Claim,
     t.claims = { s.claims with table := s.claims.table.map f } ∧
     ∀ c, f c = { c with status := (f c).status, holdUsed := (f c).holdUsed, waitUsed := (f c).waitUsed } ∧
       ((∃ p, (f c).status.get p = .current ∧ (t.lane p).seq.phase = .onAir) →
         (f c).holdUsed.toNat = min (c.holdUsed.toNat + 1) 4294967295) ∧
       ((∀ p, (f c).status.get p = .current → (t.lane p).seq.phase ≠ .onAir) → (f c).holdUsed = c.holdUsed) ∧
       ((∀ p, (f c).status.get p ≠ .current) → (f c).waitUsed.toNat = min (c.waitUsed.toNat + 1) 4294967295) ∧
       ((∃ p, (f c).status.get p = .current) → (f c).waitUsed = c.waitUsed)) ∧
  (∀ (s t : State) (p : OutId),
     ((s.lane p).seq.phase = .quiet ∨ (s.lane p).seq.phase = .trail → (s.lane p).seq.current = none) →
     exec .cellBoundary s = .next t →
     (∀ r, (s.outCfg p).enable = true → (t.lane p).seq.current = some r →
       ∃ c, c ∈ t.claims.table ∧ r = ⟨c.key, c.stamp⟩ ∧
         (t.lane p).seq.view = some { cls := c.cls, group := c.group, holdUsed := c.holdUsed }) ∧
     ((t.lane p).seq.phase = .trail → (t.lane p).seq.view = (s.lane p).seq.view))

/-! ## Boundaries: scheduler, pool and tokens (R56 to R82, R158) -/

/-- R60, R62 and R63: the announce burst takes the cell first, then the neighbour burst, then the ready and enabled
service of the largest urgency, the earliest in the service order among equals; with none the cell is FILLER. The
urgency is the age times 64, divided by the interval; R58 says when each service is ready. R59, R65 and R70: an age
rises by 1 and stays at 1023; the winner's entry counts a late send where its age exceeds the interval of an enabled
service, keeps the largest age, and returns the age to 0; other services keep theirs. A boundary of an output in RUN, at
which no change of the claim table meets, does this: its sequencer moves by the claim chosen; while the burst counter is
above 0 the cell is ANNOUNCE and the counter falls by 1; then a neighbour burst, then the contest, choose the kind of
the cell, and the entry of that service alone is updated. -/
def Obligations.TheMostUrgentServiceIsSent : Prop :=
  (∀ (s : State) (p : OutId) (sv : Service),
     urgencyOf s p sv = (s.lane p).sched.ages.get sv.index * 64 / (s.outCfg p).intervals.get sv.index ∧
     (candidate s p sv = true ↔ 1 ≤ (s.outCfg p).intervals.get sv.index ∧ match sv with
       | .announce => (s.lane p).seq.phase ≠ .quiet
       | .tmsg => ∃ r, r ∈ s.pool.records ∧ 0 < r.repeats.get p ∧
           (s.tb.count - r.nextEligible.get p).toNat < 8388608
       | .label => True
       | .freq => (s.out p).freqs ≠ []
       | .neighbour => ∃ slot r, s.content.neighbours.get slot = some r ∧ r.carriers.getLsbD p.val = true
       | .text => (match (s.out p).textShown with
           | .n => (s.out p).varN.text
           | .r => (s.out p).varR.text) ≠ [])) ∧
  (∀ (s : State) (p : OutId),
     (0 < (s.lane p).seq.burst → winner s p = .announceBurst) ∧
     (∀ b, (s.lane p).seq.burst = 0 → (s.lane p).sched.nbRunning = some b → winner s p = .neighbourBurst b) ∧
     ((s.lane p).seq.burst = 0 → (s.lane p).sched.nbRunning = none →
       ((∀ sv, candidate s p sv = false) → winner s p = .filler) ∧
       ∀ sv, candidate s p sv = true →
         (∀ w, candidate s p w = true → urgencyOf s p w < urgencyOf s p sv ∨
           (urgencyOf s p w = urgencyOf s p sv ∧ sv.index.val ≤ w.index.val)) →
         winner s p = .service sv)) ∧
  (∀ (k : Scheduler) (intervals : Table 6 Nat) (sv w : Service),
     k.advanceAges.ages.get sv.index = min (k.ages.get sv.index + 1) 1023 ∧
     (k.sendEntry intervals sv).ages.get sv.index = 0 ∧
     (k.sendEntry intervals sv).largest.get sv.index = max (k.ages.get sv.index) (k.largest.get sv.index) ∧
     (k.sendEntry intervals sv).late.get sv.index =
       (if 1 ≤ intervals.get sv.index ∧ intervals.get sv.index < k.ages.get sv.index then
         satInc (k.late.get sv.index) else k.late.get sv.index) ∧
     (w ≠ sv → (k.sendEntry intervals sv).ages.get w.index = k.ages.get w.index ∧
       (k.sendEntry intervals sv).late.get w.index = k.late.get w.index ∧
       (k.sendEntry intervals sv).largest.get w.index = k.largest.get w.index)) ∧
  (∀ (s t : State) (p : OutId) (cell : Cell) (kind : Nat) (q : Sequencer) (k u : Scheduler),
     exec .cellBoundary s = .next t → s.queue.entries = [] → (∀ x, ¬ s.asks x) → (s.lane p).run = true →
     (s.outCfg p).enable = true → (t.lane p).asm.cell = some cell → kind = cell.control.toNat / 16 →
     q = Sequencer.boundary (s.outCfg p) ((choice t p).map fun c => ⟨c.key, c.stamp⟩) (s.lane p).seq →
     k = (s.lane p).sched → u = (t.lane p).sched →
     let age (sv : Service) : Nat := min (k.ages.get sv.index + 1) 1023
     let interval (sv : Service) : Nat := (s.outCfg p).intervals.get sv.index
     let carried (slot : SlotId) : Prop :=
       ∃ r, t.content.neighbours.get slot = some r ∧ r.carriers.getLsbD p.val = true
     let stands (sv : Service) : Prop := 1 ≤ interval sv ∧ match sv with
       | .announce => q.phase ≠ .quiet
       | .tmsg => ∃ r, r ∈ s.poolAt t p.val ∧ due t.tb.count p r = true
       | .label => True
       | .freq => (t.out p).freqs ≠ []
       | .neighbour => ∃ slot, carried slot
       | .text => (match (t.out p).textShown with
           | .n => (t.out p).varN.text
           | .r => (t.out p).varR.text) ≠ []
     let code (sv : Service) : Nat := match sv with
       | .announce => 6
       | .tmsg => 4
       | .label => 1
       | .freq => 2
       | .neighbour => 5
       | .text => 3
     let burst : Prop := ∃ slot, carried slot ∧
       (k.nbPending = some slot ∨ k.nbPending = none ∧ ∃ second, k.nbRunning = some ⟨slot, second⟩)
     (t.lane p).seq = { q with burst := q.burst - 1, view := (t.lane p).seq.view } ∧
     (0 < q.burst → kind = 6) ∧
     (q.burst = 0 → burst → kind = 5) ∧
     (q.burst = 0 → ¬ burst → ((∀ sv, ¬ stands sv) → kind = 0) ∧
       ∀ sv, stands sv →
         (∀ w, stands w → age w * 64 / interval w < age sv * 64 / interval sv ∨
           (age w * 64 / interval w = age sv * 64 / interval sv ∧ sv.index.val ≤ w.index.val)) →
         kind = code sv) ∧
     ∀ sv,
       (kind = code sv → u.ages.get sv.index = 0 ∧
         u.largest.get sv.index = max (age sv) (k.largest.get sv.index) ∧
         u.late.get sv.index = (if 1 ≤ interval sv ∧ interval sv < age sv then satInc (k.late.get sv.index)
           else k.late.get sv.index)) ∧
       (kind ≠ code sv → u.ages.get sv.index = age sv ∧ u.largest.get sv.index = k.largest.get sv.index ∧
         u.late.get sv.index = k.late.get sv.index))

/-- R78: a record is due on an output while repeats are left there and its next-eligible count does not lie ahead of
the cell's count, also on an output that has just entered RUN (the model's choice, log 34). The hold of a boundary
brings a count that lies behind forward and changes no record's being due, so that after a boundary no count lies
behind. R79 and R80: the earliest due record is sent on the output: its repeats there fall by 1 and its next-eligible
count becomes the cell's count plus its spacing; it leaves the pool when no repeats are left on any output. A boundary
without timed entries does this for outputs 0 to 3 in turn: a TMSG cell carries the earliest record due in the pool as
its output finds it, and the pool is left as the sends leave it. -/
def Obligations.PoolRecordsAreDueHeldAndSent : Prop :=
  (∀ (c : Count) (p : OutId) (r : PoolRecord),
     (due c p r = true ↔ 0 < r.repeats.get p ∧ (c - r.nextEligible.get p).toNat < 8388608) ∧
     (holdRecord c r).nextEligible.get p =
       (if 1 ≤ (c - r.nextEligible.get p).toNat ∧ (c - r.nextEligible.get p).toNat ≤ 8388607 then c
        else r.nextEligible.get p) ∧
     due c p (holdRecord c r) = due c p r ∧
     holdRecord c r = { r with nextEligible := (holdRecord c r).nextEligible }) ∧
  (∀ s t : State, s.inRange → exec .cellBoundary s = .next t → ∀ r, r ∈ t.pool.records → ∀ p,
     (t.tb.count - r.nextEligible.get p).toNat = 0 ∨ 8388608 ≤ (t.tb.count - r.nextEligible.get p).toNat) ∧
  (∀ (n : Count) (p : OutId) (before after : List PoolRecord) (r : PoolRecord),
     (∀ q, q ∈ before → due n p q = false) → due n p r = true →
     ∃ sent : PoolRecord, sent.key = r.key ∧ sent.content = r.content ∧ sent.target = r.target ∧
       sent.spacing = r.spacing ∧ sent.repeats.get p = r.repeats.get p - 1 ∧
       sent.nextEligible.get p = n + BitVec.ofNat 24 r.spacing ∧
       (∀ q, q ≠ p → sent.repeats.get q = r.repeats.get q ∧ sent.nextEligible.get q = r.nextEligible.get q) ∧
       ((∃ q, sent.repeats.get q ≠ 0) → sendFirst n p (before ++ r :: after) = before ++ sent :: after) ∧
       ((∀ q, sent.repeats.get q = 0) → sendFirst n p (before ++ r :: after) = before ++ after)) ∧
  (∀ s t : State, exec .cellBoundary s = .next t → s.queue.entries = [] →
     t.pool.records = s.poolAt t 4 ∧
     ∀ p cell, (s.outCfg p).enable = true → (t.lane p).asm.cell = some cell → cell.control.toNat / 16 = 4 →
       ∃ before r after, s.poolAt t p.val = before ++ r :: after ∧ (∀ q, q ∈ before → due t.tb.count p q = false) ∧
         due t.tb.count p r = true ∧
         cell.payload = BitVec.ofNat 64 (natOf (bytesOf 2 r.key.toNat ++ bytesOf 6 r.content.toNat)))

/-- R53: at a boundary a record asks for a burst on a running output that carries it and is not the output it is linked
to, where its AN for the cell that begins differs from that for the cell before (0 at the first boundary after a reset,
R54); of several the lowest slot. A record relinked by a timed NEIGHBOUR is compared at that boundary (the model's
choice, log 33). R61 and R62: the request waits for the next boundary; there the burst begins at segment 0 in place of
one still running, which is counted then (log 25), and ends early where its slot is no longer carried; segment 1 follows
segment 0 and ends it; a cell of the announce burst leaves it as it stands. R52: a NEIGHBOUR cell outside a burst comes
from the first carried record from the next slot on, with segment 1 only after segment 0 of that slot, and moves the
cycle; any other cell leaves it. The payload of a NEIGHBOUR cell is that record's, for that segment (R9, R174). -/
def Obligations.NeighbourBurstsAndCycleRun : Prop :=
  (∀ (s t : State) (p : OutId), exec .cellBoundary s = .next t → (s.outCfg p).enable = true →
     let asks (slot : SlotId) : Prop := ∃ r before, t.content.neighbours.get slot = some r ∧
       r.carriers.getLsbD p.val = true ∧ r.link ≠ some p ∧
       (if s.tb.start = .running then s.content.prevAn.get slot = some before else before = false) ∧
       (match r.link with
         | none => r.ext.an
         | some q => (t.lane q).run && (t.lane q).seq.phase != .quiet) ≠ before
     (∀ slot, asks slot → (∀ i, i < slot → ¬ asks i) → (t.lane p).sched.nbPending = some slot) ∧
     ((∀ slot, ¬ asks slot) → (t.lane p).sched.nbPending = none) ∧
     ∀ slot, t.content.prevAn.get slot = (match t.content.neighbours.get slot with
       | none => none
       | some r => some (match r.link with
         | none => r.ext.an
         | some q => (t.lane q).run && (t.lane q).seq.phase != .quiet))) ∧
  (∀ (s t : State) (p : OutId) (cell : Cell) (k u : Scheduler) (kind : Nat),
     exec .cellBoundary s = .next t → (s.lane p).run = true → (s.outCfg p).enable = true →
     (t.lane p).asm.cell = some cell → k = (s.lane p).sched → u = (t.lane p).sched → kind = cell.control.toNat / 16 →
     let carried (slot : SlotId) : Prop :=
       ∃ r, t.content.neighbours.get slot = some r ∧ r.carriers.getLsbD p.val = true
     let sends (slot : SlotId) (second : Bool) : Prop :=
       ∃ (r : Neighbour) (f : Flags3), t.content.neighbours.get slot = some r ∧
         f = (match r.link with
           | none => r.ext
           | some q => { tc := (s.outCfg q).tc, an := (t.lane q).run && (t.lane q).seq.phase != .quiet
                         rg := (t.out q).source == .regional }) ∧
         cell.payload = BitVec.ofNat 64 (natOf (bytesOf 2 r.identity.toNat ++
           [BitVec.ofNat 8 (f.tc.toNat * 128 + f.an.toNat * 64 + f.rg.toNat * 32 + second.toNat * 16 + r.freq / 256),
             BitVec.ofNat 8 (r.freq % 256)] ++
           (List.range 4).map fun j => r.label.getD (4 * second.toNat + j) 0x20))
     (∀ slot, k.nbPending = some slot → u.begun = satInc k.begun ∧
       u.replaced = (if k.nbRunning = none then k.replaced else satInc k.replaced) ∧
       (carried slot → u.endedEarly = k.endedEarly ∧
         (kind = 6 ∧ u.nbRunning = some ⟨slot, false⟩ ∨
           kind = 5 ∧ u.nbRunning = some ⟨slot, true⟩ ∧ sends slot false)) ∧
       (¬ carried slot → u.nbRunning = none ∧ u.endedEarly = satInc k.endedEarly)) ∧
     (∀ b, k.nbPending = none → k.nbRunning = some b → u.begun = k.begun ∧ u.replaced = k.replaced ∧
       (carried b.slot → u.endedEarly = k.endedEarly ∧
         (kind = 6 ∧ u.nbRunning = some b ∨
           kind = 5 ∧ u.nbRunning = (if b.second then none else some ⟨b.slot, true⟩) ∧ sends b.slot b.second)) ∧
       (¬ carried b.slot → u.nbRunning = none ∧ u.endedEarly = satInc k.endedEarly)) ∧
     (k.nbPending = none → k.nbRunning = none → u.nbRunning = none ∧ u.begun = k.begun ∧
       u.replaced = k.replaced ∧ u.endedEarly = k.endedEarly) ∧
     ((∃ slot, carried slot ∧ (k.nbPending = some slot ∨
           k.nbPending = none ∧ ∃ second, k.nbRunning = some ⟨slot, second⟩)) ∨ kind ≠ 5 →
       (t.out p).nbSlot = (s.out p).nbSlot ∧ (t.out p).nbSeg = (s.out p).nbSeg) ∧
     (∀ i : SlotId, kind = 5 → carried ((s.out p).nbSlot + i) →
       (∀ j, j < i → ¬ carried ((s.out p).nbSlot + j)) →
       (∀ slot, k.nbPending = some slot → ¬ carried slot) →
       (∀ b, k.nbPending = none → k.nbRunning = some b → ¬ carried b.slot) →
       ((i ≠ 0 ∨ (s.out p).nbSeg = false) →
         (t.out p).nbSlot = (s.out p).nbSlot + i ∧ (t.out p).nbSeg = true ∧ sends ((s.out p).nbSlot + i) false) ∧
       (i = 0 → (s.out p).nbSeg = true →
         (t.out p).nbSlot = (s.out p).nbSlot + 1 ∧ (t.out p).nbSeg = false ∧ sends (s.out p).nbSlot true)))

/-- TOKEN_GAIN and R158: at a boundary a link's token count rises by 1, and where it reaches the interval it returns
to 0 and the link gains a token if it holds fewer than 32. The row is such a boundary (log 3). -/
def Obligations.LinksGainTokensAtBoundaries : Prop :=
  ∀ (s : State) (l : LinkId),
    ((s.linkCfg l).interval ≤ (s.link l).tokenCount + 1 →
      ∃ t, exec (.tokenGain l) s = .next t ∧ exec .cellBoundary s = .next t ∧ (t.link l).tokenCount = 0 ∧
        (t.link l).tokens = (if (s.link l).tokens < 32 then (s.link l).tokens + 1 else (s.link l).tokens)) ∧
    ((s.link l).tokenCount + 1 < (s.linkCfg l).interval →
      exec (.tokenGain l) s = .next s ∧
      ∃ t, exec .cellBoundary s = .next t ∧ (t.link l).tokenCount = (s.link l).tokenCount + 1 ∧
        (t.link l).tokens = (s.link l).tokens)

/-! ## REF and EPOCH (R21, R22, R24, R28 to R34) -/

/-- R19 and R21: in MASTER, and before the first boundary, REF and EPOCH do nothing. REF_EDGE and REF_GAP, R22 and
R24: a period between 1/19,038 s and 1/18,962 s is kept for the average; one outside, or a gap, marks the cell and
takes a LOCKED timebase into HOLDOVER with REF_LOST set and one entry counted. The period is in femtoseconds (log 8),
and the first edge after a reset or a change of mode closes none (log 10). -/
def Obligations.RefAndEpochAreTakenByMode : Prop :=
  (∀ (s : State) (period : Nat), (s.settings.mode = .master ∨ s.tb.start ≠ .running) →
     exec (.refEdge period) s = .next s ∧ exec .refGap s = .next s ∧ exec .epochStrobe s = .next s) ∧
  (∀ (s : State) (period : Nat), s.settings.mode = .slave → s.tb.start = .running →
     let lost (t : Timebase) : State :=
       { s with
         tb := { t with lock := .holdover, holdover := 0, qual := 0, judged := false
                        counters := { t.counters with holdoverEntries := satInc t.counters.holdoverEntries } }
         store := { s.store with
           faults := s.store.faults ||| 2
           alert := decide ((s.store.faults ||| 2) &&& s.settings.alertMask ≠ 0) } }
     let measured : Timebase := { s.tb with
       refWatch := .edgeSeen, refPeriods := s.tb.refPeriods + 1, refTime := s.tb.refTime + period }
     (s.tb.refWatch = .noEdge → exec (.refEdge period) s = .next { s with tb := { s.tb with refWatch := .edgeSeen } }) ∧
     (s.tb.refWatch = .edgeSeen → 10 ^ 15 ≤ 19038 * period → 18962 * period ≤ 10 ^ 15 →
       exec (.refEdge period) s = .next { s with tb := measured }) ∧
     (s.tb.refWatch = .edgeSeen ∧ (19038 * period < 10 ^ 15 ∨ 10 ^ 15 < 18962 * period) ∨ s.tb.refWatch = .gapSeen →
       (s.tb.lock = .locked → exec (.refEdge period) s = .next (lost { measured with refBad := true })) ∧
       (s.tb.lock ≠ .locked → exec (.refEdge period) s = .next { s with tb := { measured with refBad := true } })) ∧
     (s.tb.refWatch = .edgeSeen →
       (s.tb.lock = .locked → exec .refGap s = .next (lost { s.tb with refWatch := .gapSeen, refBad := true })) ∧
       (s.tb.lock ≠ .locked →
         exec .refGap s = .next { s with tb := { s.tb with refWatch := .gapSeen, refBad := true } })) ∧
     (s.tb.refWatch ≠ .edgeSeen → exec .refGap s = .next s))

/-- R29: the multiple of 1024 nearest to a count modulo 2^24, the higher one from halfway. EPOCH_STROBE near a
boundary, R28, R29, R33 and R34: in the first bit period it marks the cell in progress, in the last the next cell; the
marked cell's count is the armed value or the nearest multiple of 1024, and the arm clears; a strobe that changes
nothing is counted as aligned; a change of the count in the first bit period is a jump (one decided in the last bit
period is a jump at the boundary: TheCountAdvances). R27: such a change gives the EPOUT pulse from the strobe, to the
second end of a bit period (log 12), unless the cell had an epoch count from its start. At such a jump every next-
eligible count of the pool becomes the new count (R81), and the entries whose delta is the forward distance or less
leave the queue and are handed to their owners at once, in queue order (EntriesAreQueuedAndApplied says how), each
counted as applied late and recorded with the new count (R137, R139, R141), or all entries are discarded, without a
record, where that distance is above 36,000 (R140). -/
def Obligations.StrobesAreMeasured : Prop :=
  (∀ c : Count, (Timebase.nearestEpoch c).toNat % 1024 = 0 ∧
     ((Timebase.nearestEpoch c - c).toNat ≤ 512 ∨ (c - Timebase.nearestEpoch c).toNat < 512)) ∧
  (∀ s : State, s.settings.mode = .slave → s.tb.start = .running →
     let aligned : Timebase := { s.tb with counters := { s.tb.counters with aligned := satInc s.tb.counters.aligned } }
     (s.tb.bitPos = 0 →
       (s.tb.markThis = true → exec .epochStrobe s = .next { s with tb := aligned }) ∧
       (s.tb.markThis = false → s.tb.arm.getD (Timebase.nearestEpoch s.tb.count) = s.tb.count →
         exec .epochStrobe s = .next { s with tb := { aligned with markThis := true, arm := none } }) ∧
       (∀ v, s.tb.markThis = false → v = s.tb.arm.getD (Timebase.nearestEpoch s.tb.count) → v ≠ s.tb.count →
         ∃ t, exec .epochStrobe s = .next t ∧ t.tb.count = v ∧ t.tb.markThis = true ∧ t.tb.arm = none ∧
           t.tb.bitPos = 0 ∧ t.tb.counters = { s.tb.counters with jumps := satInc s.tb.counters.jumps } ∧
           (s.tb.count.toNat % 1024 ≠ 0 → t.tb.epout = true ∧ t.tb.epoutEnds = 2) ∧
           (s.tb.count.toNat % 1024 = 0 → t.tb.epout = s.tb.epout ∧ t.tb.epoutEnds = s.tb.epoutEnds) ∧
           t.store.faults = s.store.faults ||| 4 ∧
           (∀ r, r ∈ t.pool.records → r.nextEligible = .replicate 4 v) ∧
           (36000 < (v - s.tb.count).toNat → t.queue.entries = [] ∧ t.queue.results = s.queue.results ∧
             t.queue.counters = { s.queue.counters with
               discarded := satAdd s.queue.counters.discarded s.queue.entries.length }) ∧
           (∀ late, (v - s.tb.count).toNat ≤ 36000 →
             late = (s.queue.entries.filter fun e =>
               decide ((e.cell - s.tb.count).toNat ≤ (v - s.tb.count).toNat)) →
             t.queue.entries = (s.queue.entries.filter fun e =>
               decide ((v - s.tb.count).toNat < (e.cell - s.tb.count).toNat)) ∧
             t.queue.counters.applied = satAdd s.queue.counters.applied late.length ∧
             t.queue.counters.appliedLate = satAdd s.queue.counters.appliedLate late.length ∧
             t.queue.counters.discarded = s.queue.counters.discarded ∧
             (∀ l, (∀ e, e ∈ late → e.link ≠ l) → t.queue.results.get l = s.queue.results.get l) ∧
             (∀ before e later, late = before ++ e :: later → (∀ f, f ∈ later → f.link ≠ e.link) →
               ∃ status, t.queue.results.get e.link =
                 some { tag := e.tag, cmd := e.cmd.cmd, status := status, count := v }) ∧
             t = late.foldl (fun u e => applyEntry true v e u)
               { s with
                 tb := { s.tb with
                   count := v, markThis := true, arm := none, epout := t.tb.epout, epoutEnds := t.tb.epoutEnds
                   counters := { s.tb.counters with jumps := satInc s.tb.counters.jumps } }
                 store := { s.store with
                   faults := s.store.faults ||| 4
                   alert := decide ((s.store.faults ||| 4) &&& s.settings.alertMask ≠ 0) }
                 pool := { s.pool with
                   records := s.pool.records.map fun r => { r with nextEligible := .replicate 4 v } }
                 queue := { s.queue with
                   entries := s.queue.entries.filter fun e =>
                     decide ((v - s.tb.count).toNat < (e.cell - s.tb.count).toNat) } }))) ∧
     (s.tb.bitPos = 113 →
       (s.tb.markNext ≠ none → exec .epochStrobe s = .next { s with tb := aligned }) ∧
       (∀ v, s.tb.markNext = none → v = s.tb.arm.getD (Timebase.nearestEpoch (s.tb.count + 1)) →
         exec .epochStrobe s = .next { s with
           tb := { (if v = s.tb.count + 1 then aligned else s.tb) with markNext := some v, arm := none } })))

/-- EPOCH_STROBE inside a cell, R12, R16, R29, R30, R33 and R34: the cell of every running output is cut and counted,
a realignment is counted, and the marked cell begins at bit 0 with the count of R29. R30: the strobe is a boundary in
every respect: it does all that CELL_BOUNDARY does in the state in which the next cell is so marked. -/
def Obligations.StrobesCutCells : Prop :=
  ∀ (s : State) (v : Count), s.settings.mode = .slave → s.tb.start = .running → 1 ≤ s.tb.bitPos → s.tb.bitPos ≤ 112 →
    v = s.tb.arm.getD (Timebase.nearestEpoch (s.tb.count + 1)) →
    ∃ t, exec .epochStrobe s = .next t ∧ t.tb.count = v ∧ t.tb.bitPos = 0 ∧ t.tb.markThis = true ∧ t.tb.arm = none ∧
      t.tb.counters.realignments = satInc s.tb.counters.realignments ∧
      t.tb.counters.jumps = (if v = s.tb.count + 1 then s.tb.counters.jumps else satInc s.tb.counters.jumps) ∧
      t.store.faults = (if v = s.tb.count + 1 then s.store.faults else s.store.faults ||| 4) ∧
      (∀ p, (t.lane p).asm.truncated =
        if (s.lane p).run then satInc (s.lane p).asm.truncated else (s.lane p).asm.truncated) ∧
      exec .cellBoundary { s with
        tb := { s.tb with
          markNext := some v, arm := none
          counters := { s.tb.counters with realignments := satInc s.tb.counters.realignments } }
        lanes := .tabulate fun p =>
          if (s.lane p).run then { s.lane p with asm := { (s.lane p).asm with
            truncated := satInc (s.lane p).asm.truncated } }
          else s.lane p } = .next t

/-! ## Cue lines (R119 to R128) -/

/-- CUE_SAMPLE and CUE_CHANGE_ACCEPTED, R121 and R122: a line in OFF is not sampled; a sample that differs from the
accepted level advances the debounce counter, one that agrees returns it to 0 and counts a bounce; the N-th differing
sample is accepted, captured with the count and the bit index, and counted. CUE_CHANGE_ACCEPTED is that sample
(the model's choice, log 3) and changes nothing where no change is accepted (log 1). -/
def Obligations.CueLinesAreSampledAndDebounced : Prop :=
  ∀ (s : State) (c : LineId) (high coincident differs : Bool),
    differs = ((if (s.cueCfg c).polarity = .activeHigh then high else !high) != (s.cue c).active) →
    ((s.cueCfg c).mode = .off → exec (.cueSample c high coincident) s = .next s ∧
      exec (.cueChangeAccepted c high coincident) s = .next s) ∧
    ((s.cueCfg c).mode ≠ .off → differs = false → exec (.cueSample c high coincident) s = .next (s.modCue c fun k =>
      { k with debounce := 0
               counters := { k.counters with
                 bounces := if k.debounce = 0 then k.counters.bounces else satInc k.counters.bounces } })) ∧
    ((s.cueCfg c).mode ≠ .off → differs = true → (s.cue c).debounce + 1 < (s.cueCfg c).debounce →
      exec (.cueSample c high coincident) s = .next (s.modCue c fun k => { k with debounce := k.debounce + 1 })) ∧
    ((s.cueCfg c).mode ≠ .off → (differs = false ∨ (s.cue c).debounce + 1 < (s.cueCfg c).debounce) →
      exec (.cueChangeAccepted c high coincident) s = .next s) ∧
    ((s.cueCfg c).mode ≠ .off → differs = true → (s.cueCfg c).debounce ≤ (s.cue c).debounce + 1 →
      ∃ t, exec (.cueSample c high coincident) s = .next t ∧ exec (.cueChangeAccepted c high coincident) s = .next t ∧
        (t.cue c).active = (!(s.cue c).active) ∧ (t.cue c).debounce = 0 ∧
        (t.cue c).capture = some { active := !(s.cue c).active, count := s.tb.count, bit := s.tb.bitPos } ∧
        (t.cue c).counters.accepted = satInc (s.cue c).counters.accepted)

/-- R93, R123 and R125: a LEVEL line accepted ACTIVE enters a claim from its template where its target is not empty,
its key is not held and a place is free; with an empty target or its key held it stays pending and counts a failure;
accepted INACTIVE it is no longer pending and its claim ends RELEASED, or nothing ends where it holds none. A full
table and an acceptance on a boundary: CueEntriesMeetTheTableAndTheBoundary. -/
def Obligations.LevelLinesEnterAndReleaseTheirClaim : Prop :=
  ∀ (s : State) (c : LineId) (high : Bool), (s.cueCfg c).mode = .level → (s.cue c).due = none →
    (s.cueCfg c).debounce ≤ (s.cue c).debounce + 1 →
    (if (s.cueCfg c).polarity = .activeHigh then high else !high) ≠ (s.cue c).active →
    ((s.cue c).active = false → (s.cueCfg c).target ≠ 0 → (∀ d, d ∈ s.claims.table → d.key ≠ ⟨.cue c, 0⟩) →
      s.claims.table.length < 8 → s.claims.nextStamp ≠ BitVec.allOnes 32 →
      ∃ t, exec (.cueChangeAccepted c high false) s = .next t ∧
        t.claims.table = s.claims.table ++ [{
          key := ⟨.cue c, 0⟩, kind := .levelCue, cls := (s.cueCfg c).cls, priority := (s.cueCfg c).priority
          group := (s.cueCfg c).group, target := (s.cueCfg c).target, holdLimit := (s.cueCfg c).holdLimit
          waitLimit := (s.cueCfg c).waitLimit, holdUsed := 0, waitUsed := 0, stamp := s.claims.nextStamp
          status := .tabulate fun p => if inMask (s.cueCfg c).target p then .ineligible else .notTarget }] ∧
        (t.cue c).pending = false ∧ (t.cue c).counters.admitted = satInc (s.cue c).counters.admitted) ∧
    ((s.cue c).active = false → ((s.cueCfg c).target = 0 ∨ ∃ d, d ∈ s.claims.table ∧ d.key = ⟨.cue c, 0⟩) →
      ∃ t, exec (.cueChangeAccepted c high false) s = .next t ∧ t.claims = s.claims ∧ (t.cue c).pending = true ∧
        (t.cue c).counters.failures = satInc (s.cue c).counters.failures) ∧
    (∀ d, (s.cue c).active = true → claimHeld s ⟨.cue c, 0⟩ = some d →
      ∃ t, exec (.cueChangeAccepted c high false) s = .next t ∧ (t.cue c).pending = false ∧
        t.claims.table = (s.claims.table.filter fun e => e.key != d.key) ∧
        t.claims.lastEnded.get (originIndex d.key.origin) = some { number := d.key.number, cls := d.cls
                                                                   reason := .released, count := s.tb.count
                                                                   onAir := d.holdUsed }) ∧
    ((s.cue c).active = true → (∀ d, d ∈ s.claims.table → d.key ≠ ⟨.cue c, 0⟩) →
      ∃ t, exec (.cueChangeAccepted c high false) s = .next t ∧ t.claims = s.claims ∧ (t.cue c).pending = false ∧
        (t.cue c).active = false)

/-- R93, R122, R126 and R127: a PULSE line accepted ACTIVE restarts the hold time of its claim where one is held, which
counts a retrigger, and else enters one from its template; an entry with an empty target counts an admission failure
and is not tried again. Accepted INACTIVE it makes no request. A full table and an acceptance on
a boundary: CueEntriesMeetTheTableAndTheBoundary. -/
def Obligations.PulseLinesEnterOrRetriggerTheirClaim : Prop :=
  ∀ (s : State) (c : LineId) (high : Bool), (s.cueCfg c).mode = .pulse → (s.cue c).due = none →
    (s.cueCfg c).debounce ≤ (s.cue c).debounce + 1 →
    (if (s.cueCfg c).polarity = .activeHigh then high else !high) ≠ (s.cue c).active →
    ((s.cue c).active = false → (s.cueCfg c).target ≠ 0 → (∀ d, d ∈ s.claims.table → d.key ≠ ⟨.cue c, 0⟩) →
      s.claims.table.length < 8 → s.claims.nextStamp ≠ BitVec.allOnes 32 →
      ∃ t, exec (.cueChangeAccepted c high false) s = .next t ∧
        t.claims.table = s.claims.table ++ [{
          key := ⟨.cue c, 0⟩, kind := .pulseCue, cls := (s.cueCfg c).cls, priority := (s.cueCfg c).priority
          group := (s.cueCfg c).group, target := (s.cueCfg c).target, holdLimit := (s.cueCfg c).holdLimit
          waitLimit := (s.cueCfg c).waitLimit, holdUsed := 0, waitUsed := 0, stamp := s.claims.nextStamp
          status := .tabulate fun p => if inMask (s.cueCfg c).target p then .ineligible else .notTarget }] ∧
        (t.cue c).counters.admitted = satInc (s.cue c).counters.admitted) ∧
    (∀ d, (s.cue c).active = false → claimHeld s ⟨.cue c, 0⟩ = some d →
      ∃ t, exec (.cueChangeAccepted c high false) s = .next t ∧
        t.claims = { s.claims with
          table := s.claims.table.map fun e => if e.key = ⟨.cue c, 0⟩ then { e with holdUsed := 0 } else e } ∧
        (t.cue c).counters.retriggers = satInc (s.cue c).counters.retriggers ∧
        (t.cue c).counters.admitted = (s.cue c).counters.admitted) ∧
    ((s.cue c).active = false → (∀ d, d ∈ s.claims.table → d.key ≠ ⟨.cue c, 0⟩) → (s.cueCfg c).target = 0 →
      ∃ t, exec (.cueChangeAccepted c high false) s = .next t ∧ t.claims = s.claims ∧ (t.cue c).pending = false ∧
        (t.cue c).counters.failures = satInc (s.cue c).counters.failures) ∧
    ((s.cue c).active = true → ∃ t, exec (.cueChangeAccepted c high false) s = .next t ∧ t.claims = s.claims ∧
      (t.cue c).active = false ∧
      (t.cue c).capture = some { active := false, count := s.tb.count, bit := s.tb.bitPos })

/-- R92, R93, R123 and R126: where a line accepted ACTIVE asks for entry into a full table, the lowest-ranked claim
that is current nowhere ends DISPLACED if the template's priority is higher; otherwise nothing is entered, the line
counts a failure, the claim group a full refusal, and a LEVEL line stays pending. R121: a change accepted on a
boundary leaves the claims to that boundary, where its request waits (the model's choice, log 21). R124, R126: at the
boundary a waiting entry request, or the retry of a pending LEVEL line, enters a claim with the count of the cell that
begins; a retry that is refused leaves the line as it stands and, for a full table, counts in the claim group alone
(log 32); a waiting request that is refused is not retried at the same boundary (log 46). R92, R99, R125, R126 at a
boundary: an entry or retry displaces as between boundaries; an end request ends the line's claim RELEASED, or
nothing; a retrigger starts its hold time afresh, or counts a failure where no claim is held; where it meets the
claim's expiry either can come first. Every end has the count of the cell that begins. -/
def Obligations.CueEntriesMeetTheTableAndTheBoundary : Prop :=
  (∀ (s : State) (c : LineId) (high : Bool), (s.cueCfg c).mode ≠ .off → (s.cue c).due = none →
     (s.cueCfg c).debounce ≤ (s.cue c).debounce + 1 → (s.cue c).active = false →
     (if (s.cueCfg c).polarity = .activeHigh then high else !high) = true → (s.cueCfg c).target ≠ 0 →
     (∀ d, d ∈ s.claims.table → d.key ≠ ⟨.cue c, 0⟩) → s.claims.table.length = 8 →
     ((∀ d, d ∈ s.claims.table → d.currentNowhere = true → (s.cueCfg c).priority ≤ d.priority) →
       ∃ t, exec (.cueChangeAccepted c high false) s = .next t ∧
         t.claims = { s.claims with
           counters := { s.claims.counters with refusedFull := satInc s.claims.counters.refusedFull } } ∧
         (t.cue c).pending = decide ((s.cueCfg c).mode = .level) ∧
         (t.cue c).counters.failures = satInc (s.cue c).counters.failures) ∧
     (∀ d, s.claims.nextStamp ≠ BitVec.allOnes 32 → d ∈ s.claims.table → d.currentNowhere = true →
       d.priority < (s.cueCfg c).priority →
       (∀ e, e ∈ s.claims.table → e.currentNowhere = true → e ≠ d → outranks e d = true ∧ outranks d e = false) →
       ∃ t, exec (.cueChangeAccepted c high false) s = .next t ∧
         t.claims = {
           table := (s.claims.table.filter fun e => e.key != d.key) ++ [{
             key := ⟨.cue c, 0⟩, kind := if (s.cueCfg c).mode = .pulse then .pulseCue else .levelCue
             cls := (s.cueCfg c).cls, priority := (s.cueCfg c).priority, group := (s.cueCfg c).group
             target := (s.cueCfg c).target, holdLimit := (s.cueCfg c).holdLimit
             waitLimit := (s.cueCfg c).waitLimit, holdUsed := 0, waitUsed := 0, stamp := s.claims.nextStamp
             status := .tabulate fun p => if inMask (s.cueCfg c).target p then .ineligible else .notTarget }]
           nextStamp := s.claims.nextStamp + 1
           lastEnded := s.claims.lastEnded.set (originIndex d.key.origin)
             (some { number := d.key.number, cls := d.cls, reason := .displaced, count := s.tb.count
                     onAir := d.holdUsed })
           counters := { s.claims.counters with
             admitted := satInc s.claims.counters.admitted
             ended := s.claims.counters.ended.modify 4 satInc } } ∧
         (t.cue c).pending = false ∧ (t.cue c).counters.admitted = satInc (s.cue c).counters.admitted)) ∧
  (∀ (s : State) (c : LineId) (high active : Bool), (s.cueCfg c).mode ≠ .off → (s.cue c).due = none →
     (s.cueCfg c).debounce ≤ (s.cue c).debounce + 1 → active = !(s.cue c).active →
     (if (s.cueCfg c).polarity = .activeHigh then high else !high) = active →
     ∃ t, exec (.cueChangeAccepted c high true) s = .next t ∧ t.claims = s.claims ∧ (t.cue c).active = active ∧
       ((s.cueCfg c).mode = .level → (t.cue c).due = (if active then some .entry else some .finish) ∧
         (t.cue c).pending = ((s.cue c).pending && active)) ∧
       ((s.cueCfg c).mode = .pulse → active = true → (t.cue c).due =
         (if ∃ d, d ∈ s.claims.table ∧ d.key = ⟨.cue c, 0⟩ then some .retrigger else some .entry)) ∧
       ((s.cueCfg c).mode = .pulse → active = false → (t.cue c).due = none)) ∧
  (∀ (s t : State) (c : LineId) (asked : Change), s.tb.start = .running → s.tb.markNext = none →
     (s.settings.mode = .master → s.tb.arm = none) → s.queue.entries = [] → s.onlyAsk [asked] →
     (asked = .request c .entry ∨ asked = .retry c) → exec .cellBoundary s = .next t →
     (t.cue c).due = (if asked = .retry c then (s.cue c).due else none) ∧
     ((s.cueCfg c).target ≠ 0 → (∀ d, d ∈ s.claims.table → d.key ≠ ⟨.cue c, 0⟩) → s.claims.table.length < 8 →
       s.claims.nextStamp ≠ BitVec.allOnes 32 →
       (∃ held new, t.claims.table = held ++ [new] ∧ held.map Claim.key = s.claims.table.map Claim.key ∧
         new.key = ⟨.cue c, 0⟩ ∧ new.stamp = s.claims.nextStamp ∧ new.cls = (s.cueCfg c).cls ∧
         new.priority = (s.cueCfg c).priority ∧ new.group = (s.cueCfg c).group ∧
         new.target = (s.cueCfg c).target ∧ new.holdLimit = (s.cueCfg c).holdLimit ∧
         new.waitLimit = (s.cueCfg c).waitLimit ∧
         new.kind = if (s.cueCfg c).mode = .pulse then .pulseCue else .levelCue) ∧
       t.claims.nextStamp = s.claims.nextStamp + 1 ∧ (t.cue c).pending = false ∧
       (t.cue c).counters = { (s.cue c).counters with admitted := satInc (s.cue c).counters.admitted } ∧
       t.claims.counters = { s.claims.counters with admitted := satInc s.claims.counters.admitted }) ∧
     ((s.cueCfg c).target = 0 ∨ (∃ d, d ∈ s.claims.table ∧ d.key = ⟨.cue c, 0⟩) ∨
         (s.claims.table.length = 8 ∧
           ∀ d, d ∈ s.claims.table → d.currentNowhere = true → (s.cueCfg c).priority ≤ d.priority) →
       (asked = .retry c → t.cue c = s.cue c) ∧
       (asked = .request c .entry → (t.cue c).pending = decide ((s.cueCfg c).mode = .level) ∧
         (t.cue c).counters = { (s.cue c).counters with failures := satInc (s.cue c).counters.failures })) ∧
     ((∀ d, d ∈ s.claims.table → d.key ≠ ⟨.cue c, 0⟩) → (s.cueCfg c).target ≠ 0 → s.claims.table.length = 8 →
       (∀ d, d ∈ s.claims.table → d.currentNowhere = true → (s.cueCfg c).priority ≤ d.priority) →
       t.claims.table.map Claim.key = s.claims.table.map Claim.key ∧
       t.claims.counters = { s.claims.counters with refusedFull := satInc s.claims.counters.refusedFull }) ∧
     ((s.cueCfg c).target = 0 ∨ (∃ d, d ∈ s.claims.table ∧ d.key = ⟨.cue c, 0⟩) →
       t.claims.table.map Claim.key = s.claims.table.map Claim.key ∧ t.claims.counters = s.claims.counters)) ∧
  (∀ (s t : State) (c : LineId), s.tb.start = .running → s.tb.markNext = none →
     (s.settings.mode = .master → s.tb.arm = none) → s.queue.entries = [] → exec .cellBoundary s = .next t →
     let ended (d : Claim) (reason : EndReason) : Table 12 (Option Ended) :=
       s.claims.lastEnded.set (originIndex d.key.origin)
         (some { number := d.key.number, cls := d.cls, reason := reason, count := s.tb.count + 1, onAir := d.holdUsed })
     let without (key : ClaimKey) : List ClaimKey := (s.claims.table.map Claim.key).filter fun e => e != key
     let afresh : Prop := t.claims.table.map Claim.key = s.claims.table.map Claim.key ∧
       t.claims.counters = s.claims.counters ∧
       (∀ e, e ∈ t.claims.table → e.key = ⟨.cue c, 0⟩ → e.holdUsed =
         if ∃ p, e.status.get p = .current ∧ (t.lane p).seq.phase = .onAir then 1 else 0) ∧
       (t.cue c).counters = { (s.cue c).counters with retriggers := satInc (s.cue c).counters.retriggers }
     (∀ (asked : Change) (d : Claim), s.onlyAsk [asked] → (asked = .request c .entry ∨ asked = .retry c) →
       (s.cueCfg c).target ≠ 0 → (∀ e, e ∈ s.claims.table → e.key ≠ ⟨.cue c, 0⟩) → s.claims.table.length = 8 →
       s.claims.nextStamp ≠ BitVec.allOnes 32 → d ∈ s.claims.table → d.currentNowhere = true →
       d.priority < (s.cueCfg c).priority →
       (∀ e, e ∈ s.claims.table → e.currentNowhere = true → e ≠ d → outranks e d = true ∧ outranks d e = false) →
       t.claims.table.map Claim.key = without d.key ++ [⟨.cue c, 0⟩] ∧
       (∀ e, e ∈ t.claims.table → e.key = ⟨.cue c, 0⟩ → e.stamp = s.claims.nextStamp ∧
         e.priority = (s.cueCfg c).priority) ∧
       t.claims.lastEnded = ended d .displaced ∧ t.claims.nextStamp = s.claims.nextStamp + 1 ∧
       t.claims.counters = { s.claims.counters with
         admitted := satInc s.claims.counters.admitted, ended := s.claims.counters.ended.modify 4 satInc } ∧
       (t.cue c).pending = false ∧
       (t.cue c).counters = { (s.cue c).counters with admitted := satInc (s.cue c).counters.admitted }) ∧
     (s.onlyAsk [.request c .finish] → (t.cue c).pending = false ∧ (t.cue c).due = none ∧
       (t.cue c).counters = (s.cue c).counters ∧
       (∀ d, claimHeld s ⟨.cue c, 0⟩ = some d → t.claims.table.map Claim.key = without ⟨.cue c, 0⟩ ∧
         t.claims.lastEnded = ended d .released ∧
         t.claims.counters = { s.claims.counters with ended := s.claims.counters.ended.modify 0 satInc }) ∧
       ((∀ d, d ∈ s.claims.table → d.key ≠ ⟨.cue c, 0⟩) →
         t.claims.table.map Claim.key = s.claims.table.map Claim.key ∧ t.claims.lastEnded = s.claims.lastEnded ∧
         t.claims.counters = s.claims.counters)) ∧
     (s.onlyAsk [.request c .retrigger] → (t.cue c).due = none ∧ t.claims.lastEnded = s.claims.lastEnded ∧
       ((∃ d, d ∈ s.claims.table ∧ d.key = ⟨.cue c, 0⟩) → afresh) ∧
       ((∀ d, d ∈ s.claims.table → d.key ≠ ⟨.cue c, 0⟩) →
         t.claims.table.map Claim.key = s.claims.table.map Claim.key ∧ t.claims.counters = s.claims.counters ∧
         (t.cue c).counters = { (s.cue c).counters with failures := satInc (s.cue c).counters.failures })) ∧
     (∀ d, s.onlyAsk [.expiry ⟨.cue c, 0⟩, .request c .retrigger] → claimHeld s ⟨.cue c, 0⟩ = some d →
       d.kind = .pulseCue → d.holdLimit ≠ 0 → d.holdLimit ≤ d.holdUsed.toNat →
       (d.waitLimit = 0 ∨ d.waitUsed.toNat < d.waitLimit) →
       (afresh ∧ t.claims.lastEnded = s.claims.lastEnded) ∨
       (t.claims.table.map Claim.key = without ⟨.cue c, 0⟩ ∧ t.claims.lastEnded = ended d .elapsed ∧
         t.claims.counters = { s.claims.counters with ended := s.claims.counters.ended.modify 2 satInc } ∧
         (t.cue c).counters = { (s.cue c).counters with failures := satInc (s.cue c).counters.failures })))

/-! ## Links (R143 to R150, R159) -/

/-- LINK_BYTE_RECEIVED, R144 to R147 and R150: what an arriving byte does to the receiver. A link that is off ignores
it, and one that hunts every byte but 0xC5, which begins a frame. Within a frame a raw 0xCA sets the escape mark; the
byte after it is stored combined with 0x20 where that gives a special value; any other byte is stored as it is. The
second stored byte closes the length, which must lie from 5 to 320; the body and two check bytes follow, and a frame
whose check agrees waits and is counted. A defect discards the frame and counts a check error: a defective byte, a
wrong length, a wrong check, a raw 0xC1 or 0xC3, a raw 0xC5, which begins a new frame, or a byte after the escape byte
that gives no special value, be it raw itself (log 15). A byte that must be stored in a full buffer is an overrun and
sets FRAME_LOSS. -/
def Obligations.ArrivingBytesAreDeframed : Prop :=
  ∀ (s : State) (l : LinkId) (k : LinkState), k = s.link l →
    let within (x : RxByte) (t : State) : Prop :=
      k.on = true ∧ k.recv ≠ .hunt ∧ exec (.linkByteReceived l x) s = .next t
    let discarded (t : State) (recv : RecvState) : Prop :=
      (t.link l).recv = recv ∧ (t.link l).stored = [] ∧ (t.link l).escape = false ∧ (t.link l).waiting = k.waiting ∧
      (t.link l).counters = { k.counters with checkErrors := satInc k.counters.checkErrors } ∧ t.store = s.store
    let stores (t : State) (recv : RecvState) (v : Byte) : Prop :=
      (t.link l).recv = recv ∧ (t.link l).stored = k.stored ++ [v] ∧ (t.link l).escape = false ∧
      (t.link l).waiting = k.waiting ∧ (t.link l).counters = k.counters ∧ t.store = s.store
    let special : List Byte := [0xC5, 0xC3, 0xC1, 0xCA]
    (∀ x, k.on = false → exec (.linkByteReceived l x) s = .next s) ∧
    (k.on = true → k.recv = .hunt → exec (.linkByteReceived l (.good 0xC5)) s =
        .next (s.modLink l fun k => { k with recv := .length, escape := false, stored := [] }) ∧
      (∀ b : Byte, b ≠ 0xC5 → exec (.linkByteReceived l (.good b)) s = .next s) ∧
      exec (.linkByteReceived l .defective) s = .next s) ∧
    (k.on = true → k.recv ≠ .hunt → k.escape = false → exec (.linkByteReceived l (.good 0xCA)) s =
      .next (s.modLink l fun k => { k with escape := true })) ∧
    (∀ t, within .defective t → discarded t .hunt) ∧
    (∀ t, k.escape = false → within (.good 0xC1) t → discarded t .hunt) ∧
    (∀ t, k.escape = false → within (.good 0xC3) t → discarded t .hunt) ∧
    (∀ t, k.escape = false → within (.good 0xC5) t → discarded t .length) ∧
    (∀ t (b : Byte), k.escape = true → b ^^^ 0x20 ∉ special → within (.good b) t → discarded t .hunt) ∧
    (∀ t (b v : Byte), (k.escape = false ∧ b ∉ special ∧ v = b ∨ k.escape = true ∧ v ∈ special ∧ v = b ^^^ 0x20) →
      within (.good b) t →
      (1024 ≤ k.occupancy → (t.link l).recv = .hunt ∧ (t.link l).stored = [] ∧ (t.link l).escape = false ∧
        (t.link l).waiting = k.waiting ∧
        (t.link l).counters = { k.counters with overruns := satInc k.counters.overruns } ∧
        t.store = { s.store with
          faults := s.store.faults ||| 16
          alert := decide ((s.store.faults ||| 16) &&& s.settings.alertMask ≠ 0) }) ∧
      (k.occupancy < 1024 → k.recv = .length →
        (k.stored = [] → stores t .length v) ∧
        (∀ h, k.stored = [h] → 5 ≤ natOf [h, v] → natOf [h, v] ≤ 320 → stores t .body v) ∧
        (∀ h, k.stored = [h] → (natOf [h, v] < 5 ∨ 320 < natOf [h, v]) → discarded t .hunt)) ∧
      (∀ n, k.occupancy < 1024 → k.recv = .body → 2 ≤ k.stored.length → n = natOf (k.stored.take 2) →
        (k.stored.length + 1 < 2 + n → stores t .body v) ∧ (2 + n ≤ k.stored.length + 1 → stores t .check v)) ∧
      (∀ n, k.occupancy < 1024 → k.recv = .check → 2 ≤ k.stored.length → n = natOf (k.stored.take 2) →
        (k.stored.length + 1 < 4 + n → stores t .check v) ∧
        (k.stored.length + 1 = 4 + n →
          (crc (k.stored.take (2 + n)) = BitVec.ofNat 16 (natOf ((k.stored ++ [v]).drop (2 + n))) →
            (t.link l).recv = .hunt ∧ (t.link l).stored = [] ∧ (t.link l).escape = false ∧
            (t.link l).waiting = k.waiting ++ [(k.stored.drop 2).take n] ∧
            (t.link l).counters = { k.counters with good := satInc k.counters.good } ∧ t.store = s.store) ∧
          (crc (k.stored.take (2 + n)) ≠ BitVec.ofNat 16 (natOf ((k.stored ++ [v]).drop (2 + n))) →
            discarded t .hunt))))

/-- R149: where the byte stored brings the occupancy to the pause level with no HOLD outstanding, HOLD is sent and
marked outstanding. R148 and R149: the take removes the oldest frame, and where the occupancy falls to the resume
level with a HOLD outstanding, GO is sent and the mark is cleared. R147, R149 and R150: so it is where a discard or an
overrun removes the frame in progress, for whatever byte; a byte that is stored and closes a bad frame can bring both.
An idle transmitter begins the byte at once, a busy one sends it behind the HOLD and GO bytes due before. -/
def Obligations.HoldAndGoFollowTheOccupancy : Prop :=
  (∀ (s : State) (l : LinkId) (b : Byte) (k : LinkState), k = s.link l → k.on = true → k.recv = .body →
     k.escape = false → b ∉ [0xC5, 0xC3, 0xC1, 0xCA] → k.occupancy < 1024 →
     k.stored.length + 1 < 2 + natAt k.stored 0 2 → 2 ≤ k.stored.length →
     (k.holdOut = true ∨ k.occupancy + 1 < (s.linkCfg l).pause → exec (.linkByteReceived l (.good b)) s =
       .next (s.modLink l fun k => { k with stored := k.stored ++ [b] })) ∧
     (k.holdOut = false → (s.linkCfg l).pause ≤ k.occupancy + 1 → k.tx ≠ none →
       exec (.linkByteReceived l (.good b)) s = .next (s.modLink l fun k =>
         { k with stored := k.stored ++ [b], holdOut := true, ctrl := k.ctrl ++ [0xC3] }))) ∧
  (∀ (cfg : LinkSettings) (k : LinkState) (body : List Byte) (rest : List (List Byte)), k.waiting = body :: rest →
     (k.take cfg).waiting = rest ∧ (k.take cfg).occupancy + body.length + 4 = k.occupancy ∧
     (k.take cfg).stored = k.stored ∧ (k.take cfg).tokens = k.tokens ∧ (k.take cfg).counters = k.counters ∧
     (k.holdOut = true → (k.take cfg).occupancy ≤ cfg.resume → (k.take cfg).holdOut = false ∧
       k.Sends (k.take cfg) [0xC1]) ∧
     (k.holdOut = false ∨ cfg.resume < (k.take cfg).occupancy → k.take cfg = { k with waiting := rest })) ∧
  (∀ (s t : State) (l : LinkId) (x : RxByte) (k : LinkState), k = s.link l → k.on = true → k.recv ≠ .hunt →
     exec (.linkByteReceived l x) s = .next t →
     let special : List Byte := [0xC5, 0xC3, 0xC1, 0xCA]
     let stored : Bool := decide (k.occupancy < 1024) && match x with
       | .defective => false
       | .good b => if k.escape then decide (b ^^^ 0x20 ∈ special) else decide (b ∉ special)
     let hold : Bool := stored && !k.holdOut && decide ((s.linkCfg l).pause ≤ k.occupancy + 1)
     let removed : Bool := decide ((t.link l).waiting = k.waiting) &&
       (decide ((t.link l).recv = .hunt) || !k.escape && decide (x = .good 0xC5))
     let go : Bool := removed && (k.holdOut || hold) &&
       decide ((k.waiting.map fun body => body.length + 4).sum ≤ (s.linkCfg l).resume)
     (t.link l).holdOut = ((k.holdOut || hold) && !go) ∧
     k.Sends (t.link l) ((if hold then [0xC3] else []) ++ if go then [0xC1] else []))

/-- R159: a reply whose frame fits the free space of 512 bytes is placed after the others; one that does not is
dropped whole and counted. A transmitter with nothing to send begins the reply with its start byte, which takes no place
in the buffer (log 15). LINK_BYTE_SENT, R145, R149 and R159: a reply byte that has been sent frees its place; a special
value is sent as the escape byte and the value combined with 0x20; HOLD and GO go out ahead of every reply byte still
waiting, between two bytes of a reply too; each place that a RESTART, a disable or a change of rate waits for comes a
byte nearer. With nothing being sent the row changes nothing (log 1). -/
def Obligations.RepliesArePlacedAndSent : Prop :=
  (∀ (k : LinkState) (body : List Byte),
     (k.replyBytes + body.length + 4 ≤ 512 → (k.placeReply body).replyBytes = k.replyBytes + body.length + 4 ∧
       (k.placeReply body).counters = k.counters ∧ (k.placeReply body).waiting = k.waiting ∧
       ∃ frame, (k.placeReply body).replies = k.replies ++ [{ begun := false, escaped := false, bytes := frame }] ∧
         frame = bytesOf 2 body.length ++ body ++ bytesOf 2 (crc (bytesOf 2 body.length ++ body)).toNat) ∧
     (512 < k.replyBytes + body.length + 4 → k.placeReply body =
       { k with counters := { k.counters with dropped := satInc k.counters.dropped } })) ∧
  (∀ (k : LinkState) (body : List Byte), k.replyBytes + body.length + 4 ≤ 512 →
     (k.tx ≠ none → (k.placeReply body).tx = k.tx ∧ (k.placeReply body).ctrl = k.ctrl) ∧
     (k.tx = none → k.ctrl = [] → k.replies = [] → k.rateChanges = [] → k.disableAt = none →
       (k.placeReply body).tx = some .start)) ∧
  (∀ (s : State) (l : LinkId) (k : LinkState), k = s.link l →
     (k.tx = none → exec (.linkByteSent l) s = .next s) ∧
     (∀ (x : TxByte) (left : List Reply) (sent : Mark → Mark), k.tx = some x →
       left = (match x, k.replies with
         | .start, r :: rs => { r with begun := true } :: rs
         | .escape, r :: rs => { r with escaped := true } :: rs
         | .data _, r :: rs => if r.bytes.length ≤ 1 then rs
             else { r with escaped := false, bytes := r.bytes.tail } :: rs
         | _, rs => rs) →
       (∀ m, sent m = (match x with
         | .ctrl _ => { m with ctrl := m.ctrl - 1 }
         | .cut _ => { m with ctrl := m.ctrl - 1 }
         | .data _ => { m with reply := m.reply - 1 }
         | .start => m
         | .escape => m)) →
       ∃ t, exec (.linkByteSent l) s = .next t ∧ (t.link l).replies = left ∧
         (t.link l).restartAt = k.restartAt.map sent ∧ (t.link l).disableAt = k.disableAt.map sent ∧
         (t.link l).rateChanges = (k.rateChanges.map fun (rc : RateChange) => { rc with after := sent rc.after }) ∧
         (k.rateChanges = [] → k.disableAt = none →
           (∀ c cs, k.ctrl = c :: cs → (t.link l).tx = some (.ctrl c) ∧ (t.link l).ctrl = cs) ∧
           (k.ctrl = [] → (t.link l).ctrl = [] ∧ (left = [] → (t.link l).tx = none) ∧
             ∀ r rs, left = r :: rs → (r.begun = false → (t.link l).tx = some .start) ∧
               ∀ b bs, r.begun = true → r.bytes = b :: bs → (t.link l).tx = some
                 (if r.escaped then .data (b ^^^ 0x20)
                  else if b ∈ [(0xC5 : Byte), 0xC3, 0xC1, 0xCA] then .escape else .data b)))))

/-- LINK_DISABLE and LINK_RATE_CHANGE, R144 and R143: a disable whose bytes have been sent turns the link off, empties
it, counts the replies it drops (but a half-sent one: log 14) and sends a GO where a HOLD was outstanding, behind the
HOLD and GO bytes due (log 14); a RESTART or a change of rate that waits is then met by what still goes out (R168, log
18); a change of rate whose bytes have been sent takes effect. Before that neither row changes anything (log 1). -/
def Obligations.DisableAndRateChangeActInTheirPlace : Prop :=
  ∀ (s : State) (l : LinkId) (k : LinkState), k = s.link l →
    (k.disableAt = some ⟨0, 0⟩ → ∃ t, exec (.linkDisable l) s = .next t ∧ LinkState.TurnedOff k (t.link l) ∧
      t = { s with links := t.links } ∧ ∀ j, j ≠ l → t.link j = s.link j) ∧
    (k.disableAt ≠ some ⟨0, 0⟩ → exec (.linkDisable l) s = .next s) ∧
    (∀ rate rest, k.rateChanges = { after := ⟨0, 0⟩, rate := rate } :: rest →
      ∃ t, exec (.linkRateChange l) s = .next t ∧ (t.link l).rate = rate ∧ (t.link l).rateChanges = rest ∧
        (t.link l).replies = k.replies ∧ (t.link l).waiting = k.waiting) ∧
    ((∀ rc rest, k.rateChanges = rc :: rest → rc.after ≠ ⟨0, 0⟩) → exec (.linkRateChange l) s = .next s)

/-! ## Bit periods (R11, R15, R19) -/

/-- BIT_PERIOD_END, and the middle of a bit period (a step with no command waiting, log 4), R11, R15 and R27: the next
bit stands on DOn with DCKn low, then DCKn rises while a cell is in progress; the monitor's pins follow; nothing else
changes. The end of bit 113 is the boundary's (log 5); an EPOUT pulse begun at a boundary ends at the first such row
and one begun by a strobe at the second, standing until then (log 12). -/
def Obligations.PinsThroughABitPeriod : Prop :=
  ∀ s : State,
    (s.tb.start = .running → s.tb.bitPos < 113 → ∃ t, exec .bitPeriodEnd s = .next t ∧
      t = { s with
        tb := { s.tb with bitPos := s.tb.bitPos + 1, epout := t.tb.epout, epoutEnds := s.tb.epoutEnds - 1 }
        lanes := t.lanes, monitor := t.monitor } ∧
      (s.tb.epoutEnds ≤ 1 → t.tb.epout = false) ∧ (2 ≤ s.tb.epoutEnds → t.tb.epout = s.tb.epout) ∧
      t.monitor.source = s.monitor.source ∧ t.monitorFollows ∧
      ∀ p, t.lane p = { s.lane p with
        asm := { (s.lane p).asm with dout := (t.lane p).asm.dout, dck := false } } ∧
        (t.lane p).asm.dout = (match (s.lane p).asm.cell with
          | none => false
          | some c => c.bits.getMsbD (s.tb.bitPos + 1))) ∧
    (s.tb.start ≠ .running ∨ 113 ≤ s.tb.bitPos → exec .bitPeriodEnd s = .next s) ∧
    (s.pending = [] → ∃ t, step s = .next t ∧ t = { s with lanes := t.lanes, monitor := t.monitor } ∧
      t.monitor.source = s.monitor.source ∧ t.monitorFollows ∧
      ∀ p, t.lane p = { s.lane p with asm := { (s.lane p).asm with dck := (s.lane p).asm.cell.isSome } })

/-- R1: the bits of a cell: guard 10, sync 10110100, then identity, control, payload and check, most significant bit
first. R5: the check register starts at all ones, and each bit shifts it, with 0x1021 combined in where the bit differs
from its most significant bit; over the characters "123456789" it gives 0x29B1. R2 to R5 and R16: a running output fixes
one cell: the identity of the active variant, the control field of R174, a payload of 8 bytes, the check word over them;
and it counts the cell under its kind code. What the payload of each kind
carries: TheCellsCarryTheirContent. -/
def Obligations.CellsAreFixedAndSent : Prop :=
  (crc [] = 0xFFFF ∧ crc [0x31, 0x32, 0x33, 0x34, 0x35, 0x36, 0x37, 0x38, 0x39] = 0x29B1 ∧
     ∀ (bytes : List Byte) (b : Byte), crc (bytes ++ [b]) = (List.range 8).foldl
       (fun (r : Word) i => if r.msb = b.getMsbD i then r <<< 1 else (r <<< 1) ^^^ 0x1021) (crc bytes)) ∧
  (∀ c : Cell,
     (∀ i : Nat, i < 10 → c.bits.getMsbD i = (0b1010110100#10).getMsbD i) ∧
     (∀ i : Nat, i < 16 → c.bits.getMsbD (10 + i) = c.identity.getMsbD i) ∧
     (∀ i : Nat, i < 8 → c.bits.getMsbD (26 + i) = c.control.getMsbD i) ∧
     (∀ i : Nat, i < 64 → c.bits.getMsbD (34 + i) = c.payload.getMsbD i) ∧
     (∀ i : Nat, i < 16 → c.bits.getMsbD (98 + i) = c.check.getMsbD i)) ∧
  (∀ (s t : State) (p : OutId), exec .cellBoundary s = .next t → (s.outCfg p).enable = true →
     ∃ (k : Fin 7) (payload : List Byte) (c : Cell), (t.lane p).asm.cell = some c ∧ payload.length = 8 ∧
       c.identity = (match (t.out p).source with
         | .network => (s.outCfg p).netId
         | .regional => (s.outCfg p).regId) ∧
       c.control.toNat = k.val * 16 + (s.outCfg p).tc.toNat * 8 + ((t.lane p).seq.phase != .quiet).toNat * 4 +
         ((t.out p).source == .regional).toNat * 2 + (t.out p).lv.toNat ∧
       c.payload = BitVec.ofNat 64 (natOf payload) ∧
       c.check = crc (bytesOf 2 c.identity.toNat ++ [c.control] ++ payload) ∧
       (t.lane p).asm.kinds = (s.lane p).asm.kinds.modify k satInc)

/-- R6 to R10, R113 and R174: the payload of the cell a running output fixes at a boundary, by its kind. FILLER: the
cell's count. LABEL, TEXT and FREQ: the index, which is the position as the boundary finds it, 0 at an entry into RUN
(R13), lies below the total and is followed by the next; the total; and the characters or codes of the shown label,
text or live list, with spaces or zeros past the end. TMSG: key and content of a record with repeats left on the
output (where no timed entry is due; which: PoolRecordsAreDueHeldAndSent). NEIGHBOUR: the record of a used slot that
the output carries, its flags for this cell, and four characters of its label (which slot and segment:
NeighbourBurstsAndCycleRun). ANNOUNCE: zeros in QUIET; class, group, phase and on-air seconds of the current claim
before this boundary's increment, or in TRAIL of the view. -/
def Obligations.TheCellsCarryTheirContent : Prop :=
  ∀ (s t : State) (p : OutId) (c : Cell) (o : OutContent), exec .cellBoundary s = .next t →
    (s.outCfg p).enable = true → (t.lane p).asm.cell = some c → o = t.out p →
    ∃ bytes : List Byte, bytes.length = 8 ∧ c.payload = BitVec.ofNat 64 (natOf bytes) ∧ c.control.toNat / 16 ≤ 6 ∧
      (c.control.toNat / 16 = 0 → bytes = bytesOf 3 t.tb.count.toNat ++ [0, 0, 0, 0, 0]) ∧
      (c.control.toNat / 16 = 1 → ∀ (shown : Label) (i n : Nat), shown = (match o.labelShown with
          | .n => o.varN.label
          | .r => o.varR.label) →
        i = (if (s.lane p).run then (s.out p).labelPos else 0) → n = (shown.chars.length + 5) / 6 →
        o.labelPos = (i + 1) % n ∧ (s.inRange → s.positionsWithin → i < n) ∧
          bytes = [BitVec.ofNat 8 (16 * i + n)] ++ (List.range 6).map (fun j => shown.chars.getD (6 * i + j) 0x20) ++
            [BitVec.ofNat 8 shown.category]) ∧
      (c.control.toNat / 16 = 2 → ∀ (i n : Nat) (code : Nat → Nat),
        i = (if (s.lane p).run then (s.out p).freqPos else 0) → n = (o.freqs.length + 3) / 4 →
        (∀ j, code j = o.freqs.getD (4 * i + j) 0) →
        o.freqPos = (i + 1) % n ∧ (s.positionsWithin → i < n) ∧
        bytes = [BitVec.ofNat 8 (16 * i + n), BitVec.ofNat 8 o.freqs.length] ++
          bytesOf 6 (code 0 * 2 ^ 36 + code 1 * 2 ^ 24 + code 2 * 2 ^ 12 + code 3)) ∧
      (c.control.toNat / 16 = 3 → ∀ (shown : List Byte) (i n : Nat), shown = (match o.textShown with
          | .n => o.varN.text
          | .r => o.varR.text) →
        i = (if (s.lane p).run then (s.out p).textPos else 0) → n = (shown.length + 5) / 6 →
        o.textPos = (i + 1) % n ∧ (s.positionsWithin → i < n) ∧
          bytes = [BitVec.ofNat 8 (16 * i + n), o.textVersion] ++
            (List.range 6).map (fun j => shown.getD (6 * i + j) 0x20)) ∧
      (c.control.toNat / 16 = 4 → s.queue.entries = [] → ∃ r, r ∈ s.pool.records ∧ 0 < r.repeats.get p ∧
        bytes = bytesOf 2 r.key.toNat ++ bytesOf 6 r.content.toNat) ∧
      (c.control.toNat / 16 = 5 → ∃ slot r second, t.content.neighbours.get slot = some r ∧
        r.carriers.getLsbD p.val = true ∧ ∀ f : Flags3,
        f = (match r.link with
          | none => r.ext
          | some q => { tc := (s.outCfg q).tc, an := (t.lane q).run && (t.lane q).seq.phase != .quiet
                        rg := (t.out q).source == .regional }) →
        bytes = bytesOf 2 r.identity.toNat ++
          [BitVec.ofNat 8 (f.tc.toNat * 128 + f.an.toNat * 64 + f.rg.toNat * 32 + Bool.toNat second * 16 +
            r.freq / 256), BitVec.ofNat 8 (r.freq % 256)] ++
          (List.range 4).map (fun j => r.label.getD (4 * Bool.toNat second + j) 0x20)) ∧
      (c.control.toNat / 16 = 6 →
        ((t.lane p).seq.phase = .quiet → bytes = List.replicate 8 0) ∧
        ((t.lane p).seq.phase = .onset ∨ (t.lane p).seq.phase = .onAir →
          ∃ (claim : Claim) (used : Counter), claim ∈ t.claims.table ∧
            (t.lane p).seq.current = some ⟨claim.key, claim.stamp⟩ ∧
            claim.holdUsed = (if ∃ q, claim.status.get q = .current ∧ (t.lane q).seq.phase = .onAir then satInc used
              else used) ∧
            bytes = [claim.cls.code, claim.group, (t.lane p).seq.phase.code] ++
              bytesOf 2 (min (used.toNat / 20) 65535) ++ [0, 0, 0]) ∧
        (∀ v, (t.lane p).seq.phase = .trail → (t.lane p).seq.view = some v →
          bytes = [v.cls.code, v.group, 3] ++ bytesOf 2 (min (v.holdUsed.toNat / 20) 65535) ++ [0, 0, 0]))

/-! ## What every step keeps -/

/-- The part after reset, which is the power-on of a part whose store was never written and whose straps are low
(log 6), has every property below. -/
def Obligations.ResetIsAPowerOnWithEveryProperty : Prop :=
  exec (.powerOn false false) State.reset = .next State.reset ∧ State.reset.withinSize ∧
    State.reset.countersFollow ∧ State.reset.alertFollows ∧ State.reset.pinsFollow ∧ State.reset.inRange ∧
    State.reset.positionsWithin ∧ State.reset.keysDistinct ∧ State.reset.namesFollow

/-- R1, R23, R25, R59, R70, R72, R84, R133, R148, R158, R159 and R178: no table, buffer or counter of fixed size ever
exceeds it: claims, pool, queue, bit position, qualification and holdover count, ages, store image, and a link's tokens
and buffers. R104, R111, R119, R121 and R158: with every setting within its range the lead, trail, burst, debounce and
token counters stay within the ranges of theirs. -/
def Obligations.StepsStayWithinSize : Prop :=
  (∀ s t : State, s.withinSize → step s = .next t → t.withinSize) ∧
  (∀ s t : State, s.settings.inRange → s.countersFollow → step s = .next t → t.countersFollow)

/-- R169: after every step ALERT stands as the flags and the mask say. -/
def Obligations.StepsKeepAlert : Prop :=
  ∀ s t : State, s.alertFollows → step s = .next t → t.alertFollows

/-- R11, R14, R15 and R115: after every step DOn of an output in RUN shows the bit of its cell at the bit position, an
output that is OFF has no cell and still pins, the cue outputs stand as the phases say, and the monitor's pins as those
of the output it copies. -/
def Obligations.StepsKeepThePins : Prop :=
  ∀ s t : State, s.pinsFollow → step s = .next t → t.pinsFollow

/-- R38 to R41, R49, R57, R104, R119, R149, R162 to R164: after every step every setting, content, claim, record and
timed entry holds values within their ranges. R43, R45 and R46: in such states every step keeps the positions of the
label, text and frequency cycles within the totals of what they run through. -/
def Obligations.StepsKeepValuesInRange : Prop :=
  (∀ s t : State, s.inRange → step s = .next t → t.inRange) ∧
  (∀ s t : State, s.inRange → s.positionsWithin → step s = .next t → t.positionsWithin)

/-- R75 and R90: after every step the claims held, and the records of the pool, have keys of their own. R107 to R110 and
R114: after every step each sequencer names a claim exactly in ONSET and ON_AIR; in QUIET and in TRAIL it names none. -/
def Obligations.StepsKeepKeysAndNames : Prop :=
  (∀ s t : State, s.keysDistinct → step s = .next t → t.keysDistinct) ∧
  (∀ s t : State, s.namesFollow → step s = .next t → t.namesFollow)
end

