-- ==== Sys2Proof/Laws/Table.lean ====
section
/-! SUPPORT. What the operations on tables do, item by item. -/

namespace Sys2Proof.Table

variable {n : Nat} {α β : Type}

/-- Two tables with the same items are equal. -/
theorem eq_of_items {t u : Table n α} (h : t.items = u.items) : t = u := by
  cases t; cases u; cases h; rfl

/-- Two tables that agree at every number are equal. -/
theorem eq_of_get {t u : Table n α} (h : ∀ i, t.get i = u.get i) : t = u := by
  apply eq_of_items
  apply List.ext_getElem (by rw [t.size_eq, u.size_eq])
  intro i hi _
  exact h ⟨i, by have := t.size_eq; omega⟩

@[simp] theorem get_set_self (t : Table n α) (i : Fin n) (x : α) : (t.set i x).get i = x := by
  simp [get, set]

theorem get_set_ne (t : Table n α) {i j : Fin n} (x : α) (h : i ≠ j) : (t.set i x).get j = t.get j := by
  have : i.val ≠ j.val := fun e => h (Fin.ext e)
  simp [get, set, this]

/-- One item replaced, read back. -/
theorem get_set (t : Table n α) (i j : Fin n) (x : α) : (t.set i x).get j = if i = j then x else t.get j := by
  by_cases h : i = j
  · subst h; simp
  · simp [h, get_set_ne t x h]

@[simp] theorem get_modify_self (t : Table n α) (i : Fin n) (f : α → α) : (t.modify i f).get i = f (t.get i) := by
  simp [modify]

theorem get_modify_ne (t : Table n α) {i j : Fin n} (f : α → α) (h : i ≠ j) : (t.modify i f).get j = t.get j := by
  simp [modify, get_set_ne t _ h]

/-- One item changed, read back. -/
theorem get_modify (t : Table n α) (i j : Fin n) (f : α → α) :
    (t.modify i f).get j = if i = j then f (t.get j) else t.get j := by
  by_cases h : i = j
  · subst h; simp
  · simp [h, get_modify_ne t f h]

@[simp] theorem get_replicate (x : α) (i : Fin n) : (replicate n x).get i = x := by
  simp [get, replicate]

@[simp] theorem get_tabulate (f : Fin n → α) (i : Fin n) : (tabulate f).get i = f i := by
  simp [get, tabulate]

@[simp] theorem get_map (f : α → β) (t : Table n α) (i : Fin n) : (t.map f).get i = f (t.get i) := by
  simp [get, map]

@[simp] theorem set_set (t : Table n α) (i : Fin n) (x y : α) : (t.set i x).set i y = t.set i y := by
  apply eq_of_items; simp [set]

/-- Two changes of one item are one change. -/
@[simp] theorem modify_modify (t : Table n α) (i : Fin n) (f g : α → α) :
    (t.modify i f).modify i g = t.modify i fun x => g (f x) := by
  apply eq_of_get; intro j
  by_cases h : i = j
  · subst h; simp
  · simp [get_modify_ne _ _ h]

/-- A change that leaves the item as it is changes nothing. -/
theorem modify_eq_self (t : Table n α) (i : Fin n) {f : α → α} (h : f (t.get i) = t.get i) : t.modify i f = t := by
  apply eq_of_get; intro j
  by_cases e : i = j
  · subst e; simp [h]
  · simp [get_modify_ne _ _ e]

/-- An item of the list of items is an item of the table. -/
theorem mem_items {t : Table n α} {x : α} : x ∈ t.items ↔ ∃ i, t.get i = x := by
  constructor
  · intro h
    obtain ⟨i, hi, rfl⟩ := List.mem_iff_getElem.mp h
    exact ⟨⟨i, by have := t.size_eq; omega⟩, rfl⟩
  · rintro ⟨i, rfl⟩
    exact List.getElem_mem _

end Sys2Proof.Table
end

