-- ==== Sys2Proof/Laws/State.lean ====
section
/-! SUPPORT. What each named update of State leaves in each field. -/

namespace Sys2Proof.Machine.State

variable (s : State)

/-! ### modLane -/

@[simp] theorem modLane_settings (p : OutId) (f : Lane → Lane) : (s.modLane p f).settings = s.settings := rfl
@[simp] theorem modLane_tb (p : OutId) (f : Lane → Lane) : (s.modLane p f).tb = s.tb := rfl
@[simp] theorem modLane_content (p : OutId) (f : Lane → Lane) : (s.modLane p f).content = s.content := rfl
@[simp] theorem modLane_lanes (p : OutId) (f : Lane → Lane) : (s.modLane p f).lanes = s.lanes.modify p f := rfl
@[simp] theorem modLane_monitor (p : OutId) (f : Lane → Lane) : (s.modLane p f).monitor = s.monitor := rfl
@[simp] theorem modLane_claims (p : OutId) (f : Lane → Lane) : (s.modLane p f).claims = s.claims := rfl
@[simp] theorem modLane_pool (p : OutId) (f : Lane → Lane) : (s.modLane p f).pool = s.pool := rfl
@[simp] theorem modLane_queue (p : OutId) (f : Lane → Lane) : (s.modLane p f).queue = s.queue := rfl
@[simp] theorem modLane_cues (p : OutId) (f : Lane → Lane) : (s.modLane p f).cues = s.cues := rfl
@[simp] theorem modLane_links (p : OutId) (f : Lane → Lane) : (s.modLane p f).links = s.links := rfl
@[simp] theorem modLane_router (p : OutId) (f : Lane → Lane) : (s.modLane p f).router = s.router := rfl
@[simp] theorem modLane_store (p : OutId) (f : Lane → Lane) : (s.modLane p f).store = s.store := rfl
@[simp] theorem modLane_draws (p : OutId) (f : Lane → Lane) : (s.modLane p f).draws = s.draws := rfl
@[simp] theorem modLane_pending (p : OutId) (f : Lane → Lane) : (s.modLane p f).pending = s.pending := rfl

/-! ### modOut -/

@[simp] theorem modOut_settings (p : OutId) (f : OutContent → OutContent) : (s.modOut p f).settings = s.settings := rfl
@[simp] theorem modOut_tb (p : OutId) (f : OutContent → OutContent) : (s.modOut p f).tb = s.tb := rfl
@[simp] theorem modOut_lanes (p : OutId) (f : OutContent → OutContent) : (s.modOut p f).lanes = s.lanes := rfl
@[simp] theorem modOut_monitor (p : OutId) (f : OutContent → OutContent) : (s.modOut p f).monitor = s.monitor := rfl
@[simp] theorem modOut_claims (p : OutId) (f : OutContent → OutContent) : (s.modOut p f).claims = s.claims := rfl
@[simp] theorem modOut_pool (p : OutId) (f : OutContent → OutContent) : (s.modOut p f).pool = s.pool := rfl
@[simp] theorem modOut_queue (p : OutId) (f : OutContent → OutContent) : (s.modOut p f).queue = s.queue := rfl
@[simp] theorem modOut_cues (p : OutId) (f : OutContent → OutContent) : (s.modOut p f).cues = s.cues := rfl
@[simp] theorem modOut_links (p : OutId) (f : OutContent → OutContent) : (s.modOut p f).links = s.links := rfl
@[simp] theorem modOut_router (p : OutId) (f : OutContent → OutContent) : (s.modOut p f).router = s.router := rfl
@[simp] theorem modOut_store (p : OutId) (f : OutContent → OutContent) : (s.modOut p f).store = s.store := rfl
@[simp] theorem modOut_draws (p : OutId) (f : OutContent → OutContent) : (s.modOut p f).draws = s.draws := rfl
@[simp] theorem modOut_pending (p : OutId) (f : OutContent → OutContent) : (s.modOut p f).pending = s.pending := rfl

/-! ### modOuts -/

@[simp] theorem modOuts_settings (m : Mask) (f : OutContent → OutContent) : (s.modOuts m f).settings = s.settings := rfl
@[simp] theorem modOuts_tb (m : Mask) (f : OutContent → OutContent) : (s.modOuts m f).tb = s.tb := rfl
@[simp] theorem modOuts_lanes (m : Mask) (f : OutContent → OutContent) : (s.modOuts m f).lanes = s.lanes := rfl
@[simp] theorem modOuts_monitor (m : Mask) (f : OutContent → OutContent) : (s.modOuts m f).monitor = s.monitor := rfl
@[simp] theorem modOuts_claims (m : Mask) (f : OutContent → OutContent) : (s.modOuts m f).claims = s.claims := rfl
@[simp] theorem modOuts_pool (m : Mask) (f : OutContent → OutContent) : (s.modOuts m f).pool = s.pool := rfl
@[simp] theorem modOuts_queue (m : Mask) (f : OutContent → OutContent) : (s.modOuts m f).queue = s.queue := rfl
@[simp] theorem modOuts_cues (m : Mask) (f : OutContent → OutContent) : (s.modOuts m f).cues = s.cues := rfl
@[simp] theorem modOuts_links (m : Mask) (f : OutContent → OutContent) : (s.modOuts m f).links = s.links := rfl
@[simp] theorem modOuts_router (m : Mask) (f : OutContent → OutContent) : (s.modOuts m f).router = s.router := rfl
@[simp] theorem modOuts_store (m : Mask) (f : OutContent → OutContent) : (s.modOuts m f).store = s.store := rfl
@[simp] theorem modOuts_draws (m : Mask) (f : OutContent → OutContent) : (s.modOuts m f).draws = s.draws := rfl
@[simp] theorem modOuts_pending (m : Mask) (f : OutContent → OutContent) : (s.modOuts m f).pending = s.pending := rfl

/-! ### modLink -/

@[simp] theorem modLink_settings (l : LinkId) (f : LinkState → LinkState) : (s.modLink l f).settings = s.settings := rfl
@[simp] theorem modLink_tb (l : LinkId) (f : LinkState → LinkState) : (s.modLink l f).tb = s.tb := rfl
@[simp] theorem modLink_content (l : LinkId) (f : LinkState → LinkState) : (s.modLink l f).content = s.content := rfl
@[simp] theorem modLink_lanes (l : LinkId) (f : LinkState → LinkState) : (s.modLink l f).lanes = s.lanes := rfl
@[simp] theorem modLink_monitor (l : LinkId) (f : LinkState → LinkState) : (s.modLink l f).monitor = s.monitor := rfl
@[simp] theorem modLink_claims (l : LinkId) (f : LinkState → LinkState) : (s.modLink l f).claims = s.claims := rfl
@[simp] theorem modLink_pool (l : LinkId) (f : LinkState → LinkState) : (s.modLink l f).pool = s.pool := rfl
@[simp] theorem modLink_queue (l : LinkId) (f : LinkState → LinkState) : (s.modLink l f).queue = s.queue := rfl
@[simp] theorem modLink_cues (l : LinkId) (f : LinkState → LinkState) : (s.modLink l f).cues = s.cues := rfl
@[simp] theorem modLink_links (l : LinkId) (f : LinkState → LinkState) : (s.modLink l f).links = s.links.modify l f := rfl
@[simp] theorem modLink_router (l : LinkId) (f : LinkState → LinkState) : (s.modLink l f).router = s.router := rfl
@[simp] theorem modLink_store (l : LinkId) (f : LinkState → LinkState) : (s.modLink l f).store = s.store := rfl
@[simp] theorem modLink_draws (l : LinkId) (f : LinkState → LinkState) : (s.modLink l f).draws = s.draws := rfl
@[simp] theorem modLink_pending (l : LinkId) (f : LinkState → LinkState) : (s.modLink l f).pending = s.pending := rfl

/-! ### modCue -/

@[simp] theorem modCue_settings (c : LineId) (f : CueLine → CueLine) : (s.modCue c f).settings = s.settings := rfl
@[simp] theorem modCue_tb (c : LineId) (f : CueLine → CueLine) : (s.modCue c f).tb = s.tb := rfl
@[simp] theorem modCue_content (c : LineId) (f : CueLine → CueLine) : (s.modCue c f).content = s.content := rfl
@[simp] theorem modCue_lanes (c : LineId) (f : CueLine → CueLine) : (s.modCue c f).lanes = s.lanes := rfl
@[simp] theorem modCue_monitor (c : LineId) (f : CueLine → CueLine) : (s.modCue c f).monitor = s.monitor := rfl
@[simp] theorem modCue_claims (c : LineId) (f : CueLine → CueLine) : (s.modCue c f).claims = s.claims := rfl
@[simp] theorem modCue_pool (c : LineId) (f : CueLine → CueLine) : (s.modCue c f).pool = s.pool := rfl
@[simp] theorem modCue_queue (c : LineId) (f : CueLine → CueLine) : (s.modCue c f).queue = s.queue := rfl
@[simp] theorem modCue_cues (c : LineId) (f : CueLine → CueLine) : (s.modCue c f).cues = s.cues.modify c f := rfl
@[simp] theorem modCue_links (c : LineId) (f : CueLine → CueLine) : (s.modCue c f).links = s.links := rfl
@[simp] theorem modCue_router (c : LineId) (f : CueLine → CueLine) : (s.modCue c f).router = s.router := rfl
@[simp] theorem modCue_store (c : LineId) (f : CueLine → CueLine) : (s.modCue c f).store = s.store := rfl
@[simp] theorem modCue_draws (c : LineId) (f : CueLine → CueLine) : (s.modCue c f).draws = s.draws := rfl
@[simp] theorem modCue_pending (c : LineId) (f : CueLine → CueLine) : (s.modCue c f).pending = s.pending := rfl

/-! ### modTb -/

@[simp] theorem modTb_settings (f : Timebase → Timebase) : (s.modTb f).settings = s.settings := rfl
@[simp] theorem modTb_tb (f : Timebase → Timebase) : (s.modTb f).tb = f s.tb := rfl
@[simp] theorem modTb_content (f : Timebase → Timebase) : (s.modTb f).content = s.content := rfl
@[simp] theorem modTb_lanes (f : Timebase → Timebase) : (s.modTb f).lanes = s.lanes := rfl
@[simp] theorem modTb_monitor (f : Timebase → Timebase) : (s.modTb f).monitor = s.monitor := rfl
@[simp] theorem modTb_claims (f : Timebase → Timebase) : (s.modTb f).claims = s.claims := rfl
@[simp] theorem modTb_pool (f : Timebase → Timebase) : (s.modTb f).pool = s.pool := rfl
@[simp] theorem modTb_queue (f : Timebase → Timebase) : (s.modTb f).queue = s.queue := rfl
@[simp] theorem modTb_cues (f : Timebase → Timebase) : (s.modTb f).cues = s.cues := rfl
@[simp] theorem modTb_links (f : Timebase → Timebase) : (s.modTb f).links = s.links := rfl
@[simp] theorem modTb_router (f : Timebase → Timebase) : (s.modTb f).router = s.router := rfl
@[simp] theorem modTb_store (f : Timebase → Timebase) : (s.modTb f).store = s.store := rfl
@[simp] theorem modTb_draws (f : Timebase → Timebase) : (s.modTb f).draws = s.draws := rfl
@[simp] theorem modTb_pending (f : Timebase → Timebase) : (s.modTb f).pending = s.pending := rfl

/-! ### modSettings -/

@[simp] theorem modSettings_settings (f : Settings → Settings) : (s.modSettings f).settings = f s.settings := rfl
@[simp] theorem modSettings_tb (f : Settings → Settings) : (s.modSettings f).tb = s.tb := rfl
@[simp] theorem modSettings_content (f : Settings → Settings) : (s.modSettings f).content = s.content := rfl
@[simp] theorem modSettings_lanes (f : Settings → Settings) : (s.modSettings f).lanes = s.lanes := rfl
@[simp] theorem modSettings_monitor (f : Settings → Settings) : (s.modSettings f).monitor = s.monitor := rfl
@[simp] theorem modSettings_claims (f : Settings → Settings) : (s.modSettings f).claims = s.claims := rfl
@[simp] theorem modSettings_pool (f : Settings → Settings) : (s.modSettings f).pool = s.pool := rfl
@[simp] theorem modSettings_queue (f : Settings → Settings) : (s.modSettings f).queue = s.queue := rfl
@[simp] theorem modSettings_cues (f : Settings → Settings) : (s.modSettings f).cues = s.cues := rfl
@[simp] theorem modSettings_links (f : Settings → Settings) : (s.modSettings f).links = s.links := rfl
@[simp] theorem modSettings_router (f : Settings → Settings) : (s.modSettings f).router = s.router := rfl
@[simp] theorem modSettings_store (f : Settings → Settings) : (s.modSettings f).store = s.store := rfl
@[simp] theorem modSettings_draws (f : Settings → Settings) : (s.modSettings f).draws = s.draws := rfl
@[simp] theorem modSettings_pending (f : Settings → Settings) : (s.modSettings f).pending = s.pending := rfl

/-! ### draw -/

@[simp] theorem draw_settings : (s.draw).settings = s.settings := rfl
@[simp] theorem draw_tb : (s.draw).tb = s.tb := rfl
@[simp] theorem draw_content : (s.draw).content = s.content := rfl
@[simp] theorem draw_lanes : (s.draw).lanes = s.lanes := rfl
@[simp] theorem draw_monitor : (s.draw).monitor = s.monitor := rfl
@[simp] theorem draw_claims : (s.draw).claims = s.claims := rfl
@[simp] theorem draw_pool : (s.draw).pool = s.pool := rfl
@[simp] theorem draw_queue : (s.draw).queue = s.queue := rfl
@[simp] theorem draw_cues : (s.draw).cues = s.cues := rfl
@[simp] theorem draw_links : (s.draw).links = s.links := rfl
@[simp] theorem draw_router : (s.draw).router = s.router := rfl
@[simp] theorem draw_store : (s.draw).store = s.store := rfl
@[simp] theorem draw_draws : (s.draw).draws = s.draws + 1 := rfl
@[simp] theorem draw_pending : (s.draw).pending = s.pending := rfl

/-! ### raiseFault -/

@[simp] theorem raiseFault_settings (f : FaultFlag) : (s.raiseFault f).settings = s.settings := rfl
@[simp] theorem raiseFault_tb (f : FaultFlag) : (s.raiseFault f).tb = s.tb := rfl
@[simp] theorem raiseFault_content (f : FaultFlag) : (s.raiseFault f).content = s.content := rfl
@[simp] theorem raiseFault_lanes (f : FaultFlag) : (s.raiseFault f).lanes = s.lanes := rfl
@[simp] theorem raiseFault_monitor (f : FaultFlag) : (s.raiseFault f).monitor = s.monitor := rfl
@[simp] theorem raiseFault_claims (f : FaultFlag) : (s.raiseFault f).claims = s.claims := rfl
@[simp] theorem raiseFault_pool (f : FaultFlag) : (s.raiseFault f).pool = s.pool := rfl
@[simp] theorem raiseFault_queue (f : FaultFlag) : (s.raiseFault f).queue = s.queue := rfl
@[simp] theorem raiseFault_cues (f : FaultFlag) : (s.raiseFault f).cues = s.cues := rfl
@[simp] theorem raiseFault_links (f : FaultFlag) : (s.raiseFault f).links = s.links := rfl
@[simp] theorem raiseFault_router (f : FaultFlag) : (s.raiseFault f).router = s.router := rfl
@[simp] theorem raiseFault_draws (f : FaultFlag) : (s.raiseFault f).draws = s.draws := rfl
@[simp] theorem raiseFault_pending (f : FaultFlag) : (s.raiseFault f).pending = s.pending := rfl

/-! ### followAlert -/

@[simp] theorem followAlert_settings : (s.followAlert).settings = s.settings := rfl
@[simp] theorem followAlert_tb : (s.followAlert).tb = s.tb := rfl
@[simp] theorem followAlert_content : (s.followAlert).content = s.content := rfl
@[simp] theorem followAlert_lanes : (s.followAlert).lanes = s.lanes := rfl
@[simp] theorem followAlert_monitor : (s.followAlert).monitor = s.monitor := rfl
@[simp] theorem followAlert_claims : (s.followAlert).claims = s.claims := rfl
@[simp] theorem followAlert_pool : (s.followAlert).pool = s.pool := rfl
@[simp] theorem followAlert_queue : (s.followAlert).queue = s.queue := rfl
@[simp] theorem followAlert_cues : (s.followAlert).cues = s.cues := rfl
@[simp] theorem followAlert_links : (s.followAlert).links = s.links := rfl
@[simp] theorem followAlert_router : (s.followAlert).router = s.router := rfl
@[simp] theorem followAlert_draws : (s.followAlert).draws = s.draws := rfl
@[simp] theorem followAlert_pending : (s.followAlert).pending = s.pending := rfl

/-! ### clearFaultFlags -/

@[simp] theorem clearFaultFlags_settings : (s.clearFaultFlags).settings = s.settings := rfl
@[simp] theorem clearFaultFlags_tb : (s.clearFaultFlags).tb = s.tb := rfl
@[simp] theorem clearFaultFlags_content : (s.clearFaultFlags).content = s.content := rfl
@[simp] theorem clearFaultFlags_lanes : (s.clearFaultFlags).lanes = s.lanes := rfl
@[simp] theorem clearFaultFlags_monitor : (s.clearFaultFlags).monitor = s.monitor := rfl
@[simp] theorem clearFaultFlags_claims : (s.clearFaultFlags).claims = s.claims := rfl
@[simp] theorem clearFaultFlags_pool : (s.clearFaultFlags).pool = s.pool := rfl
@[simp] theorem clearFaultFlags_queue : (s.clearFaultFlags).queue = s.queue := rfl
@[simp] theorem clearFaultFlags_cues : (s.clearFaultFlags).cues = s.cues := rfl
@[simp] theorem clearFaultFlags_links : (s.clearFaultFlags).links = s.links := rfl
@[simp] theorem clearFaultFlags_router : (s.clearFaultFlags).router = s.router := rfl
@[simp] theorem clearFaultFlags_draws : (s.clearFaultFlags).draws = s.draws := rfl
@[simp] theorem clearFaultFlags_pending : (s.clearFaultFlags).pending = s.pending := rfl

/-! ### modPool -/

@[simp] theorem modPool_settings (f : List PoolRecord → List PoolRecord) : (s.modPool f).settings = s.settings := rfl
@[simp] theorem modPool_tb (f : List PoolRecord → List PoolRecord) : (s.modPool f).tb = s.tb := rfl
@[simp] theorem modPool_content (f : List PoolRecord → List PoolRecord) : (s.modPool f).content = s.content := rfl
@[simp] theorem modPool_lanes (f : List PoolRecord → List PoolRecord) : (s.modPool f).lanes = s.lanes := rfl
@[simp] theorem modPool_monitor (f : List PoolRecord → List PoolRecord) : (s.modPool f).monitor = s.monitor := rfl
@[simp] theorem modPool_claims (f : List PoolRecord → List PoolRecord) : (s.modPool f).claims = s.claims := rfl
@[simp] theorem modPool_pool (f : List PoolRecord → List PoolRecord) : (s.modPool f).pool = { s.pool with records := f s.pool.records } := rfl
@[simp] theorem modPool_queue (f : List PoolRecord → List PoolRecord) : (s.modPool f).queue = s.queue := rfl
@[simp] theorem modPool_cues (f : List PoolRecord → List PoolRecord) : (s.modPool f).cues = s.cues := rfl
@[simp] theorem modPool_links (f : List PoolRecord → List PoolRecord) : (s.modPool f).links = s.links := rfl
@[simp] theorem modPool_router (f : List PoolRecord → List PoolRecord) : (s.modPool f).router = s.router := rfl
@[simp] theorem modPool_store (f : List PoolRecord → List PoolRecord) : (s.modPool f).store = s.store := rfl
@[simp] theorem modPool_draws (f : List PoolRecord → List PoolRecord) : (s.modPool f).draws = s.draws := rfl
@[simp] theorem modPool_pending (f : List PoolRecord → List PoolRecord) : (s.modPool f).pending = s.pending := rfl

/-! ### modPoolCounters -/

@[simp] theorem modPoolCounters_settings (f : PoolCounters → PoolCounters) : (s.modPoolCounters f).settings = s.settings := rfl
@[simp] theorem modPoolCounters_tb (f : PoolCounters → PoolCounters) : (s.modPoolCounters f).tb = s.tb := rfl
@[simp] theorem modPoolCounters_content (f : PoolCounters → PoolCounters) : (s.modPoolCounters f).content = s.content := rfl
@[simp] theorem modPoolCounters_lanes (f : PoolCounters → PoolCounters) : (s.modPoolCounters f).lanes = s.lanes := rfl
@[simp] theorem modPoolCounters_monitor (f : PoolCounters → PoolCounters) : (s.modPoolCounters f).monitor = s.monitor := rfl
@[simp] theorem modPoolCounters_claims (f : PoolCounters → PoolCounters) : (s.modPoolCounters f).claims = s.claims := rfl
@[simp] theorem modPoolCounters_pool (f : PoolCounters → PoolCounters) : (s.modPoolCounters f).pool = { s.pool with counters := f s.pool.counters } := rfl
@[simp] theorem modPoolCounters_queue (f : PoolCounters → PoolCounters) : (s.modPoolCounters f).queue = s.queue := rfl
@[simp] theorem modPoolCounters_cues (f : PoolCounters → PoolCounters) : (s.modPoolCounters f).cues = s.cues := rfl
@[simp] theorem modPoolCounters_links (f : PoolCounters → PoolCounters) : (s.modPoolCounters f).links = s.links := rfl
@[simp] theorem modPoolCounters_router (f : PoolCounters → PoolCounters) : (s.modPoolCounters f).router = s.router := rfl
@[simp] theorem modPoolCounters_store (f : PoolCounters → PoolCounters) : (s.modPoolCounters f).store = s.store := rfl
@[simp] theorem modPoolCounters_draws (f : PoolCounters → PoolCounters) : (s.modPoolCounters f).draws = s.draws := rfl
@[simp] theorem modPoolCounters_pending (f : PoolCounters → PoolCounters) : (s.modPoolCounters f).pending = s.pending := rfl

/-! ### modQueueCounters -/

@[simp] theorem modQueueCounters_settings (f : QueueCounters → QueueCounters) : (s.modQueueCounters f).settings = s.settings := rfl
@[simp] theorem modQueueCounters_tb (f : QueueCounters → QueueCounters) : (s.modQueueCounters f).tb = s.tb := rfl
@[simp] theorem modQueueCounters_content (f : QueueCounters → QueueCounters) : (s.modQueueCounters f).content = s.content := rfl
@[simp] theorem modQueueCounters_lanes (f : QueueCounters → QueueCounters) : (s.modQueueCounters f).lanes = s.lanes := rfl
@[simp] theorem modQueueCounters_monitor (f : QueueCounters → QueueCounters) : (s.modQueueCounters f).monitor = s.monitor := rfl
@[simp] theorem modQueueCounters_claims (f : QueueCounters → QueueCounters) : (s.modQueueCounters f).claims = s.claims := rfl
@[simp] theorem modQueueCounters_pool (f : QueueCounters → QueueCounters) : (s.modQueueCounters f).pool = s.pool := rfl
@[simp] theorem modQueueCounters_queue (f : QueueCounters → QueueCounters) : (s.modQueueCounters f).queue = { s.queue with counters := f s.queue.counters } := rfl
@[simp] theorem modQueueCounters_cues (f : QueueCounters → QueueCounters) : (s.modQueueCounters f).cues = s.cues := rfl
@[simp] theorem modQueueCounters_links (f : QueueCounters → QueueCounters) : (s.modQueueCounters f).links = s.links := rfl
@[simp] theorem modQueueCounters_router (f : QueueCounters → QueueCounters) : (s.modQueueCounters f).router = s.router := rfl
@[simp] theorem modQueueCounters_store (f : QueueCounters → QueueCounters) : (s.modQueueCounters f).store = s.store := rfl
@[simp] theorem modQueueCounters_draws (f : QueueCounters → QueueCounters) : (s.modQueueCounters f).draws = s.draws := rfl
@[simp] theorem modQueueCounters_pending (f : QueueCounters → QueueCounters) : (s.modQueueCounters f).pending = s.pending := rfl

/-! ### setEntries -/

@[simp] theorem setEntries_settings (es : List QueueEntry) : (s.setEntries es).settings = s.settings := rfl
@[simp] theorem setEntries_tb (es : List QueueEntry) : (s.setEntries es).tb = s.tb := rfl
@[simp] theorem setEntries_content (es : List QueueEntry) : (s.setEntries es).content = s.content := rfl
@[simp] theorem setEntries_lanes (es : List QueueEntry) : (s.setEntries es).lanes = s.lanes := rfl
@[simp] theorem setEntries_monitor (es : List QueueEntry) : (s.setEntries es).monitor = s.monitor := rfl
@[simp] theorem setEntries_claims (es : List QueueEntry) : (s.setEntries es).claims = s.claims := rfl
@[simp] theorem setEntries_pool (es : List QueueEntry) : (s.setEntries es).pool = s.pool := rfl
@[simp] theorem setEntries_queue (es : List QueueEntry) : (s.setEntries es).queue = { s.queue with entries := es } := rfl
@[simp] theorem setEntries_cues (es : List QueueEntry) : (s.setEntries es).cues = s.cues := rfl
@[simp] theorem setEntries_links (es : List QueueEntry) : (s.setEntries es).links = s.links := rfl
@[simp] theorem setEntries_router (es : List QueueEntry) : (s.setEntries es).router = s.router := rfl
@[simp] theorem setEntries_store (es : List QueueEntry) : (s.setEntries es).store = s.store := rfl
@[simp] theorem setEntries_draws (es : List QueueEntry) : (s.setEntries es).draws = s.draws := rfl
@[simp] theorem setEntries_pending (es : List QueueEntry) : (s.setEntries es).pending = s.pending := rfl

/-! ### setAlertMask writes one setting and ALERT -/

@[simp] theorem setAlertMask_tb (m : BitVec 5) : (s.setAlertMask m).tb = s.tb := rfl
@[simp] theorem setAlertMask_content (m : BitVec 5) : (s.setAlertMask m).content = s.content := rfl
@[simp] theorem setAlertMask_lanes (m : BitVec 5) : (s.setAlertMask m).lanes = s.lanes := rfl
@[simp] theorem setAlertMask_monitor (m : BitVec 5) : (s.setAlertMask m).monitor = s.monitor := rfl
@[simp] theorem setAlertMask_claims (m : BitVec 5) : (s.setAlertMask m).claims = s.claims := rfl
@[simp] theorem setAlertMask_pool (m : BitVec 5) : (s.setAlertMask m).pool = s.pool := rfl
@[simp] theorem setAlertMask_queue (m : BitVec 5) : (s.setAlertMask m).queue = s.queue := rfl
@[simp] theorem setAlertMask_cues (m : BitVec 5) : (s.setAlertMask m).cues = s.cues := rfl
@[simp] theorem setAlertMask_links (m : BitVec 5) : (s.setAlertMask m).links = s.links := rfl
@[simp] theorem setAlertMask_router (m : BitVec 5) : (s.setAlertMask m).router = s.router := rfl
@[simp] theorem setAlertMask_draws (m : BitVec 5) : (s.setAlertMask m).draws = s.draws := rfl
@[simp] theorem setAlertMask_pending (m : BitVec 5) : (s.setAlertMask m).pending = s.pending := rfl
@[simp] theorem setAlertMask_settings (m : BitVec 5) :
    (s.setAlertMask m).settings = { s.settings with alertMask := m } := rfl

/-! ### Reading one instance after an update of one instance -/

theorem modLink_link (l k : LinkId) (f : LinkState → LinkState) :
    (s.modLink l f).link k = if l = k then f (s.link k) else s.link k := Table.get_modify ..

@[simp] theorem modLink_link_self (l : LinkId) (f : LinkState → LinkState) : (s.modLink l f).link l = f (s.link l) :=
  Table.get_modify_self ..

theorem modLane_lane (p q : OutId) (f : Lane → Lane) :
    (s.modLane p f).lane q = if p = q then f (s.lane q) else s.lane q := Table.get_modify ..

@[simp] theorem modLane_lane_self (p : OutId) (f : Lane → Lane) : (s.modLane p f).lane p = f (s.lane p) :=
  Table.get_modify_self ..

theorem modCue_cue (c d : LineId) (f : CueLine → CueLine) :
    (s.modCue c f).cue d = if c = d then f (s.cue d) else s.cue d := Table.get_modify ..

@[simp] theorem modCue_cue_self (c : LineId) (f : CueLine → CueLine) : (s.modCue c f).cue c = f (s.cue c) :=
  Table.get_modify_self ..

theorem modOut_out (p q : OutId) (f : OutContent → OutContent) :
    (s.modOut p f).out q = if p = q then f (s.out q) else s.out q := Table.get_modify ..

@[simp] theorem modOut_out_self (p : OutId) (f : OutContent → OutContent) : (s.modOut p f).out p = f (s.out p) :=
  Table.get_modify_self ..

@[simp] theorem modOuts_out (m : Mask) (p : OutId) (f : OutContent → OutContent) :
    (s.modOuts m f).out p = if inMask m p then f (s.out p) else s.out p := Table.get_tabulate ..

@[simp] theorem modOut_neighbours (p : OutId) (f : OutContent → OutContent) :
    (s.modOut p f).content.neighbours = s.content.neighbours := rfl

@[simp] theorem modOuts_neighbours (m : Mask) (f : OutContent → OutContent) :
    (s.modOuts m f).content.neighbours = s.content.neighbours := rfl

/-! ### Two updates of one link are one -/

@[simp] theorem modLink_modLink (l : LinkId) (f g : LinkState → LinkState) :
    (s.modLink l f).modLink l g = s.modLink l fun k => g (f k) := by
  simp [modLink]

@[simp] theorem modCue_modCue (c : LineId) (f g : CueLine → CueLine) :
    (s.modCue c f).modCue c g = s.modCue c fun k => g (f k) := by
  simp [modCue]

@[simp] theorem modLane_modLane (p : OutId) (f g : Lane → Lane) :
    (s.modLane p f).modLane p g = s.modLane p fun ln => g (f ln) := by
  simp [modLane]

/-! ### The store after a fault flag -/

@[simp] theorem raiseFault_faults (f : FaultFlag) : (s.raiseFault f).store.faults = s.store.faults ||| f.bit := rfl

@[simp] theorem raiseFault_alert (f : FaultFlag) :
    (s.raiseFault f).store.alert = alertLevel (s.store.faults ||| f.bit) s.settings.alertMask := rfl

@[simp] theorem raiseFault_image (f : FaultFlag) : (s.raiseFault f).store.image = s.store.image := rfl

@[simp] theorem raiseFault_saving (f : FaultFlag) : (s.raiseFault f).store.saving = s.store.saving := rfl

@[simp] theorem clearFaultFlags_faults : s.clearFaultFlags.store.faults = 0 := rfl

@[simp] theorem followAlert_faults : s.followAlert.store.faults = s.store.faults := rfl

@[simp] theorem followAlert_alert :
    s.followAlert.store.alert = alertLevel s.store.faults s.settings.alertMask := rfl

end Sys2Proof.Machine.State
end

