-- ==== Sys2Proof/Laws/Owners.lean ====
section
/-! SUPPORT. What the owners of commands leave as it stands: the claim manager, the pool, the content store and the
queue never touch the timebase, the monitor, the router, the store and the queue of commands. -/

namespace Sys2Proof.Machine

/-- What no table change of a boundary and no owner's act touches; of an output's settings, an interval is written
(R68); of a cue line, its pending flag, its waiting request and three counters (R123 to R126); of a lane, a renumbering moves the stamp of the
current claim (R86), and of a link, a failure at application is counted (R137). -/
structure SameOutside (s t : State) : Prop where
  settings : t.settings = { s.settings with outputs := t.settings.outputs }
  outCfg : ∀ p, ∃ iv, t.outCfg p = { s.outCfg p with intervals := iv }
  tb : t.tb = s.tb
  monitor : t.monitor = s.monitor
  router : t.router = s.router
  store : t.store = s.store
  pending : t.pending = s.pending
  run : ∀ p, (t.lane p).run = (s.lane p).run
  asm : ∀ p, (t.lane p).asm = (s.lane p).asm
  sched : ∀ p, (t.lane p).sched = (s.lane p).sched
  seq : ∀ p, ∃ f, (t.lane p).seq = { (s.lane p).seq with current := (s.lane p).seq.current.map f }
  cue : ∀ c, (t.cue c).active = (s.cue c).active ∧ (t.cue c).debounce = (s.cue c).debounce ∧
    (t.cue c).capture = (s.cue c).capture ∧ (t.cue c).counters.accepted = (s.cue c).counters.accepted ∧
    (t.cue c).counters.bounces = (s.cue c).counters.bounces
  link : ∀ l, ∃ n, t.link l = { s.link l with counters := { (s.link l).counters with timedFailures := n } }

/-- Leaving a sequencer alone is moving the stamp of its current claim nowhere. -/
theorem seq_unmoved (q : Sequencer) : ∃ f : ClaimRef → ClaimRef, q = { q with current := q.current.map f } :=
  ⟨id, by simp⟩

theorem SameOutside.refl (s : State) : SameOutside s s :=
  ⟨rfl, fun _ => ⟨_, rfl⟩, rfl, rfl, rfl, rfl, rfl, fun _ => rfl, fun _ => rfl, fun _ => rfl, fun _ => seq_unmoved _,
    fun _ => ⟨rfl, rfl, rfl, rfl, rfl⟩, fun _ => ⟨_, rfl⟩⟩

theorem SameOutside.trans {s t u : State} (h : SameOutside s t) (k : SameOutside t u) : SameOutside s u := by
  refine ⟨?_, fun p => ?_, k.tb.trans h.tb, k.monitor.trans h.monitor, k.router.trans h.router,
    k.store.trans h.store, k.pending.trans h.pending, fun p => (k.run p).trans (h.run p),
    fun p => (k.asm p).trans (h.asm p), fun p => (k.sched p).trans (h.sched p), fun p => ?_, fun c => ?_, fun l => ?_⟩
  · rw [k.settings, h.settings]
  · obtain ⟨v, e⟩ := h.outCfg p
    obtain ⟨v', e'⟩ := k.outCfg p
    exact ⟨v', by rw [e', e]⟩
  · obtain ⟨f, e⟩ := h.seq p
    obtain ⟨f', e'⟩ := k.seq p
    exact ⟨f' ∘ f, by rw [e', e]; simp⟩
  · obtain ⟨a, b, d, e, f⟩ := h.cue c
    obtain ⟨a', b', d', e', f'⟩ := k.cue c
    exact ⟨a'.trans a, b'.trans b, d'.trans d, e'.trans e, f'.trans f⟩
  · obtain ⟨n, e⟩ := h.link l
    obtain ⟨n', e'⟩ := k.link l
    exact ⟨n', by rw [e', e]⟩

/-- An update of other fields alone. -/
theorem SameOutside.of_eq {s t : State} (hg : t.settings = s.settings) (htb : t.tb = s.tb)
    (hm : t.monitor = s.monitor) (hr : t.router = s.router) (hs : t.store = s.store) (hp : t.pending = s.pending)
    (hl : t.lanes = s.lanes) (hc : t.cues = s.cues) (hk : t.links = s.links) : SameOutside s t := by
  refine ⟨by rw [hg], ?_, htb, hm, hr, hs, hp, ?_, ?_, ?_, ?_, ?_, ?_⟩
  · intro p; exact ⟨(s.outCfg p).intervals, by simp [State.outCfg, hg]⟩
  · intro p; simp [State.lane, hl]
  · intro p; simp [State.lane, hl]
  · intro p; simp [State.lane, hl]
  · intro p; exact ⟨id, by simp [State.lane, hl]⟩
  · intro c; simp [State.cue, hc]
  · intro l; exact ⟨(s.link l).counters.timedFailures, by simp [State.link, hk]⟩

theorem renumber_same (s : State) : SameOutside s (renumber s) := by
  unfold renumber
  split
  · refine ⟨rfl, fun _ => ⟨_, rfl⟩, rfl, rfl, rfl, rfl, rfl, ?_, ?_, ?_,
      fun p => ⟨renumberRef s.claims.table, by simp [State.lane]⟩, fun _ => ⟨rfl, rfl, rfl, rfl, rfl⟩,
      fun l => ⟨_, rfl⟩⟩ <;> intro p <;> simp [State.lane]
  · exact .refl s

theorem enterTable_same (n : Newcomer) (s : State) : SameOutside s (enterTable n s) :=
  (renumber_same s).trans (.of_eq rfl rfl rfl rfl rfl rfl rfl rfl rfl)

theorem endClaim_same (c : Claim) (r : EndReason) (count : Count) (s : State) : SameOutside s (endClaim c r count s) :=
  .of_eq rfl rfl rfl rfl rfl rfl rfl rfl rfl

theorem admit_same (n : Newcomer) (count : Count) (s : State) : SameOutside s (admitClaim n count s).2 := by
  unfold admitClaim
  split
  · exact .refl s
  · split
    · exact enterTable_same n s
    · split
      · exact .of_eq rfl rfl rfl rfl rfl rfl rfl rfl rfl
      · split
        · exact (endClaim_same _ _ _ _).trans (enterTable_same n _)
        · exact .of_eq rfl rfl rfl rfl rfl rfl rfl rfl rfl

/-- A change of a cue line's pending flag, waiting request and request counters. -/
theorem modCue_same (c : LineId) (f : CueLine → CueLine) (s : State)
    (hf : ∀ k, (f k).active = k.active ∧ (f k).debounce = k.debounce ∧ (f k).capture = k.capture ∧
      (f k).counters.accepted = k.counters.accepted ∧ (f k).counters.bounces = k.counters.bounces) :
    SameOutside s (s.modCue c f) := by
  refine ⟨rfl, fun _ => ⟨_, rfl⟩, rfl, rfl, rfl, rfl, rfl, fun _ => rfl, fun _ => rfl, fun _ => rfl, fun _ => seq_unmoved _,
    fun d => ?_, fun _ => ⟨_, rfl⟩⟩
  rw [State.modCue_cue]
  split
  · exact hf _
  · exact ⟨rfl, rfl, rfl, rfl, rfl⟩

theorem cueEntry_same (c : LineId) (count : Count) (s : State) : SameOutside s (cueEntry c count s).2 := by
  unfold cueEntry
  simp only
  split
  · exact .refl s
  · exact admit_same _ _ _

theorem entryRequest_same (c : LineId) (count : Count) (s : State) : SameOutside s (entryRequest c count s) := by
  have h := cueEntry_same c count s
  unfold entryRequest
  simp only
  split <;> next e => rw [e] at h; exact h.trans (modCue_same _ _ _ fun _ => ⟨rfl, rfl, rfl, rfl, rfl⟩)

theorem retryRequest_same (c : LineId) (count : Count) (s : State) : SameOutside s (retryRequest c count s) := by
  have h := cueEntry_same c count s
  unfold retryRequest
  split <;> next e => rw [e] at h; first | exact h.trans (modCue_same _ _ _ fun _ => ⟨rfl, rfl, rfl, rfl, rfl⟩) | exact h

theorem retriggerRequest_same (c : LineId) (s : State) : SameOutside s (retriggerRequest c s) := by
  unfold retriggerRequest
  split
  · exact modCue_same _ _ _ fun _ => ⟨rfl, rfl, rfl, rfl, rfl⟩
  · refine SameOutside.trans ?_ (modCue_same _ _ _ fun _ => ⟨rfl, rfl, rfl, rfl, rfl⟩)
    exact .of_eq rfl rfl rfl rfl rfl rfl rfl rfl rfl

theorem finishRequest_same (c : LineId) (count : Count) (s : State) : SameOutside s (finishRequest c count s) := by
  unfold finishRequest
  simp only
  split
  · exact modCue_same _ _ _ fun _ => ⟨rfl, rfl, rfl, rfl, rfl⟩
  · refine SameOutside.trans ?_ (endClaim_same _ _ _ _)
    exact modCue_same _ _ _ fun _ => ⟨rfl, rfl, rfl, rfl, rfl⟩

theorem cueRequest_same (c : LineId) (r : CueRequest) (count : Count) (s : State) :
    SameOutside s (cueRequest c r count s) := by
  cases r with
  | entry => exact entryRequest_same c count s
  | retrigger => exact retriggerRequest_same c s
  | finish => exact finishRequest_same c count s

theorem expire_same (k : ClaimKey) (count : Count) (s : State) : SameOutside s (expire k count s) := by
  unfold expire
  split
  · exact .refl s
  · split
    · exact .refl s
    · exact endClaim_same _ _ _ _

/-- An owner's act on a command touches nothing outside its tables. -/
theorem applyCmd_same (cmd : TimedCmd) (m : Mask) (l : LinkId) (count : Count) (s : State) :
    SameOutside s (applyCmd cmd m l count s).state := by
  cases cmd with
  | label => exact .of_eq rfl rfl rfl rfl rfl rfl rfl rfl rfl
  | text => exact .of_eq rfl rfl rfl rfl rfl rfl rfl rfl rfl
  | freqlist => exact .of_eq rfl rfl rfl rfl rfl rfl rfl rfl rfl
  | neighbour =>
    simp only [applyCmd, applyNeighbour]
    split <;> exact .of_eq rfl rfl rfl rfl rfl rfl rfl rfl rfl
  | neighbourFlags =>
    simp only [applyCmd, applyNeighbourFlags]
    split
    · exact .refl s
    · split
      · exact .refl s
      · exact .of_eq rfl rfl rfl rfl rfl rfl rfl rfl rfl
  | optoutBegin =>
    simp only [applyCmd, applyOptoutBegin]
    split
    · exact .refl s
    · exact .of_eq rfl rfl rfl rfl rfl rfl rfl rfl rfl
  | optoutEnd => exact .of_eq rfl rfl rfl rfl rfl rfl rfl rfl rfl
  | setInterval sv v =>
    refine ⟨rfl, fun p => ?_, rfl, rfl, rfl, rfl, rfl, fun _ => rfl, fun _ => rfl, fun _ => rfl, fun _ => seq_unmoved _,
      fun _ => ⟨rfl, rfl, rfl, rfl, rfl⟩, fun _ => ⟨_, rfl⟩⟩
    simp only [applyCmd, applySetInterval, Answer.done, State.outCfg, State.modSettings, Table.get_tabulate]
    split
    · exact ⟨_, rfl⟩
    · exact ⟨(s.settings.outputs.get p).intervals, rfl⟩
  | claim number cls priority group hold wait =>
    simp only [applyCmd, applyClaim]
    generalize hn : (Newcomer.mk _ _ _ _ _ _ _ _) = n
    have h := admit_same n count s
    split <;> next e => rw [e] at h; exact h
  | release number =>
    simp only [applyCmd, applyRelease]
    split
    · exact .refl s
    · exact endClaim_same _ _ _ _
  | tmsgAdd =>
    simp only [applyCmd, applyTmsgAdd]
    split
    · exact .of_eq rfl rfl rfl rfl rfl rfl rfl rfl rfl
    · split <;> exact .of_eq rfl rfl rfl rfl rfl rfl rfl rfl rfl
  | tmsgCancel =>
    simp only [applyCmd, applyTmsgCancel]
    split
    · exact .refl s
    · exact .of_eq rfl rfl rfl rfl rfl rfl rfl rfl rfl

theorem timedFailure_same (l : LinkId) (s : State) : SameOutside s (s.modLink l countTimedFailure) := by
  refine ⟨rfl, fun _ => ⟨_, rfl⟩, rfl, rfl, rfl, rfl, rfl, fun _ => rfl, fun _ => rfl, fun _ => rfl, fun _ => seq_unmoved _,
    fun _ => ⟨rfl, rfl, rfl, rfl, rfl⟩, fun k => ?_⟩
  by_cases hk : l = k
  · subst hk
    exact ⟨_, by rw [State.modLink_link_self]; rfl⟩
  · exact ⟨(s.link k).counters.timedFailures, by rw [State.modLink_link, if_neg hk]⟩

/-- The state in which an entry's result is recorded: the failure on its link has been counted. -/
theorem applyEntry_same (late : Bool) (count : Count) (e : QueueEntry) (s : State) :
    SameOutside s (applyEntry late count e s) := by
  have h := applyCmd_same e.cmd e.target e.link count s
  unfold applyEntry
  by_cases hf : (applyCmd e.cmd e.target e.link count s).status.isRefusal = true
  · simp only [hf, if_true]
    exact (h.trans (timedFailure_same _ _)).trans (.of_eq rfl rfl rfl rfl rfl rfl rfl rfl rfl)
  · simp only [hf, Bool.false_eq_true, if_false]
    exact h.trans (.of_eq rfl rfl rfl rfl rfl rfl rfl rfl rfl)

end Sys2Proof.Machine
end

