-- ==== Sys2Proof/Laws/Cells.lean ====
section
/-! SUPPORT. The choice and the fixing of a cell: what they leave as it stands, said once for every kind of cell. -/

namespace Sys2Proof.Machine

/-- What sending a cell leaves of an output's content: all but the label and its commit, LV, and the positions. -/
structure SameFace (o o' : OutContent) : Prop where
  source : o'.source = o.source
  requested : o'.requested = o.requested
  freqs : o'.freqs = o.freqs
  stagedFreqs : o'.stagedFreqs = o.stagedFreqs
  textShown : o'.textShown = o.textShown
  textVersion : o'.textVersion = o.textVersion
  textN : o'.varN.text = o.varN.text
  textR : o'.varR.text = o.varR.text
  stagedTextN : o'.varN.stagedText = o.varN.stagedText
  stagedTextR : o'.varR.stagedText = o.varR.stagedText
  textCommits : o'.counters.textCommits = o.counters.textCommits
  listCommits : o'.counters.listCommits = o.counters.listCommits
  superseded : o'.counters.superseded = o.counters.superseded
  sourceSwitches : o'.counters.sourceSwitches = o.counters.sourceSwitches

theorem SameFace.refl (o : OutContent) : SameFace o o := by constructor <;> rfl

theorem SameFace.trans {a b c : OutContent} (h : SameFace a b) (k : SameFace b c) : SameFace a c := by
  constructor
  · exact k.source.trans h.source
  · exact k.requested.trans h.requested
  · exact k.freqs.trans h.freqs
  · exact k.stagedFreqs.trans h.stagedFreqs
  · exact k.textShown.trans h.textShown
  · exact k.textVersion.trans h.textVersion
  · exact k.textN.trans h.textN
  · exact k.textR.trans h.textR
  · exact k.stagedTextN.trans h.stagedTextN
  · exact k.stagedTextR.trans h.stagedTextR
  · exact k.textCommits.trans h.textCommits
  · exact k.listCommits.trans h.listCommits
  · exact k.superseded.trans h.superseded
  · exact k.sourceSwitches.trans h.sourceSwitches

theorem commitLabel_face (o : OutContent) : SameFace o o.commitLabel := by
  unfold OutContent.commitLabel
  split
  · simp only [OutContent.modVariant]
    split <;> constructor <;> rfl
  · exact .refl o

theorem advanceLabel_face (o : OutContent) : SameFace o o.advanceLabel := by constructor <;> rfl
theorem advanceText_face (o : OutContent) : SameFace o o.advanceText := by constructor <;> rfl
theorem advanceFreqs_face (o : OutContent) : SameFace o o.advanceFreqs := by constructor <;> rfl

theorem advanceCycle_face (slot : SlotId) (second : Bool) (o : OutContent) : SameFace o (advanceCycle slot second o) := by
  unfold advanceCycle
  split <;> constructor <;> rfl

/-- What output `p`'s choice and cell leave as it stands. -/
structure SameButCell (p : OutId) (s t : State) : Prop where
  settings : t.settings = s.settings
  tb : t.tb = s.tb
  monitor : t.monitor = s.monitor
  claims : t.claims = s.claims
  queue : t.queue = s.queue
  cues : t.cues = s.cues
  links : t.links = s.links
  router : t.router = s.router
  store : t.store = s.store
  draws : t.draws = s.draws
  pending : t.pending = s.pending
  neighbours : t.content.neighbours = s.content.neighbours
  prevAn : t.content.prevAn = s.content.prevAn
  lane : ∀ q, p ≠ q → t.lane q = s.lane q
  out : ∀ q, p ≠ q → t.out q = s.out q
  run : (t.lane p).run = (s.lane p).run
  dout : (t.lane p).asm.dout = (s.lane p).asm.dout
  dck : (t.lane p).asm.dck = (s.lane p).asm.dck
  truncated : (t.lane p).asm.truncated = (s.lane p).asm.truncated
  seq : ∃ b, (t.lane p).seq = { (s.lane p).seq with burst := b }
  face : SameFace (s.out p) (t.out p)

theorem SameButCell.refl (p : OutId) (s : State) : SameButCell p s s :=
  ⟨rfl, rfl, rfl, rfl, rfl, rfl, rfl, rfl, rfl, rfl, rfl, rfl, rfl, fun _ _ => rfl, fun _ _ => rfl, rfl, rfl, rfl, rfl,
    ⟨_, rfl⟩, .refl _⟩

theorem SameButCell.trans {p : OutId} {s t u : State} (h : SameButCell p s t) (k : SameButCell p t u) :
    SameButCell p s u := by
  obtain ⟨b, e⟩ := h.seq
  obtain ⟨b', e'⟩ := k.seq
  exact ⟨k.settings.trans h.settings, k.tb.trans h.tb, k.monitor.trans h.monitor, k.claims.trans h.claims,
    k.queue.trans h.queue, k.cues.trans h.cues, k.links.trans h.links, k.router.trans h.router, k.store.trans h.store,
    k.draws.trans h.draws, k.pending.trans h.pending, k.neighbours.trans h.neighbours, k.prevAn.trans h.prevAn,
    fun q hq => (k.lane q hq).trans (h.lane q hq), fun q hq => (k.out q hq).trans (h.out q hq), k.run.trans h.run,
    k.dout.trans h.dout, k.dck.trans h.dck, k.truncated.trans h.truncated, ⟨b', by rw [e', e]⟩, h.face.trans k.face⟩

/-- A change of output `p`'s lane that keeps its run state, pins, truncated count and all of its sequencer but the
burst counter. -/
theorem SameButCell.modLane {p : OutId} {f : Lane → Lane} (s : State) (hr : (f (s.lane p)).run = (s.lane p).run)
    (hd : (f (s.lane p)).asm.dout = (s.lane p).asm.dout) (hk : (f (s.lane p)).asm.dck = (s.lane p).asm.dck)
    (ht : (f (s.lane p)).asm.truncated = (s.lane p).asm.truncated)
    (hq : ∃ b, (f (s.lane p)).seq = { (s.lane p).seq with burst := b }) : SameButCell p s (s.modLane p f) := by
  have e : (s.modLane p f).lane p = f (s.lane p) := State.modLane_lane_self ..
  exact ⟨rfl, rfl, rfl, rfl, rfl, rfl, rfl, rfl, rfl, rfl, rfl, rfl, rfl,
    fun q hne => by rw [State.modLane_lane, if_neg hne], fun _ _ => rfl, by rw [e, hr], by rw [e, hd], by rw [e, hk],
    by rw [e, ht], by rw [e]; exact hq, .refl _⟩

theorem SameButCell.modOut {p : OutId} {f : OutContent → OutContent} (s : State) (hf : SameFace (s.out p) (f (s.out p))) :
    SameButCell p s (s.modOut p f) := by
  have e : (s.modOut p f).out p = f (s.out p) := State.modOut_out_self ..
  exact ⟨rfl, rfl, rfl, rfl, rfl, rfl, rfl, rfl, rfl, rfl, rfl, rfl, rfl, fun _ _ => rfl,
    fun q hne => by rw [State.modOut_out, if_neg hne], rfl, rfl, rfl, rfl, ⟨_, rfl⟩, by rw [e]; exact hf⟩

theorem SameButCell.modPool (p : OutId) (f : List PoolRecord → List PoolRecord) (s : State) :
    SameButCell p s (s.modPool f) :=
  ⟨rfl, rfl, rfl, rfl, rfl, rfl, rfl, rfl, rfl, rfl, rfl, rfl, rfl, fun _ _ => rfl, fun _ _ => rfl, rfl, rfl, rfl, rfl,
    ⟨_, rfl⟩, .refl _⟩

theorem fixCell_same (p : OutId) (k : CellKind) (payload : List Byte) (s : State) :
    SameButCell p s (fixCell p k payload s) :=
  .modLane s rfl rfl rfl rfl ⟨_, rfl⟩

theorem neighbourCell_same (p : OutId) (slot : SlotId) (second : Bool) (s : State) :
    SameButCell p s (neighbourCell p slot second s) := by
  unfold neighbourCell
  split <;> exact fixCell_same _ _ _ _

theorem serviceCell_same (held : List Claim) (p : OutId) (sv : Service) (s : State) :
    SameButCell p s (serviceCell held p sv s) := by
  cases sv with
  | announce => exact fixCell_same _ _ _ _
  | tmsg =>
    simp only [serviceCell]
    split
    · exact fixCell_same _ _ _ _
    · exact (SameButCell.modPool _ _ _).trans (fixCell_same _ _ _ _)
  | label =>
    exact ((SameButCell.modOut _ (commitLabel_face _)).trans (fixCell_same _ _ _ _)).trans
      (.modOut _ (advanceLabel_face _))
  | freq => exact (fixCell_same _ _ _ _).trans (.modOut _ (advanceFreqs_face _))
  | neighbour =>
    simp only [serviceCell]
    split
    · exact fixCell_same _ _ _ _
    · exact (neighbourCell_same _ _ _ _).trans (.modOut _ (advanceCycle_face _ _ _))
  | text => exact (fixCell_same _ _ _ _).trans (.modOut _ (advanceText_face _))

theorem winnerCell_same (held : List Claim) (p : OutId) (w : Winner) (s : State) :
    SameButCell p s (winnerCell held p w s) := by
  cases w with
  | announceBurst => exact fixCell_same _ _ _ _
  | neighbourBurst b => exact neighbourCell_same _ _ _ _
  | service sv => exact serviceCell_same _ _ _ _
  | filler => exact fixCell_same _ _ _ _

theorem beforeChoice_same (p : OutId) (s : State) : SameButCell p s (beforeChoice p s) :=
  .modLane s rfl rfl rfl rfl ⟨_, rfl⟩

theorem afterChoice_same (p : OutId) (w : Winner) (s : State) : SameButCell p s (afterChoice p w s) := by
  apply SameButCell.modLane s <;> cases w <;> first | rfl | exact ⟨_, rfl⟩

/-- The whole of output `p`'s scheduling at a boundary. -/
theorem schedule_same (held : List Claim) (p : OutId) (s : State) : SameButCell p s (schedule held p s) := by
  unfold schedule
  split
  · exact ((beforeChoice_same p s).trans (afterChoice_same p _ _)).trans (winnerCell_same held p _ _)
  · exact .refl p s

end Sys2Proof.Machine
end

