-- ==== Sys2Proof/Laws/Stages.lean ====
section
/-! SUPPORT. What each stage of a boundary that is one update of State leaves in each field. -/

namespace Sys2Proof.Machine

variable (s : State)

/-! ### followMonitor -/

@[simp] theorem followMonitor_settings : (followMonitor s).settings = s.settings := rfl
@[simp] theorem followMonitor_tb : (followMonitor s).tb = s.tb := rfl
@[simp] theorem followMonitor_content : (followMonitor s).content = s.content := rfl
@[simp] theorem followMonitor_lanes : (followMonitor s).lanes = s.lanes := rfl
@[simp] theorem followMonitor_claims : (followMonitor s).claims = s.claims := rfl
@[simp] theorem followMonitor_pool : (followMonitor s).pool = s.pool := rfl
@[simp] theorem followMonitor_queue : (followMonitor s).queue = s.queue := rfl
@[simp] theorem followMonitor_cues : (followMonitor s).cues = s.cues := rfl
@[simp] theorem followMonitor_links : (followMonitor s).links = s.links := rfl
@[simp] theorem followMonitor_router : (followMonitor s).router = s.router := rfl
@[simp] theorem followMonitor_store : (followMonitor s).store = s.store := rfl
@[simp] theorem followMonitor_draws : (followMonitor s).draws = s.draws := rfl
@[simp] theorem followMonitor_pending : (followMonitor s).pending = s.pending := rfl

/-! ### beginBits -/

@[simp] theorem beginBits_settings (i : Nat) : (beginBits i s).settings = s.settings := rfl
@[simp] theorem beginBits_tb (i : Nat) : (beginBits i s).tb = s.tb := rfl
@[simp] theorem beginBits_content (i : Nat) : (beginBits i s).content = s.content := rfl
@[simp] theorem beginBits_claims (i : Nat) : (beginBits i s).claims = s.claims := rfl
@[simp] theorem beginBits_pool (i : Nat) : (beginBits i s).pool = s.pool := rfl
@[simp] theorem beginBits_queue (i : Nat) : (beginBits i s).queue = s.queue := rfl
@[simp] theorem beginBits_cues (i : Nat) : (beginBits i s).cues = s.cues := rfl
@[simp] theorem beginBits_links (i : Nat) : (beginBits i s).links = s.links := rfl
@[simp] theorem beginBits_router (i : Nat) : (beginBits i s).router = s.router := rfl
@[simp] theorem beginBits_store (i : Nat) : (beginBits i s).store = s.store := rfl
@[simp] theorem beginBits_draws (i : Nat) : (beginBits i s).draws = s.draws := rfl
@[simp] theorem beginBits_pending (i : Nat) : (beginBits i s).pending = s.pending := rfl

/-! ### selectMonitor -/

@[simp] theorem selectMonitor_settings : (selectMonitor s).settings = s.settings := rfl
@[simp] theorem selectMonitor_tb : (selectMonitor s).tb = s.tb := rfl
@[simp] theorem selectMonitor_content : (selectMonitor s).content = s.content := rfl
@[simp] theorem selectMonitor_lanes : (selectMonitor s).lanes = s.lanes := rfl
@[simp] theorem selectMonitor_claims : (selectMonitor s).claims = s.claims := rfl
@[simp] theorem selectMonitor_pool : (selectMonitor s).pool = s.pool := rfl
@[simp] theorem selectMonitor_queue : (selectMonitor s).queue = s.queue := rfl
@[simp] theorem selectMonitor_cues : (selectMonitor s).cues = s.cues := rfl
@[simp] theorem selectMonitor_links : (selectMonitor s).links = s.links := rfl
@[simp] theorem selectMonitor_router : (selectMonitor s).router = s.router := rfl
@[simp] theorem selectMonitor_store : (selectMonitor s).store = s.store := rfl
@[simp] theorem selectMonitor_draws : (selectMonitor s).draws = s.draws := rfl
@[simp] theorem selectMonitor_pending : (selectMonitor s).pending = s.pending := rfl

/-! ### gainTokens -/

@[simp] theorem gainTokens_settings : (gainTokens s).settings = s.settings := rfl
@[simp] theorem gainTokens_tb : (gainTokens s).tb = s.tb := rfl
@[simp] theorem gainTokens_content : (gainTokens s).content = s.content := rfl
@[simp] theorem gainTokens_lanes : (gainTokens s).lanes = s.lanes := rfl
@[simp] theorem gainTokens_monitor : (gainTokens s).monitor = s.monitor := rfl
@[simp] theorem gainTokens_claims : (gainTokens s).claims = s.claims := rfl
@[simp] theorem gainTokens_pool : (gainTokens s).pool = s.pool := rfl
@[simp] theorem gainTokens_queue : (gainTokens s).queue = s.queue := rfl
@[simp] theorem gainTokens_cues : (gainTokens s).cues = s.cues := rfl
@[simp] theorem gainTokens_router : (gainTokens s).router = s.router := rfl
@[simp] theorem gainTokens_store : (gainTokens s).store = s.store := rfl
@[simp] theorem gainTokens_draws : (gainTokens s).draws = s.draws := rfl
@[simp] theorem gainTokens_pending : (gainTokens s).pending = s.pending := rfl

/-! ### keepAn -/

@[simp] theorem keepAn_settings : (keepAn s).settings = s.settings := rfl
@[simp] theorem keepAn_tb : (keepAn s).tb = s.tb := rfl
@[simp] theorem keepAn_lanes : (keepAn s).lanes = s.lanes := rfl
@[simp] theorem keepAn_monitor : (keepAn s).monitor = s.monitor := rfl
@[simp] theorem keepAn_claims : (keepAn s).claims = s.claims := rfl
@[simp] theorem keepAn_pool : (keepAn s).pool = s.pool := rfl
@[simp] theorem keepAn_queue : (keepAn s).queue = s.queue := rfl
@[simp] theorem keepAn_cues : (keepAn s).cues = s.cues := rfl
@[simp] theorem keepAn_links : (keepAn s).links = s.links := rfl
@[simp] theorem keepAn_router : (keepAn s).router = s.router := rfl
@[simp] theorem keepAn_store : (keepAn s).store = s.store := rfl
@[simp] theorem keepAn_draws : (keepAn s).draws = s.draws := rfl
@[simp] theorem keepAn_pending : (keepAn s).pending = s.pending := rfl

/-! ### commitTexts -/

@[simp] theorem commitTexts_settings : (commitTexts s).settings = s.settings := rfl
@[simp] theorem commitTexts_tb : (commitTexts s).tb = s.tb := rfl
@[simp] theorem commitTexts_lanes : (commitTexts s).lanes = s.lanes := rfl
@[simp] theorem commitTexts_monitor : (commitTexts s).monitor = s.monitor := rfl
@[simp] theorem commitTexts_claims : (commitTexts s).claims = s.claims := rfl
@[simp] theorem commitTexts_pool : (commitTexts s).pool = s.pool := rfl
@[simp] theorem commitTexts_queue : (commitTexts s).queue = s.queue := rfl
@[simp] theorem commitTexts_cues : (commitTexts s).cues = s.cues := rfl
@[simp] theorem commitTexts_links : (commitTexts s).links = s.links := rfl
@[simp] theorem commitTexts_router : (commitTexts s).router = s.router := rfl
@[simp] theorem commitTexts_store : (commitTexts s).store = s.store := rfl
@[simp] theorem commitTexts_draws : (commitTexts s).draws = s.draws := rfl
@[simp] theorem commitTexts_pending : (commitTexts s).pending = s.pending := rfl

/-! ### updateSources -/

@[simp] theorem updateSources_settings : (updateSources s).settings = s.settings := rfl
@[simp] theorem updateSources_tb : (updateSources s).tb = s.tb := rfl
@[simp] theorem updateSources_lanes : (updateSources s).lanes = s.lanes := rfl
@[simp] theorem updateSources_monitor : (updateSources s).monitor = s.monitor := rfl
@[simp] theorem updateSources_claims : (updateSources s).claims = s.claims := rfl
@[simp] theorem updateSources_pool : (updateSources s).pool = s.pool := rfl
@[simp] theorem updateSources_queue : (updateSources s).queue = s.queue := rfl
@[simp] theorem updateSources_cues : (updateSources s).cues = s.cues := rfl
@[simp] theorem updateSources_links : (updateSources s).links = s.links := rfl
@[simp] theorem updateSources_router : (updateSources s).router = s.router := rfl
@[simp] theorem updateSources_store : (updateSources s).store = s.store := rfl
@[simp] theorem updateSources_draws : (updateSources s).draws = s.draws := rfl
@[simp] theorem updateSources_pending : (updateSources s).pending = s.pending := rfl

/-! ### holdPool -/

@[simp] theorem holdPool_settings (c : Count) : (holdPool c s).settings = s.settings := rfl
@[simp] theorem holdPool_tb (c : Count) : (holdPool c s).tb = s.tb := rfl
@[simp] theorem holdPool_content (c : Count) : (holdPool c s).content = s.content := rfl
@[simp] theorem holdPool_lanes (c : Count) : (holdPool c s).lanes = s.lanes := rfl
@[simp] theorem holdPool_monitor (c : Count) : (holdPool c s).monitor = s.monitor := rfl
@[simp] theorem holdPool_claims (c : Count) : (holdPool c s).claims = s.claims := rfl
@[simp] theorem holdPool_queue (c : Count) : (holdPool c s).queue = s.queue := rfl
@[simp] theorem holdPool_cues (c : Count) : (holdPool c s).cues = s.cues := rfl
@[simp] theorem holdPool_links (c : Count) : (holdPool c s).links = s.links := rfl
@[simp] theorem holdPool_router (c : Count) : (holdPool c s).router = s.router := rfl
@[simp] theorem holdPool_store (c : Count) : (holdPool c s).store = s.store := rfl
@[simp] theorem holdPool_draws (c : Count) : (holdPool c s).draws = s.draws := rfl
@[simp] theorem holdPool_pending (c : Count) : (holdPool c s).pending = s.pending := rfl

/-! ### jumpPool -/

@[simp] theorem jumpPool_settings (c : Count) : (jumpPool c s).settings = s.settings := rfl
@[simp] theorem jumpPool_tb (c : Count) : (jumpPool c s).tb = s.tb := rfl
@[simp] theorem jumpPool_content (c : Count) : (jumpPool c s).content = s.content := rfl
@[simp] theorem jumpPool_lanes (c : Count) : (jumpPool c s).lanes = s.lanes := rfl
@[simp] theorem jumpPool_monitor (c : Count) : (jumpPool c s).monitor = s.monitor := rfl
@[simp] theorem jumpPool_claims (c : Count) : (jumpPool c s).claims = s.claims := rfl
@[simp] theorem jumpPool_queue (c : Count) : (jumpPool c s).queue = s.queue := rfl
@[simp] theorem jumpPool_cues (c : Count) : (jumpPool c s).cues = s.cues := rfl
@[simp] theorem jumpPool_links (c : Count) : (jumpPool c s).links = s.links := rfl
@[simp] theorem jumpPool_router (c : Count) : (jumpPool c s).router = s.router := rfl
@[simp] theorem jumpPool_store (c : Count) : (jumpPool c s).store = s.store := rfl
@[simp] theorem jumpPool_draws (c : Count) : (jumpPool c s).draws = s.draws := rfl
@[simp] theorem jumpPool_pending (c : Count) : (jumpPool c s).pending = s.pending := rfl

/-! ### noteJump -/

@[simp] theorem noteJump_settings (c : Count) : (noteJump c s).settings = s.settings := rfl
@[simp] theorem noteJump_content (c : Count) : (noteJump c s).content = s.content := rfl
@[simp] theorem noteJump_lanes (c : Count) : (noteJump c s).lanes = s.lanes := rfl
@[simp] theorem noteJump_monitor (c : Count) : (noteJump c s).monitor = s.monitor := rfl
@[simp] theorem noteJump_claims (c : Count) : (noteJump c s).claims = s.claims := rfl
@[simp] theorem noteJump_queue (c : Count) : (noteJump c s).queue = s.queue := rfl
@[simp] theorem noteJump_cues (c : Count) : (noteJump c s).cues = s.cues := rfl
@[simp] theorem noteJump_links (c : Count) : (noteJump c s).links = s.links := rfl
@[simp] theorem noteJump_router (c : Count) : (noteJump c s).router = s.router := rfl
@[simp] theorem noteJump_draws (c : Count) : (noteJump c s).draws = s.draws := rfl
@[simp] theorem noteJump_pending (c : Count) : (noteJump c s).pending = s.pending := rfl

/-! ### advanceClaims -/

@[simp] theorem advanceClaims_settings : (advanceClaims s).settings = s.settings := rfl
@[simp] theorem advanceClaims_tb : (advanceClaims s).tb = s.tb := rfl
@[simp] theorem advanceClaims_content : (advanceClaims s).content = s.content := rfl
@[simp] theorem advanceClaims_lanes : (advanceClaims s).lanes = s.lanes := rfl
@[simp] theorem advanceClaims_monitor : (advanceClaims s).monitor = s.monitor := rfl
@[simp] theorem advanceClaims_pool : (advanceClaims s).pool = s.pool := rfl
@[simp] theorem advanceClaims_queue : (advanceClaims s).queue = s.queue := rfl
@[simp] theorem advanceClaims_cues : (advanceClaims s).cues = s.cues := rfl
@[simp] theorem advanceClaims_links : (advanceClaims s).links = s.links := rfl
@[simp] theorem advanceClaims_router : (advanceClaims s).router = s.router := rfl
@[simp] theorem advanceClaims_store : (advanceClaims s).store = s.store := rfl
@[simp] theorem advanceClaims_draws : (advanceClaims s).draws = s.draws := rfl
@[simp] theorem advanceClaims_pending : (advanceClaims s).pending = s.pending := rfl

/-! ### writeViews -/

@[simp] theorem writeViews_settings : (writeViews s).settings = s.settings := rfl
@[simp] theorem writeViews_tb : (writeViews s).tb = s.tb := rfl
@[simp] theorem writeViews_content : (writeViews s).content = s.content := rfl
@[simp] theorem writeViews_monitor : (writeViews s).monitor = s.monitor := rfl
@[simp] theorem writeViews_claims : (writeViews s).claims = s.claims := rfl
@[simp] theorem writeViews_pool : (writeViews s).pool = s.pool := rfl
@[simp] theorem writeViews_queue : (writeViews s).queue = s.queue := rfl
@[simp] theorem writeViews_cues : (writeViews s).cues = s.cues := rfl
@[simp] theorem writeViews_links : (writeViews s).links = s.links := rfl
@[simp] theorem writeViews_router : (writeViews s).router = s.router := rfl
@[simp] theorem writeViews_store : (writeViews s).store = s.store := rfl
@[simp] theorem writeViews_draws : (writeViews s).draws = s.draws := rfl
@[simp] theorem writeViews_pending : (writeViews s).pending = s.pending := rfl

/-! ### cutCells -/

@[simp] theorem cutCells_settings : (cutCells s).settings = s.settings := rfl
@[simp] theorem cutCells_tb : (cutCells s).tb = s.tb := rfl
@[simp] theorem cutCells_content : (cutCells s).content = s.content := rfl
@[simp] theorem cutCells_monitor : (cutCells s).monitor = s.monitor := rfl
@[simp] theorem cutCells_claims : (cutCells s).claims = s.claims := rfl
@[simp] theorem cutCells_pool : (cutCells s).pool = s.pool := rfl
@[simp] theorem cutCells_queue : (cutCells s).queue = s.queue := rfl
@[simp] theorem cutCells_cues : (cutCells s).cues = s.cues := rfl
@[simp] theorem cutCells_links : (cutCells s).links = s.links := rfl
@[simp] theorem cutCells_router : (cutCells s).router = s.router := rfl
@[simp] theorem cutCells_store : (cutCells s).store = s.store := rfl
@[simp] theorem cutCells_draws : (cutCells s).draws = s.draws := rfl
@[simp] theorem cutCells_pending : (cutCells s).pending = s.pending := rfl

/-! ### middle -/

@[simp] theorem middle_settings : (middle s).settings = s.settings := rfl
@[simp] theorem middle_tb : (middle s).tb = s.tb := rfl
@[simp] theorem middle_content : (middle s).content = s.content := rfl
@[simp] theorem middle_claims : (middle s).claims = s.claims := rfl
@[simp] theorem middle_pool : (middle s).pool = s.pool := rfl
@[simp] theorem middle_queue : (middle s).queue = s.queue := rfl
@[simp] theorem middle_cues : (middle s).cues = s.cues := rfl
@[simp] theorem middle_links : (middle s).links = s.links := rfl
@[simp] theorem middle_router : (middle s).router = s.router := rfl
@[simp] theorem middle_store : (middle s).store = s.store := rfl
@[simp] theorem middle_draws : (middle s).draws = s.draws := rfl
@[simp] theorem middle_pending : (middle s).pending = s.pending := rfl

/-! ### The fields they change -/

@[simp] theorem noteJump_tb (c : Count) : (noteJump c s).tb = s.tb.countJump := rfl

@[simp] theorem noteJump_store (c : Count) : (noteJump c s).store = (s.raiseFault .timebaseJump).store := rfl

@[simp] theorem advanceClaims_table : (advanceClaims s).claims.table = s.claims.table.map (advanceClaim s) := rfl

@[simp] theorem updateSources_out (p : OutId) :
    (updateSources s).out p = (s.out p).updateSource ((s.outCfg p).regId != 0) := Table.get_tabulate ..

@[simp] theorem commitTexts_out (p : OutId) : (commitTexts s).out p =
    if (s.lane p).run then (s.out p).commitText.commitFreqs else s.out p := Table.get_tabulate ..

@[simp] theorem gainTokens_link (l : LinkId) : (gainTokens s).link l = gainToken (s.linkCfg l) (s.link l) :=
  Table.get_tabulate ..

@[simp] theorem writeViews_lane (p : OutId) : (writeViews s).lane p =
    if (s.lane p).run then (s.lane p).modSeq (Sequencer.writeView s.claims.table) else s.lane p := Table.get_map ..

@[simp] theorem beginBits_lane (i : Nat) (p : OutId) :
    (beginBits i s).lane p = { s.lane p with asm := (s.lane p).asm.beginBit i } := Table.get_map ..

@[simp] theorem middle_lane (p : OutId) : (middle s).lane p = { s.lane p with asm := (s.lane p).asm.middle } :=
  Table.get_map ..

@[simp] theorem cutCells_lane (p : OutId) : (cutCells s).lane p =
    if (s.lane p).run then
      { s.lane p with asm := { (s.lane p).asm with truncated := satInc (s.lane p).asm.truncated } }
    else s.lane p := Table.get_map ..

@[simp] theorem updateSources_neighbours : (updateSources s).content.neighbours = s.content.neighbours := rfl

@[simp] theorem commitTexts_neighbours : (commitTexts s).content.neighbours = s.content.neighbours := rfl

@[simp] theorem keepAn_neighbours : (keepAn s).content.neighbours = s.content.neighbours := rfl

end Sys2Proof.Machine
end

