-- ==== Sys2Proof/Laws/Boundary.lean ====
section
/-! SUPPORT. A boundary, stage by stage: what it leaves in each part of the state. -/

namespace Sys2Proof.Machine

/-! ### Walks over the outputs -/

/-- What every step of a walk keeps, the walk keeps. -/
theorem eachOut_keeps {α : Type} (g : State → α) (f : OutId → State → State) (h : ∀ p s, g (f p s) = g s) (s : State) :
    g (s.eachOut f) = g s := by
  simp [State.eachOut, outputs, h]

/-- A property every step of a walk preserves holds after the walk. -/
theorem eachOut_induct {P : State → Prop} (f : OutId → State → State) (h : ∀ p s, P s → P (f p s)) {s : State}
    (hs : P s) : P (s.eachOut f) := by
  simp only [State.eachOut, outputs, List.foldl_cons, List.foldl_nil]
  exact h _ _ (h _ _ (h _ _ (h _ _ hs)))

/-- What the steps for the other outputs keep about output `p`, once its own step has been taken. -/
theorem eachOut_at {α : Type} (g : State → α) (f : OutId → State → State) (p : OutId)
    (h : ∀ q s, q ≠ p → g (f q s) = g s) (s : State) :
    ∃ s', g s' = g s ∧ g (s.eachOut f) = g (f p s') := by
  simp only [State.eachOut, outputs, List.foldl_cons, List.foldl_nil]
  match p with
  | 0 => exact ⟨s, rfl, by rw [h 3 _ (by decide), h 2 _ (by decide), h 1 _ (by decide)]⟩
  | 1 => exact ⟨f 0 s, h 0 _ (by decide), by rw [h 3 _ (by decide), h 2 _ (by decide)]⟩
  | 2 => exact ⟨f 1 (f 0 s), by rw [h 1 _ (by decide), h 0 _ (by decide)], by rw [h 3 _ (by decide)]⟩
  | 3 => exact ⟨f 2 (f 1 (f 0 s)), by rw [h 2 _ (by decide), h 1 _ (by decide), h 0 _ (by decide)], rfl⟩

/-! ### Table changes (R99, R135) -/

theorem takeChange_same (count : Count) (ch : Change) (s : State) : SameOutside s (takeChange count ch s) := by
  cases ch with
  | expiry k => exact expire_same k count s
  | request c r =>
    refine SameOutside.trans ?_ (cueRequest_same c r count _)
    exact modCue_same _ _ _ fun _ => ⟨rfl, rfl, rfl, rfl, rfl⟩
  | retry c => exact retryRequest_same c count s

/-- What every change and every timed entry preserves, the whole of the table changes preserves. -/
theorem takeChanges_induct {P : State → Prop} {o : Order} {count : Count} (hd : ∀ s, P s → P s.draw)
    (hc : ∀ ch s, P s → P (takeChange count ch s)) :
    ∀ (fuel : Nat) (timed : List Due) (others : List Change) (s : State),
      (∀ d, d ∈ timed → ∀ s, P s → P (applyEntry d.late count d.entry s)) → P s →
      P (takeChanges o count fuel timed others s) := by
  intro fuel
  induction fuel with
  | zero => intro _ _ _ _ h; exact h
  | succ fuel ih =>
    intro timed others s ha h
    simp only [takeChanges]
    have hp : ∀ n, P (pickChange o n s).2 := by
      intro n
      by_cases hn : n ≤ 1
      · simp only [pickChange, hn, if_true]; exact h
      · cases o with
        | free => simp only [pickChange, hn, if_false]; exact hd _ h
        | expiriesFirst => simp only [pickChange, hn, if_false]; exact h
    split
    · exact ih _ _ _ ha (hc _ _ (hp _))
    · exact ih _ _ _ (fun d hd' => ha d (List.mem_cons_of_mem _ hd')) (ha _ List.mem_cons_self _ (hp _))
    · exact hp _

theorem takeChanges_same (o : Order) (count : Count) (fuel : Nat) (timed : List Due) (others : List Change)
    (s : State) : SameOutside s (takeChanges o count fuel timed others s) :=
  takeChanges_induct (P := SameOutside s) (fun _ h => h.trans (.of_eq rfl rfl rfl rfl rfl rfl rfl rfl rfl))
    (fun ch _ h => h.trans (takeChange_same count ch _)) fuel timed others s
    (fun d _ _ h => h.trans (applyEntry_same d.late count d.entry _)) (.refl s)

theorem takeEntries_same (expected new : Count) (s : State) : SameOutside s (takeEntries expected new s).2 := by
  unfold takeEntries
  split
  · exact .of_eq rfl rfl rfl rfl rfl rfl rfl rfl rfl
  · simp only [takeLate]
    split <;> exact .of_eq rfl rfl rfl rfl rfl rfl rfl rfl rfl

theorem tableChanges_same (o : Order) (expected new : Count) (s : State) :
    SameOutside s (tableChanges o expected new s) :=
  (takeEntries_same expected new s).trans (takeChanges_same ..)

/-! ### What the other stages keep -/

theorem changeRun_keeps {α : Type} (g : State → α) (hg : ∀ s lanes content, g { s with lanes := lanes, content := content } = g s)
    (p : OutId) (s : State) : g (changeRun p s) = g s := by
  unfold changeRun
  split
  · exact hg s _ _
  · exact hg s _ s.content
  · rfl
  · rfl

theorem sequence_keeps {α : Type} (g : State → α) (hg : ∀ s lanes, g { s with lanes := lanes } = g s) (p : OutId)
    (s : State) : g (sequence p s) = g s := by
  unfold sequence
  split
  · exact hg s _
  · rfl

theorem requestBursts_keeps {α : Type} (g : State → α) (hg : ∀ s lanes, g { s with lanes := lanes } = g s) (first : Bool)
    (p : OutId) (s : State) : g (requestBursts first p s) = g s := by
  unfold requestBursts
  split
  · split
    · rfl
    · exact hg s _
  · rfl

/-- What the filling of cells keeps: everything but lanes, claims, content and pool. -/
structure SameButCells (s t : State) : Prop where
  settings : t.settings = s.settings
  tb : t.tb = s.tb
  monitor : t.monitor = s.monitor
  queue : t.queue = s.queue
  cues : t.cues = s.cues
  links : t.links = s.links
  router : t.router = s.router
  store : t.store = s.store
  draws : t.draws = s.draws
  pending : t.pending = s.pending
  neighbours : t.content.neighbours = s.content.neighbours

theorem SameButCells.refl (s : State) : SameButCells s s := by constructor <;> rfl

theorem SameButCells.trans {s t u : State} (h : SameButCells s t) (k : SameButCells t u) : SameButCells s u :=
  ⟨k.settings.trans h.settings, k.tb.trans h.tb, k.monitor.trans h.monitor, k.queue.trans h.queue,
    k.cues.trans h.cues, k.links.trans h.links, k.router.trans h.router, k.store.trans h.store,
    k.draws.trans h.draws, k.pending.trans h.pending, k.neighbours.trans h.neighbours⟩

theorem viewStage_same (s : State) : SameButCells s (writeViews (advanceClaims s)) := by constructor <;> rfl

theorem SameButCells.of_lanes (s : State) (lanes : Table 4 Lane) : SameButCells s { s with lanes := lanes } := by
  constructor <;> rfl

theorem keepAn_same (s : State) : SameButCells s (keepAn s) := by constructor <;> rfl

theorem fillCells_same (s : State) : SameButCells s (fillCells s) := by
  have h1 : SameButCells s (s.eachOut sequence) := by
    apply eachOut_induct (P := SameButCells s) sequence _ (.refl s)
    intro p t h
    refine h.trans ?_
    unfold sequence
    split
    · exact .of_lanes _ _
    · exact .refl t
  refine (h1.trans (viewStage_same _)).trans ?_
  refine eachOut_induct (P := SameButCells _) _ (fun p t h => h.trans ?_) (.refl _)
  have k := schedule_same (s.eachOut sequence).claims.table p t
  exact ⟨k.settings, k.tb, k.monitor, k.queue, k.cues, k.links, k.router, k.store, k.draws, k.pending, k.neighbours⟩

theorem compareNeighbours_same (first : Bool) (s : State) : SameButCells s (compareNeighbours first s) := by
  have h1 : SameButCells s (s.eachOut (requestBursts first)) := by
    apply eachOut_induct (P := SameButCells s) _ _ (.refl s)
    intro p t h
    refine h.trans ?_
    unfold requestBursts
    split
    · split
      · exact .refl t
      · exact .of_lanes _ _
    · exact .refl t
  exact h1.trans (keepAn_same _)

theorem changeRuns_same (s : State) : SameButCells s (s.eachOut changeRun) := by
  apply eachOut_induct (P := SameButCells s) _ _ (.refl s)
  intro p t h
  refine h.trans ?_
  unfold changeRun
  split <;> constructor <;> rfl

/-! ### The stages by name -/

/-- The state of a boundary once the lock state, the rate, the count and the run states are set, and a jump reported. -/
def beforeTables (expected new : Count) (arm : Option Count) (marked : Bool) (s : State) : State :=
  let t := ((judgeCell s).modTb (Timebase.beginCell new arm marked)).eachOut changeRun
  if new = expected then t else noteJump new t

/-- The state once the table changes, the sources, the pool's hold and the commits are made. -/
def beforeCells (o : Order) (expected new : Count) (arm : Option Count) (marked : Bool) (s : State) : State :=
  commitTexts (holdPool new (updateSources (tableChanges o expected new (beforeTables expected new arm marked s))))

/-- A boundary is its stages. -/
theorem boundaryAt_eq (o : Order) (expected new : Count) (arm : Option Count) (marked : Bool) (s : State) :
    boundaryAt o expected new arm marked s =
      beginBits 0 (selectMonitor (gainTokens (compareNeighbours (s.tb.start != .running)
        (fillCells (beforeCells o expected new arm marked s))))) := rfl

section
variable (o : Order) (expected new : Count) (arm : Option Count) (marked : Bool) (s : State)

/-- The timebase's own work at a boundary. -/
def boundaryTb : Timebase :=
  let t := Timebase.beginCell new arm marked
    ((s.tb.judge s.settings.mode).chooseRate (Config.freeRate s.draws))
  if new = expected then t else t.countJump

theorem judgeCell_tb : (judgeCell s).tb = (s.tb.judge s.settings.mode).chooseRate (Config.freeRate s.draws) := by
  unfold judgeCell
  simp only
  split <;> rfl

theorem judgeCell_keeps {α : Type} (g : State → α)
    (hg : ∀ s tb draws, g { s with tb := tb, draws := draws } = g s) : g (judgeCell s) = g s := by
  unfold judgeCell
  simp only
  split
  · exact hg s _ _
  · exact hg s _ s.draws

/-- What the stages before the table changes keep. -/
theorem setUp_keeps {α : Type} (g : State → α) (hg : ∀ s tb draws, g { s with tb := tb, draws := draws } = g s) :
    g ((judgeCell s).modTb (Timebase.beginCell new arm marked)) = g s := by
  have h := hg (judgeCell s) (((judgeCell s).tb).beginCell new arm marked) (judgeCell s).draws
  exact h.trans (judgeCell_keeps s g hg)

theorem beforeTables_tb : (beforeTables expected new arm marked s).tb = boundaryTb expected new arm marked s := by
  have h := (changeRuns_same ((judgeCell s).modTb (Timebase.beginCell new arm marked))).tb
  rw [State.modTb_tb, judgeCell_tb] at h
  unfold beforeTables boundaryTb
  simp only
  split
  · exact h
  · rw [noteJump_tb, h]

theorem beforeTables_settings : (beforeTables expected new arm marked s).settings = s.settings := by
  have h := (changeRuns_same ((judgeCell s).modTb (Timebase.beginCell new arm marked))).settings
  rw [setUp_keeps new arm marked s (·.settings) fun _ _ _ => rfl] at h
  unfold beforeTables
  simp only
  split
  · exact h
  · rw [noteJump_settings, h]

theorem beforeTables_pending : (beforeTables expected new arm marked s).pending = s.pending := by
  have h := (changeRuns_same ((judgeCell s).modTb (Timebase.beginCell new arm marked))).pending
  rw [setUp_keeps new arm marked s (·.pending) fun _ _ _ => rfl] at h
  unfold beforeTables
  simp only
  split
  · exact h
  · rw [noteJump_pending, h]

theorem beforeTables_links : (beforeTables expected new arm marked s).links = s.links := by
  have h := (changeRuns_same ((judgeCell s).modTb (Timebase.beginCell new arm marked))).links
  rw [setUp_keeps new arm marked s (·.links) fun _ _ _ => rfl] at h
  unfold beforeTables
  simp only
  split
  · exact h
  · rw [noteJump_links, h]

theorem beforeTables_store : (beforeTables expected new arm marked s).store =
    if new = expected then s.store else (s.raiseFault .timebaseJump).store := by
  have h := changeRuns_same ((judgeCell s).modTb (Timebase.beginCell new arm marked))
  have hs := h.store
  have hg := h.settings
  rw [setUp_keeps new arm marked s (·.store) fun _ _ _ => rfl] at hs
  rw [setUp_keeps new arm marked s (·.settings) fun _ _ _ => rfl] at hg
  unfold beforeTables
  simp only
  split
  · exact hs
  · rw [noteJump_store]
    simp only [State.raiseFault, State.followAlert]
    rw [hs, hg]

/-- The timebase after a boundary. -/
theorem boundaryAt_tb : (boundaryAt o expected new arm marked s).tb = boundaryTb expected new arm marked s := by
  rw [boundaryAt_eq, beginBits_tb, selectMonitor_tb, gainTokens_tb, (compareNeighbours_same _ _).tb,
    (fillCells_same _).tb, beforeCells, commitTexts_tb, holdPool_tb, updateSources_tb,
    (tableChanges_same o expected new _).tb, beforeTables_tb]

/-- The store and ALERT after a boundary: as they stand, but for a jump. -/
theorem boundaryAt_store : (boundaryAt o expected new arm marked s).store =
    if new = expected then s.store else (s.raiseFault .timebaseJump).store := by
  rw [boundaryAt_eq, beginBits_store, selectMonitor_store, gainTokens_store, (compareNeighbours_same _ _).store,
    (fillCells_same _).store, beforeCells, commitTexts_store, holdPool_store, updateSources_store,
    (tableChanges_same o expected new _).store, beforeTables_store]

/-- A boundary leaves the waiting commands. -/
theorem boundaryAt_pending : (boundaryAt o expected new arm marked s).pending = s.pending := by
  rw [boundaryAt_eq, beginBits_pending, selectMonitor_pending, gainTokens_pending, (compareNeighbours_same _ _).pending,
    (fillCells_same _).pending, beforeCells, commitTexts_pending, holdPool_pending, updateSources_pending,
    (tableChanges_same o expected new _).pending, beforeTables_pending]

theorem boundaryAt_settings_eq : (boundaryAt o expected new arm marked s).settings =
    (tableChanges o expected new (beforeTables expected new arm marked s)).settings := by
  rw [boundaryAt_eq, beginBits_settings, selectMonitor_settings, gainTokens_settings,
    (compareNeighbours_same _ _).settings, (fillCells_same _).settings, beforeCells, commitTexts_settings,
    holdPool_settings, updateSources_settings]

/-- A boundary leaves the settings but for the intervals that timed entries write (R68). -/
theorem boundaryAt_settings :
    (boundaryAt o expected new arm marked s).settings =
        { s.settings with outputs := (boundaryAt o expected new arm marked s).settings.outputs } ∧
      ∀ p, ∃ iv, (boundaryAt o expected new arm marked s).outCfg p = { s.outCfg p with intervals := iv } := by
  have e := boundaryAt_settings_eq o expected new arm marked s
  have h := tableChanges_same o expected new (beforeTables expected new arm marked s)
  have hs := beforeTables_settings expected new arm marked s
  constructor
  · rw [e, h.settings, hs]
  · intro p
    obtain ⟨iv, hv⟩ := h.outCfg p
    refine ⟨iv, ?_⟩
    simp only [State.outCfg] at *
    rw [e, hv, hs]

/-- R158: the tokens after a boundary; of the rest of a link only the count of timed failures can have changed. -/
theorem boundaryAt_link (l : LinkId) : ∃ n, (boundaryAt o expected new arm marked s).link l =
    gainToken (s.linkCfg l)
      { s.link l with counters := { (s.link l).counters with timedFailures := n } } := by
  have h := tableChanges_same o expected new (beforeTables expected new arm marked s)
  obtain ⟨n, e⟩ := h.link l
  refine ⟨n, ?_⟩
  have hk : (compareNeighbours (s.tb.start != .running) (fillCells (beforeCells o expected new arm marked s))).link l =
      (tableChanges o expected new (beforeTables expected new arm marked s)).link l := by
    simp only [State.link]
    rw [(compareNeighbours_same _ _).links, (fillCells_same _).links, beforeCells, commitTexts_links, holdPool_links,
      updateSources_links]
  have hc : (compareNeighbours (s.tb.start != .running) (fillCells (beforeCells o expected new arm marked s))).linkCfg l =
      s.linkCfg l := by
    simp only [State.linkCfg]
    rw [(compareNeighbours_same _ _).settings, (fillCells_same _).settings, beforeCells, commitTexts_settings,
      holdPool_settings, updateSources_settings, h.settings, beforeTables_settings]
  have hl : (beforeTables expected new arm marked s).link l = s.link l := by
    simp only [State.link]; rw [beforeTables_links]
  have hb : ∀ u : State, (beginBits 0 (selectMonitor (gainTokens u))).link l = gainToken (u.linkCfg l) (u.link l) :=
    fun u => gainTokens_link u l
  rw [boundaryAt_eq, hb, hk, hc, e, hl]

end

end Sys2Proof.Machine
end

