-- ==== Sys2Proof/Laws/Lanes.lean ====
section
/-! SUPPORT. What a boundary does to the lane and the content of one output, stage by stage. -/

namespace Sys2Proof.Machine

/-! ### Run states (R13, R14) -/

/-- The lane of an output once its run state follows its enable. -/
def runLane (enable : Bool) (ln : Lane) : Lane :=
  match ln.run, enable with
  | false, true => { ln with run := true, seq := ln.seq.startRun, sched := ln.sched.startRun }
  | true, false => { ln with run := false, seq := ln.seq.leaveRun, asm := { ln.asm with cell := none } }
  | false, false => ln
  | true, true => ln

/-- The content of an output once its run state follows its enable. -/
def runOut (run enable : Bool) (o : OutContent) : OutContent := if !run && enable then o.startRun else o

@[simp] theorem runLane_run (enable : Bool) (ln : Lane) : (runLane enable ln).run = enable := by
  unfold runLane
  split <;> first | rfl | assumption

theorem changeRun_lane_self (p : OutId) (s : State) :
    (changeRun p s).lane p = runLane (s.outCfg p).enable (s.lane p) := by
  unfold changeRun runLane
  cases hr : (s.lane p).run <;> cases he : (s.outCfg p).enable <;> simp only
  · exact State.modLane_lane_self ..
  · exact State.modLane_lane_self ..

theorem changeRun_out_self (p : OutId) (s : State) :
    (changeRun p s).out p = runOut (s.lane p).run (s.outCfg p).enable (s.out p) := by
  unfold changeRun runOut
  cases hr : (s.lane p).run <;> cases he : (s.outCfg p).enable <;>
    simp only [Bool.not_false, Bool.not_true, Bool.and_self, Bool.and_true, Bool.and_false, if_true,
      Bool.false_eq_true, if_false]
  · exact State.modOut_out_self ..
  · rfl

theorem changeRun_ne {p q : OutId} (h : q ≠ p) (s : State) :
    (changeRun q s).lane p = s.lane p ∧ (changeRun q s).out p = s.out p := by
  unfold changeRun
  split
  · exact ⟨(State.modLane_lane _ q p _).trans (if_neg h), (State.modOut_out _ q p _).trans (if_neg h)⟩
  · exact ⟨(State.modLane_lane _ q p _).trans (if_neg h), rfl⟩
  · exact ⟨rfl, rfl⟩
  · exact ⟨rfl, rfl⟩

theorem changeRun_settings (p : OutId) (s : State) : (changeRun p s).settings = s.settings :=
  changeRun_keeps (·.settings) (fun _ _ _ => rfl) p s

/-- Lane and content of output `p` after the run states have changed. -/
theorem changeRuns_at (p : OutId) (s : State) :
    (s.eachOut changeRun).lane p = runLane (s.outCfg p).enable (s.lane p) ∧
      (s.eachOut changeRun).out p = runOut (s.lane p).run (s.outCfg p).enable (s.out p) := by
  obtain ⟨s', h1, h2⟩ := eachOut_at (fun s => (s.lane p, s.out p, s.settings)) changeRun p
    (fun q s hq => by
      simp only [Prod.mk.injEq]
      exact ⟨(changeRun_ne hq s).1, (changeRun_ne hq s).2, changeRun_settings q s⟩) s
  simp only [Prod.mk.injEq] at h1 h2
  have hc : s'.outCfg p = s.outCfg p := by simp only [State.outCfg]; rw [h1.2.2]
  rw [h2.1, h2.2.1, changeRun_lane_self, changeRun_out_self, h1.1, h1.2.1, hc]
  exact ⟨rfl, rfl⟩

section
variable (o : Order) (expected new : Count) (arm : Option Count) (marked : Bool) (s : State) (p : OutId)

theorem noteJump_lane (c : Count) : (noteJump c s).lane p = s.lane p := rfl

theorem noteJump_out (c : Count) : (noteJump c s).out p = s.out p := rfl

theorem beforeTables_at :
    (beforeTables expected new arm marked s).lane p = runLane (s.outCfg p).enable (s.lane p) ∧
      (beforeTables expected new arm marked s).out p = runOut (s.lane p).run (s.outCfg p).enable (s.out p) := by
  have h := changeRuns_at p ((judgeCell s).modTb (Timebase.beginCell new arm marked))
  have e1 := setUp_keeps new arm marked s (fun s => s.lane p) (fun _ _ _ => rfl)
  have e2 := setUp_keeps new arm marked s (fun s => s.out p) (fun _ _ _ => rfl)
  have e3 := setUp_keeps new arm marked s (fun s => s.outCfg p) (fun _ _ _ => rfl)
  rw [e1, e2, e3] at h
  unfold beforeTables
  simp only
  split
  · exact h
  · rw [noteJump_lane, noteJump_out]; exact h

/-- The lane of output `p` when the sequencers begin: its run state is its enable, and a renumbering has at most moved
the stamp of its current claim. -/
theorem beforeCells_lane :
    ∃ f, (beforeCells o expected new arm marked s).lane p =
      { runLane (s.outCfg p).enable (s.lane p) with
        seq := { (runLane (s.outCfg p).enable (s.lane p)).seq with
          current := (runLane (s.outCfg p).enable (s.lane p)).seq.current.map f } } := by
  have h := tableChanges_same o expected new (beforeTables expected new arm marked s)
  obtain ⟨f, e⟩ := h.seq p
  have h1 := h.run p
  have h2 := h.asm p
  have h3 := h.sched p
  have e0 := (beforeTables_at expected new arm marked s p).1
  refine ⟨f, ?_⟩
  have hl : (beforeCells o expected new arm marked s).lane p =
      (tableChanges o expected new (beforeTables expected new arm marked s)).lane p := by
    simp only [State.lane]
    rw [beforeCells, commitTexts_lanes, holdPool_lanes, updateSources_lanes]
  rw [hl]
  rw [e0] at h1 h2 h3 e
  generalize (tableChanges o expected new (beforeTables expected new arm marked s)).lane p = ln at *
  cases ln
  simp only at h1 h2 h3 e
  subst h1; subst h2; subst h3; subst e
  rfl

theorem beforeCells_outCfg : ∃ iv, (beforeCells o expected new arm marked s).outCfg p =
    { s.outCfg p with intervals := iv } := by
  obtain ⟨iv, h⟩ := (tableChanges_same o expected new (beforeTables expected new arm marked s)).outCfg p
  refine ⟨iv, ?_⟩
  simp only [State.outCfg] at *
  rw [beforeCells, commitTexts_settings, holdPool_settings, updateSources_settings, h, beforeTables_settings]

end

/-! ### The sequencers, the views, the cells -/

/-- R111: setting the burst counter moves neither the phase nor the current claim. -/
theorem Sequencer.setBurst_names (cfg : OutSettings) (before q : Sequencer) :
    (setBurst cfg before q).phase = q.phase ∧ (setBurst cfg before q).current = q.current := by
  unfold setBurst
  split <;> exact ⟨rfl, rfl⟩

/-- What a sequencer names after its work at a boundary, and in which phase, is what the transition leaves. -/
theorem Sequencer.boundary_names (cfg : OutSettings) (chosen : Option ClaimRef) (q : Sequencer) :
    (q.boundary cfg chosen).phase = (if cfg.tc then (q.transition cfg chosen).phase else .quiet) ∧
      (q.boundary cfg chosen).current = if cfg.tc then (q.transition cfg chosen).current else none := by
  have h := setBurst_names cfg q (if cfg.tc then q.transition cfg chosen else q.countDrop.silence)
  refine ⟨h.1.trans ?_, h.2.trans ?_⟩ <;> split <;> rfl

/-- After its work at a boundary a sequencer in RUN with TC 1 names the claim chosen; with TC 0, none. -/
theorem Sequencer.boundary_current (cfg : OutSettings) (chosen : Option ClaimRef) (q : Sequencer)
    (h : q.phase = .quiet ∨ q.phase = .trail → q.current = none) :
    (q.boundary cfg chosen).current = if cfg.tc then chosen else none := by
  rw [(boundary_names cfg chosen q).2]
  unfold transition
  cases hp : q.phase <;> cases chosen <;> simp [hp] at h <;> first | rfl | simp [h, lessTrail]

/-- A sequencer that names a claim exactly in ONSET and ON_AIR does so after its work at a boundary too. -/
theorem Sequencer.boundary_namesByPhase (cfg : OutSettings) (chosen : Option ClaimRef) (q : Sequencer)
    (h : q.namesByPhase) : (q.boundary cfg chosen).namesByPhase := by
  have hc := boundary_current cfg chosen q h.2
  have hp := (boundary_names cfg chosen q).1
  unfold namesByPhase at *
  rw [hc, hp]
  cases cfg.tc
  · simp
  · unfold transition
    cases e : q.phase <;> cases chosen <;>
      simp [e, begin, handTo, lessLead, abort, finish, resume, lessTrail] <;> first | (split <;> simp) | exact Decidable.em _

theorem Sequencer.writeView_namesByPhase (held : List Claim) (q : Sequencer) :
    (q.writeView held).namesByPhase ↔ q.namesByPhase := by
  unfold writeView namesByPhase
  (repeat' split) <;> rfl

theorem sequence_lane_self (p : OutId) (s : State) : (sequence p s).lane p =
    if (s.lane p).run then
      (s.lane p).modSeq (Sequencer.boundary (s.outCfg p) ((choice s p).map Claim.ref))
    else s.lane p := by
  unfold sequence
  split
  · exact State.modLane_lane_self ..
  · rfl

theorem sequence_lane_ne {p q : OutId} (h : q ≠ p) (s : State) : (sequence q s).lane p = s.lane p := by
  unfold sequence
  split
  · exact (State.modLane_lane _ q p _).trans (if_neg h)
  · rfl

theorem choice_congr {s t : State} {p : OutId} (hc : t.claims = s.claims) (hr : (t.lane p).run = (s.lane p).run)
    (hg : t.settings = s.settings) (ho : (t.out p).source = (s.out p).source) : choice t p = choice s p := by
  have : eligible t p = eligible s p := by
    funext c
    simp only [eligible, acceptedSet, State.outCfg, hr, hg, ho]
  simp only [choice, hc, this]

/-- The lane of output `p` after the sequencers have worked. -/
theorem sequences_lane (p : OutId) (s : State) : (s.eachOut sequence).lane p =
    if (s.lane p).run then
      (s.lane p).modSeq (Sequencer.boundary (s.outCfg p) ((choice s p).map Claim.ref))
    else s.lane p := by
  obtain ⟨s', h1, h2⟩ := eachOut_at (fun s => (s.lane p, s.claims, s.settings, s.content)) sequence p
    (fun q s hq => by
      simp only [Prod.mk.injEq]
      exact ⟨sequence_lane_ne hq s, sequence_keeps (·.claims) (fun _ _ => rfl) q s,
        sequence_keeps (·.settings) (fun _ _ => rfl) q s, sequence_keeps (·.content) (fun _ _ => rfl) q s⟩) s
  simp only [Prod.mk.injEq] at h1 h2
  have ho : s'.out p = s.out p := by simp only [State.out]; rw [h1.2.2.2]
  have hcfg : s'.outCfg p = s.outCfg p := by simp only [State.outCfg]; rw [h1.2.2.1]
  have hch : choice s' p = choice s p := choice_congr h1.2.1 (by rw [h1.1]) h1.2.2.1 (by rw [ho])
  rw [h2.1, sequence_lane_self, h1.1, hch, hcfg]

/-- What the schedulers leave of output `p`'s own scheduling. -/
theorem schedules_at (held : List Claim) (p : OutId) (s : State) :
    ∃ s', s'.lane p = s.lane p ∧ s'.out p = s.out p ∧ s'.settings = s.settings ∧ s'.tb = s.tb ∧
      s'.content.neighbours = s.content.neighbours ∧
      (s.eachOut (schedule held)).lane p = (schedule held p s').lane p ∧
      (s.eachOut (schedule held)).out p = (schedule held p s').out p := by
  obtain ⟨s', h1, h2⟩ := eachOut_at
    (fun s => (s.lane p, s.out p, s.settings, s.tb, s.content.neighbours)) (schedule held) p
    (fun q s hq => by
      have k := schedule_same held q s
      simp only [Prod.mk.injEq]
      exact ⟨k.lane p hq, k.out p hq, k.settings, k.tb, k.neighbours⟩) s
  simp only [Prod.mk.injEq] at h1 h2
  exact ⟨s', h1.1, h1.2.1, h1.2.2.1, h1.2.2.2.1, h1.2.2.2.2, h2.1, h2.2.1⟩

theorem requestBursts_lane (first : Bool) (p q : OutId) (s : State) :
    ∃ k, (requestBursts first q s).lane p = { s.lane p with sched := k } := by
  unfold requestBursts
  split
  · split
    · exact ⟨_, rfl⟩
    · rw [State.modLane_lane]
      split
      · exact ⟨_, rfl⟩
      · exact ⟨_, rfl⟩
  · exact ⟨_, rfl⟩

/-- The neighbour comparison touches of a lane only its scheduler. -/
theorem compareNeighbours_lane (first : Bool) (p : OutId) (s : State) :
    ∃ k, (compareNeighbours first s).lane p = { s.lane p with sched := k } := by
  have : ∃ k, (s.eachOut (requestBursts first)).lane p = { s.lane p with sched := k } := by
    apply eachOut_induct (P := fun t => ∃ k, t.lane p = { s.lane p with sched := k })
    · intro q t ⟨k, h⟩
      obtain ⟨k', h'⟩ := requestBursts_lane first p q t
      exact ⟨k', by rw [h', h]⟩
    · exact ⟨_, rfl⟩
  exact this

/-- The neighbour comparison touches no output's content. -/
theorem compareNeighbours_out (first : Bool) (p : OutId) (s : State) : (compareNeighbours first s).out p = s.out p := by
  have h : (s.eachOut (requestBursts first)).content = s.content :=
    eachOut_keeps (·.content) _ (fun q t => requestBursts_keeps (·.content) (fun _ _ => rfl) first q t) s
  have h2 : ∀ u : State, (keepAn u).out p = u.out p := fun _ => rfl
  unfold compareNeighbours
  rw [h2]
  simp only [State.out]
  rw [h]

end Sys2Proof.Machine
end

