-- ==== Sys2Proof/Laws/AfterBoundary.lean ====
section
/-! SUPPORT. The lane and the content of one output after a boundary. -/

namespace Sys2Proof.Machine

section
variable (o : Order) (expected new : Count) (arm : Option Count) (marked : Bool) (s : State) (p : OutId)

/-- The lane before its cell is chosen, from the state in which the sequencers begin. -/
def sequencedLane (u : State) (p : OutId) : Lane :=
  if (u.lane p).run then
    (u.lane p).modSeq fun q => Sequencer.writeView (advanceClaims (u.eachOut sequence)).claims.table
      (Sequencer.boundary (u.outCfg p) ((choice u p).map Claim.ref) q)
  else u.lane p

theorem views_lane (u : State) : (writeViews (advanceClaims (u.eachOut sequence))).lane p = sequencedLane u p := by
  have h := sequences_lane p u
  have e : ∀ v : State, (advanceClaims v).lane p = v.lane p := fun _ => rfl
  rw [writeViews_lane, e, h]
  unfold sequencedLane
  cases hr : (u.lane p).run with
  | false => simp [hr]
  | true => simp [hr, Lane.modSeq]

/-- The lane after a boundary: scheduled, its scheduler perhaps asked for a burst, and its first bit begun. -/
theorem boundaryAt_lane : ∃ s' k,
    s'.lane p = sequencedLane (beforeCells o expected new arm marked s) p ∧
    s'.out p = (beforeCells o expected new arm marked s).out p ∧
    s'.settings = (beforeCells o expected new arm marked s).settings ∧
    s'.tb = (beforeCells o expected new arm marked s).tb ∧
    s'.content.neighbours = (beforeCells o expected new arm marked s).content.neighbours ∧
    (boundaryAt o expected new arm marked s).lane p =
      { run := ((schedule ((beforeCells o expected new arm marked s).eachOut sequence).claims.table p s').lane p).run
        asm := ((schedule ((beforeCells o expected new arm marked s).eachOut sequence).claims.table p s').lane
          p).asm.beginBit 0
        seq := ((schedule ((beforeCells o expected new arm marked s).eachOut sequence).claims.table p s').lane p).seq
        sched := k } ∧
    (boundaryAt o expected new arm marked s).out p =
      (schedule ((beforeCells o expected new arm marked s).eachOut sequence).claims.table p s').out p := by
  obtain ⟨s', h1, h2, h3, h4, h5, h6, h7⟩ :=
    schedules_at ((beforeCells o expected new arm marked s).eachOut sequence).claims.table p
      (writeViews (advanceClaims ((beforeCells o expected new arm marked s).eachOut sequence)))
  have hf : fillCells (beforeCells o expected new arm marked s) =
      (writeViews (advanceClaims ((beforeCells o expected new arm marked s).eachOut sequence))).eachOut
        (schedule ((beforeCells o expected new arm marked s).eachOut sequence).claims.table) := rfl
  obtain ⟨k, hk⟩ := compareNeighbours_lane (s.tb.start != .running) p (fillCells (beforeCells o expected new arm marked s))
  have ho := compareNeighbours_out (s.tb.start != .running) p (fillCells (beforeCells o expected new arm marked s))
  have hl : ∀ u : State, (beginBits 0 (selectMonitor (gainTokens u))).lane p =
      { u.lane p with asm := (u.lane p).asm.beginBit 0 } := fun u => beginBits_lane ..
  have hc : ∀ u : State, (beginBits 0 (selectMonitor (gainTokens u))).out p = u.out p := fun _ => rfl
  have hset : (writeViews (advanceClaims ((beforeCells o expected new arm marked s).eachOut sequence))).settings =
      (beforeCells o expected new arm marked s).settings := by
    rw [writeViews_settings, advanceClaims_settings]
    exact eachOut_keeps (·.settings) _ (fun q t => sequence_keeps (·.settings) (fun _ _ => rfl) q t) _
  have htb : (writeViews (advanceClaims ((beforeCells o expected new arm marked s).eachOut sequence))).tb =
      (beforeCells o expected new arm marked s).tb := by
    rw [writeViews_tb, advanceClaims_tb]
    exact eachOut_keeps (·.tb) _ (fun q t => sequence_keeps (·.tb) (fun _ _ => rfl) q t) _
  have hcon : (writeViews (advanceClaims ((beforeCells o expected new arm marked s).eachOut sequence))).content =
      (beforeCells o expected new arm marked s).content := by
    rw [writeViews_content, advanceClaims_content]
    exact eachOut_keeps (·.content) _ (fun q t => sequence_keeps (·.content) (fun _ _ => rfl) q t) _
  refine ⟨s', k, h1.trans (views_lane p _), h2.trans (by simp only [State.out]; rw [hcon]), h3.trans hset, h4.trans htb,
    h5.trans (by rw [hcon]), ?_, ?_⟩
  · rw [boundaryAt_eq, hl, hk, hf, h6]
  · rw [boundaryAt_eq, hc, ho, hf, h7]

end

/-! ### The payload of every kind has 8 bytes (R6 to R10, R174) -/

theorem padTo_length (k : Nat) (bs : List Byte) : (padTo k bs).length = k := by
  simp [padTo]

theorem labelPayload_length (o : OutContent) : (labelPayload o).length = 8 := by
  simp [labelPayload, segment, padTo_length]

theorem textPayload_length (o : OutContent) : (textPayload o).length = 8 := by
  simp [textPayload, segment, padTo_length]

theorem freqPayload_length (o : OutContent) : (freqPayload o).length = 8 := by simp [freqPayload, bytesOf]

theorem tmsgPayload_length (r : PoolRecord) : (tmsgPayload r).length = 8 := by simp [tmsgPayload, bytesOf]

theorem fillerPayload_length (c : Count) : (fillerPayload c).length = 8 := by simp [fillerPayload, bytesOf]

theorem neighbourPayload_length (r : Neighbour) (f : Flags3) (second : Bool) :
    (neighbourPayload r f second).length = 8 := by
  simp only [neighbourPayload, List.length_append, List.length_take, List.length_drop, padTo_length, bytesOf,
    List.length_cons, List.length_nil]
  split <;> omega

theorem announceFields_length (cls group : Byte) (phase : Phase) (holdUsed : Counter) :
    (announceFields cls group phase holdUsed).length = 8 := by simp [announceFields, bytesOf]

theorem announcePayload_length (held : List Claim) (q : Sequencer) : (announcePayload held q).length = 8 := by
  unfold announcePayload
  split
  · simp
  · split <;> exact announceFields_length ..
  · split <;> exact announceFields_length ..
  · split <;> exact announceFields_length ..

/-! ### The cell of a running output (R2 to R5, R16) -/

/-- A cell of kind `k` fixed on output `p` between two states, the later of which is left by sending it. -/
def FixedCell (p : OutId) (u t : State) : Prop :=
  ∃ k payload, payload.length = 8 ∧
    (t.lane p).asm.cell = some (makeCell (identityOf u p)
      (controlByte k (u.outCfg p).tc (anOf u p) ((u.out p).source == .regional) (t.out p).lv) payload) ∧
    (t.lane p).asm.kinds = (u.lane p).asm.kinds.modify k.index satInc

theorem fixCell_fixes (p : OutId) (k : CellKind) {payload : List Byte} (h : payload.length = 8) (s : State) :
    FixedCell p s (fixCell p k payload s) := by
  have e : (fixCell p k payload s).lane p = _ := State.modLane_lane_self ..
  refine ⟨k, payload, h, ?_, ?_⟩ <;> rw [e]
  rfl

/-- Content that changes after the cell is fixed leaves LV as it is. -/
theorem FixedCell.modOut {p : OutId} {u t : State} {f : OutContent → OutContent} (h : FixedCell p u t)
    (hf : (f (t.out p)).lv = (t.out p).lv) : FixedCell p u (t.modOut p f) := by
  obtain ⟨k, payload, h1, h2, h3⟩ := h
  refine ⟨k, payload, h1, ?_, h3⟩
  rw [State.modOut_out_self, hf]
  exact h2

/-- Only identity, TC, AN, RG and the kind counters are read of the state before. -/
theorem FixedCell.of_same {p : OutId} {u v t : State} (hs : SameButCell p u v)
    (hk : (v.lane p).asm.kinds = (u.lane p).asm.kinds) (h : FixedCell p v t) : FixedCell p u t := by
  obtain ⟨k, payload, h1, h2, h3⟩ := h
  obtain ⟨b, hb⟩ := hs.seq
  have hcfg : v.outCfg p = u.outCfg p := by simp only [State.outCfg]; rw [hs.settings]
  have hid : identityOf v p = identityOf u p := by simp only [identityOf]; rw [hs.face.source, hcfg]
  have han : anOf v p = anOf u p := by simp only [anOf]; rw [hs.run, hb]
  rw [hid, hcfg, han, hs.face.source] at h2
  exact ⟨k, payload, h1, h2, by rw [h3, hk]⟩

theorem neighbourCell_fixes (p : OutId) (slot : SlotId) (second : Bool) (s : State) :
    FixedCell p s (neighbourCell p slot second s) := by
  unfold neighbourCell
  split
  · exact fixCell_fixes p _ (by simp) s
  · exact fixCell_fixes p _ (neighbourPayload_length ..) s

theorem advanceCycle_lv (slot : SlotId) (second : Bool) (o : OutContent) : (advanceCycle slot second o).lv = o.lv := by
  unfold advanceCycle
  split <;> rfl

theorem serviceCell_fixes (held : List Claim) (p : OutId) (sv : Service) (s : State) :
    FixedCell p s (serviceCell held p sv s) := by
  cases sv with
  | announce => exact fixCell_fixes p _ (announcePayload_length ..) s
  | tmsg =>
    simp only [serviceCell]
    split
    · exact fixCell_fixes p _ (by simp) s
    · exact FixedCell.of_same (SameButCell.modPool _ _ _) rfl (fixCell_fixes p _ (tmsgPayload_length _) _)
  | label =>
    refine FixedCell.modOut (f := OutContent.advanceLabel) ?_ rfl
    exact FixedCell.of_same (SameButCell.modOut _ (commitLabel_face _)) rfl
      (fixCell_fixes p _ (labelPayload_length _) _)
  | freq => exact FixedCell.modOut (f := OutContent.advanceFreqs) (fixCell_fixes p _ (freqPayload_length _) _) rfl
  | neighbour =>
    simp only [serviceCell]
    split
    · exact fixCell_fixes p _ (by simp) s
    · exact FixedCell.modOut (neighbourCell_fixes ..) (advanceCycle_lv ..)
  | text => exact FixedCell.modOut (f := OutContent.advanceText) (fixCell_fixes p _ (textPayload_length _) _) rfl

theorem winnerCell_fixes (held : List Claim) (p : OutId) (w : Winner) (s : State) :
    FixedCell p s (winnerCell held p w s) := by
  cases w with
  | announceBurst => exact fixCell_fixes p _ (announcePayload_length ..) s
  | neighbourBurst b => exact neighbourCell_fixes ..
  | service sv => exact serviceCell_fixes ..
  | filler => exact fixCell_fixes p _ (fillerPayload_length _) s

theorem afterChoice_kinds (p : OutId) (w : Winner) (s : State) :
    ((afterChoice p w s).lane p).asm = (s.lane p).asm := by
  have e : (afterChoice p w s).lane p = _ := State.modLane_lane_self ..
  rw [e]
  cases w <;> rfl

/-- An output in RUN fixes a cell of some kind. -/
theorem schedule_fixes (held : List Claim) (p : OutId) (s : State) (hr : (s.lane p).run = true) :
    FixedCell p s (schedule held p s) := by
  have e : schedule held p s = winnerCell held p (winner (beforeChoice p s) p)
      (afterChoice p (winner (beforeChoice p s) p) (beforeChoice p s)) := by
    unfold schedule
    rw [hr]
    rfl
  rw [e]
  refine FixedCell.of_same ((beforeChoice_same p s).trans (afterChoice_same p _ _)) ?_ (winnerCell_fixes ..)
  rw [afterChoice_kinds]
  have e2 : (beforeChoice p s).lane p = _ := State.modLane_lane_self ..
  rw [e2]
  rfl

end Sys2Proof.Machine
end

