-- ==== Sys2Proof/Laws/Operands.lean ====
section
/-! SUPPORT. The readers of parameters: instance numbers, numbers of several bytes, ranges of codes, clamps. -/

namespace Sys2Proof.Machine

/-! ### Instance numbers -/

theorem index?_of {n v : Nat} {i : Fin n} (h : v = i.val) : index? n v = some i := by
  subst h; simp [index?]

theorem index?_none {n v : Nat} (h : n ≤ v) : index? n v = none := by
  simp [index?]; omega

/-- An instance number is the value it was read from. -/
theorem val_of_index? {n v : Nat} {i : Fin n} (h : index? n v = some i) : i.val = v := by
  unfold index? at h
  split at h
  · cases h; rfl
  · cases h

/-! ### Numbers of several bytes (R173) -/

theorem natOf_two (a b : Byte) : natOf [a, b] = a.toNat * 256 + b.toNat := by simp [natOf]

theorem natOf_three (a b c : Byte) : natOf [a, b, c] = (a.toNat * 256 + b.toNat) * 256 + c.toNat := by simp [natOf]

theorem natOf_two_lt (a b : Byte) : natOf [a, b] < 65536 := by
  rw [natOf_two]; have := a.isLt; have := b.isLt; omega

theorem natOf_three_lt (a b c : Byte) : natOf [a, b, c] < 16777216 := by
  rw [natOf_three]; have := a.isLt; have := b.isLt; have := c.isLt; omega

@[simp] theorem bytesOf_length (k v : Nat) : (bytesOf k v).length = k := by
  induction k with
  | zero => rfl
  | succ k ih => simp [bytesOf, ih]

/-! ### Clamps (R162) -/

theorem clamp_eq {lo hi v : Nat} (h : lo ≤ hi) : clamp lo hi v = max lo (min v hi) := by
  unfold clamp
  split
  · omega
  · split <;> omega

/-- A value is adjusted exactly where it was outside its range. -/
theorem clamp_ne {lo hi v : Nat} : (clamp lo hi v != v) = (decide (v < lo) || decide (hi < v)) := by
  unfold clamp
  by_cases h1 : v < lo
  · simp [h1]; omega
  · by_cases h2 : hi < v
    · simp [h1, h2]; omega
    · simp [h1, h2]

theorem le_clamp {lo hi v : Nat} (h : lo ≤ hi) : lo ≤ clamp lo hi v := by rw [clamp_eq h]; omega

theorem clamp_le {lo hi v : Nat} (h : lo ≤ hi) : clamp lo hi v ≤ hi := by rw [clamp_eq h]; omega

/-! ### Ranges of SET_GROUPSET (R154) -/

theorem pairs_length (rs : List (Byte × Byte)) : (rs.flatMap fun r => [r.1, r.2]).length = 2 * rs.length := by
  induction rs with
  | nil => rfl
  | cons r rs ih =>
    rw [List.flatMap_cons, List.length_append, ih]
    simp only [List.length_cons, List.length_nil]; omega

theorem pairs_getD (rs : List (Byte × Byte)) (i : Nat) (hi : i < rs.length) :
    (rs.flatMap fun r => [r.1, r.2]).getD (2 * i) 0 = rs[i].1 ∧
      (rs.flatMap fun r => [r.1, r.2]).getD (2 * i + 1) 0 = rs[i].2 := by
  induction rs generalizing i with
  | nil => simp at hi
  | cons r rs ih =>
    cases i with
    | zero => simp [List.flatMap_cons]
    | succ i =>
      have := ih i (by simpa using hi)
      simp only [List.flatMap_cons, List.getElem_cons_succ]
      rw [show 2 * (i + 1) = 2 * i + 2 by omega]
      simpa using this

/-- The ranges read are the ranges sent. -/
theorem receivedRanges_eq (i k : Byte) (rs : List (Byte × Byte)) :
    receivedRanges (i :: k :: rs.flatMap fun r => [r.1, r.2]) rs.length =
      rs.map fun r => (r.1.toNat, r.2.toNat) := by
  apply List.ext_getElem (by simp [receivedRanges])
  intro j h1 h2
  have hj : j < rs.length := by simpa using h2
  have := pairs_getD rs j hj
  simp only [receivedRanges, List.getElem_map, List.getElem_range, byteAt]
  rw [show 2 + 2 * j = 2 * j + 2 by omega, show 3 + 2 * j = 2 * j + 1 + 2 by omega]
  simp only [List.getD_cons_succ]
  rw [this.1, this.2]

theorem rangeBits_getLsbD (lo hi c : Nat) (hc : c < 256) (hh : hi < 256) :
    (rangeBits lo hi).getLsbD c = (decide (lo ≤ c) && decide (c ≤ hi)) := by
  unfold rangeBits
  split
  · simp; omega
  · simp only [BitVec.getLsbD_shiftLeft, BitVec.getLsbD_ushiftRight, BitVec.getLsbD_allOnes, hc, decide_true,
      Bool.true_and]
    by_cases h1 : lo ≤ c
    · by_cases h2 : c ≤ hi <;> simp [h1, h2] <;> omega
    · simp [h1]

/-- The union of ranges, code by code. -/
theorem unionBits_getLsbD (rs : List (Nat × Nat)) (acc : BitVec 256) (c : Nat) (hc : c < 256)
    (hr : ∀ r, r ∈ rs → r.2 < 256) :
    (rs.foldl (fun acc r => acc ||| rangeBits r.1 r.2) acc).getLsbD c =
      (acc.getLsbD c || rs.any fun r => decide (r.1 ≤ c) && decide (c ≤ r.2)) := by
  induction rs generalizing acc with
  | nil => simp
  | cons r rs ih =>
    simp only [List.foldl_cons, List.any_cons]
    rw [ih _ fun x hx => hr x (List.mem_cons_of_mem _ hx), BitVec.getLsbD_or,
      rangeBits_getLsbD _ _ _ hc (hr r List.mem_cons_self), Bool.or_assoc]

end Sys2Proof.Machine
end

