-- ==== Sys2Proof/Laws/Bytes.lean ====
section
/-! SUPPORT. Numbers, codes and characters through their bytes and back: what the round trips of queue entries and of
the store image rest on (R173, R176 to R178). -/

namespace Sys2Proof.Machine

/-! ### Numbers -/

theorem foldl_bytes (bs : List Byte) (a : Nat) :
    bs.foldl (fun acc b => acc * 256 + b.toNat) a = a * 256 ^ bs.length + natOf bs := by
  induction bs generalizing a with
  | nil => simp [natOf]
  | cons b bs ih =>
    have h : natOf (b :: bs) = (0 * 256 + b.toNat) * 256 ^ bs.length + natOf bs := by
      rw [← ih]; rfl
    rw [List.foldl_cons, ih, h, List.length_cons, Nat.pow_succ, Nat.zero_mul, Nat.zero_add, Nat.add_mul,
      Nat.mul_assoc, Nat.mul_comm 256, Nat.add_assoc]

theorem natOf_cons (b : Byte) (bs : List Byte) : natOf (b :: bs) = b.toNat * 256 ^ bs.length + natOf bs := by
  rw [natOf, List.foldl_cons, foldl_bytes, Nat.zero_mul, Nat.zero_add]

/-- The bytes of a number give that number modulo their range. -/
theorem natOf_bytesOf (k v : Nat) : natOf (bytesOf k v) = v % 256 ^ k := by
  induction k with
  | zero => simp [bytesOf, natOf, Nat.mod_one]
  | succ k ih =>
    have h : v % (256 ^ k * 256) = v % 256 ^ k + 256 ^ k * (v / 256 ^ k % 256) := Nat.mod_mul
    rw [bytesOf, natOf_cons, ih, bytesOf_length, BitVec.toNat_ofNat, Nat.pow_succ 256 k, h,
      Nat.mul_comm (256 ^ k), Nat.add_comm]

/-- A number within the range of its bytes reads back. -/
theorem natOf_bytesOf_of_lt {k v : Nat} (h : v < 256 ^ k) : natOf (bytesOf k v) = v := by
  rw [natOf_bytesOf, Nat.mod_eq_of_lt h]

/-! ### Codes -/

@[simp] theorem maskOf_maskByte (m : Mask) : maskOf (maskByte m) = m := by revert m; decide

@[simp] theorem variantOf_code (v : Variant) : variantOf v.code = some v := by cases v <;> rfl

@[simp] theorem classOf_code (c : ClaimClass) : classOf c.code = some c := by cases c <;> rfl

@[simp] theorem serviceOf_index (sv : Service) : serviceOf (BitVec.ofNat 8 sv.index.val) = some sv := by
  cases sv <;> rfl

@[simp] theorem outOrNone_byte (o : Option OutId) : outOrNone (outOrNoneByte o) = some o := by
  cases o with
  | none => rfl
  | some p => revert p; decide

@[simp] theorem flags3Of_code (f : Flags3) : flags3Of f.code = f := by
  obtain ⟨a, b, c⟩ := f
  revert a b c; decide

@[simp] theorem cueModeOf_code (m : CueMode) : cueModeOf m.code = some m := by cases m <;> rfl

@[simp] theorem polarityOf_code (p : Polarity) : polarityOf p.code = some p := by cases p <;> rfl

@[simp] theorem lineRateOf_code (r : LineRate) : lineRateOf r.code = some r := by cases r <;> rfl

@[simp] theorem timingModeOf_code (m : TimingMode) : timingModeOf m.code = some m := by cases m <;> rfl

/-- An instance number is one byte. -/
theorem toNat_ofNat_of_lt {v : Nat} (h : v < 256) : (BitVec.ofNat 8 v).toNat = v := by
  rw [BitVec.toNat_ofNat]; exact Nat.mod_eq_of_lt h

/-! ### Characters and frequency lists -/

theorem cleanChars_of_printable {cs : List Byte} (h : cs.all printable = true) : cleanChars cs = cs := by
  unfold cleanChars
  conv => rhs; rw [← List.map_id cs]
  apply List.map_congr_left
  intro b hb
  simp [List.all_eq_true.1 h b hb]

theorem anyReplaced_of_printable {cs : List Byte} (h : cs.all printable = true) : anyReplaced cs = false := by
  simpa [anyReplaced] using h

/-- R41 step 2 keeps the first of each code. -/
theorem dropRepeats_eq (codes : List Nat) : dropRepeats codes = codes.eraseDups := by
  have h : ∀ kept : List Nat,
      codes.foldl (fun kept c => if kept.contains c then kept else kept ++ [c]) kept.reverse =
        List.eraseDupsBy.loop (· == ·) codes kept := by
    induction codes with
    | nil => intro kept; simp [List.eraseDupsBy.loop]
    | cons c cs ih =>
      intro kept
      rw [List.eraseDupsBy.loop, List.foldl_cons]
      have e : kept.any (fun x => c == x) = kept.contains c := by simp [List.any_beq]
      rw [e, List.contains_reverse]
      cases h : kept.contains c
      · exact (congrArg (fun l => List.foldl _ l cs) (List.reverse_cons ..).symm).trans (ih (c :: kept))
      · rw [← ih]; rfl
  exact h []

theorem codesBytes_length (codes : List Nat) : (codesBytes codes).length = 2 * codes.length := by
  induction codes with
  | nil => rfl
  | cons c cs ih =>
    have : codesBytes (c :: cs) = bytesOf 2 c ++ codesBytes cs := rfl
    rw [this, List.length_append, bytesOf_length, ih, List.length_cons]; omega

/-- The two bytes of one code of a list. -/
theorem codesBytes_at (codes : List Nat) (i : Nat) (h : i < codes.length) :
    ((codesBytes codes).drop (2 * i)).take 2 = bytesOf 2 codes[i] := by
  induction codes generalizing i with
  | nil => simp at h
  | cons c cs ih =>
    have e : codesBytes (c :: cs) = bytesOf 2 c ++ codesBytes cs := rfl
    rw [e]
    cases i with
    | zero => simp
    | succ i =>
      rw [show 2 * (i + 1) = 2 + 2 * i by omega, ← List.drop_drop,
        show (bytesOf 2 c ++ codesBytes cs).drop 2 = codesBytes cs from List.drop_left' (bytesOf_length 2 c)]
      exact ih i (by simpa using h)

/-! ### What a clamp leaves of a value within its range -/

theorem clamp_of_mem {lo hi v : Nat} (h₁ : lo ≤ v) (h₂ : v ≤ hi) : clamp lo hi v = v := by
  simp only [clamp]; split
  · omega
  · split <;> omega

end Sys2Proof.Machine
end

