-- ==== Sys2Proof/Laws/Changes.lean ====
section
/-! SUPPORT. What asks for a change of the claim table at a boundary, and the list of changes the boundary takes. -/

namespace Sys2Proof.Machine

theorem mem_lines (c : LineId) : c ∈ lines := by revert c; decide

theorem lines_nodup : lines.Nodup := by decide

theorem expiryReason_isSome (c : Claim) : (expiryReason c).isSome = true ↔
    ((c.holdLimit ≠ 0 ∧ c.holdLimit ≤ c.holdUsed.toNat) ∨ (c.waitLimit ≠ 0 ∧ c.waitLimit ≤ c.waitUsed.toNat)) := by
  unfold expiryReason
  split
  · next h => simp [h]
  · next h => split <;> next k => simp [h, k]

/-- A change is taken at the boundary exactly where it is asked for. -/
theorem mem_changes (s : State) (x : Change) : x ∈ changes s ↔ s.asks x := by
  cases x with
  | expiry k => simp [changes, expiries, cueRequests, State.asks, expiryReason_isSome, and_comm, and_left_comm]
  | request c r =>
    simp [changes, expiries, cueRequests, State.asks, mem_lines]
  | retry c =>
    have h : Change.retry c ∈ changes s ↔ retries s c = true := by
      simp [changes, expiries, cueRequests, mem_lines, -Bool.and_eq_true]
    rw [h]
    simp [retries, State.asks, and_assoc]

theorem changes_eq_nil (s : State) : changes s = [] ↔ ∀ x, ¬ s.asks x := by
  rw [List.eq_nil_iff_forall_not_mem]
  exact forall_congr' fun x => not_congr (mem_changes s x)

theorem expiries_nodup {s : State} (h : (s.claims.table.map Claim.key).Nodup) : (expiries s).Nodup := by
  have e : expiries s = ((s.claims.table.filter fun c => (expiryReason c).isSome).map Claim.key).map Change.expiry := by
    rw [List.map_map]; rfl
  rw [e]
  exact List.Pairwise.map _ (fun _ _ hab h => hab (Change.expiry.inj h)) ((List.filter_sublist.map Claim.key).nodup h)

theorem cueRequests_nodup (s : State) : (cueRequests s).Nodup := by
  refine List.Pairwise.filterMap _ ?_ lines_nodup
  intro a b hab x hx y hy h
  simp only [Option.map_eq_some_iff] at hx hy
  obtain ⟨_, _, rfl⟩ := hx
  obtain ⟨_, _, rfl⟩ := hy
  exact hab (Change.request.inj h).1

/-- No change is taken twice where the keys of the claims held are distinct. -/
theorem changes_nodup {s : State} (h : (s.claims.table.map Claim.key).Nodup) : (changes s).Nodup := by
  have hr : ((lines.filter (retries s)).map Change.retry).Nodup :=
    List.Pairwise.map _ (fun _ _ hab h => hab (Change.retry.inj h)) (List.Pairwise.filter _ lines_nodup)
  unfold changes
  refine List.nodup_append.2 ⟨List.nodup_append.2 ⟨expiries_nodup h, cueRequests_nodup s, ?_⟩, hr, ?_⟩
  · intro x hx y hy e
    simp only [expiries, List.mem_map] at hx
    simp only [cueRequests, List.mem_filterMap, Option.map_eq_some_iff] at hy
    obtain ⟨_, _, rfl⟩ := hx
    obtain ⟨_, _, _, _, rfl⟩ := hy
    cases e
  · intro x hx y hy e
    simp only [List.mem_map] at hy
    obtain ⟨_, _, rfl⟩ := hy
    simp [e, expiries, cueRequests] at hx

/-- The changes a boundary takes are those that ask. -/
theorem State.onlyAsk.perm {s : State} {xs : List Change} (h : s.onlyAsk xs) (hx : xs.Nodup) : (changes s).Perm xs :=
  (List.perm_ext_iff_of_nodup (changes_nodup h.2) hx).2 fun x => (mem_changes s x).trans (h.1 x)

theorem State.onlyAsk.one {s : State} {x : Change} (h : s.onlyAsk [x]) : changes s = [x] :=
  List.perm_singleton.1 (h.perm (by simp))

/-- An expiry that meets a request stands before it. -/
theorem State.onlyAsk.expiry_request {s : State} {k : ClaimKey} {c : LineId} {r : CueRequest}
    (h : s.onlyAsk [.expiry k, .request c r]) : changes s = [.expiry k, .request c r] := by
  have hp := h.perm (by simp)
  have hm : Change.expiry k ∈ expiries s := by
    have := (mem_changes s (.expiry k)).2 ((h.1 _).2 (by simp))
    simpa [changes, cueRequests] using this
  match he : expiries s, hm with
  | y :: ys, _ =>
    have hc : changes s = y :: (ys ++ cueRequests s ++ (lines.filter (retries s)).map Change.retry) := by
      simp [changes, he]
    have hy : y ∈ changes s := by simp [hc]
    have hy2 : y ∈ expiries s := by simp [he]
    have hy3 : y = .expiry k := by
      have := hp.mem_iff.1 hy
      simp only [List.mem_cons, List.not_mem_nil, or_false] at this
      rcases this with h1 | h1
      · exact h1
      · subst h1; simp [expiries] at hy2
    rw [hc, hy3] at hp ⊢
    rw [List.perm_singleton.1 (List.perm_cons _ |>.1 hp)]

theorem State.onlyAsk_of_changes {s : State} {xs : List Change} (h : changes s = xs)
    (hk : (s.claims.table.map Claim.key).Nodup) : s.onlyAsk xs :=
  ⟨fun x => by rw [← h, mem_changes], hk⟩

end Sys2Proof.Machine
end

