-- ==== Sys2Proof/Laws/Handling.lean ====
section
/-! SUPPORT. The take and the handling of a frame: what every command row does, said once. -/

namespace Sys2Proof.Machine

/-! ### The take -/

theorem waitingFrame_of_front {s : State} {l : LinkId} {c : Cmd} {body : List Byte} (h : Front s l c body) :
    waitingFrame (· == c.code) l s = some body := by
  obtain ⟨h1, h2⟩ := h
  cases hw : (s.link l).waiting with
  | nil => rw [hw] at h1; cases h1
  | cons b bs =>
    rw [hw] at h1
    cases h1
    simp [waitingFrame, hw, h2]

@[simp] theorem takeFrame_settings (l : LinkId) (s : State) : (takeFrame l s).settings = s.settings := rfl
@[simp] theorem takeFrame_tb (l : LinkId) (s : State) : (takeFrame l s).tb = s.tb := rfl
@[simp] theorem takeFrame_content (l : LinkId) (s : State) : (takeFrame l s).content = s.content := rfl
@[simp] theorem takeFrame_claims (l : LinkId) (s : State) : (takeFrame l s).claims = s.claims := rfl
@[simp] theorem takeFrame_queue (l : LinkId) (s : State) : (takeFrame l s).queue = s.queue := rfl
@[simp] theorem takeFrame_store (l : LinkId) (s : State) : (takeFrame l s).store = s.store := rfl
@[simp] theorem takeFrame_pool (l : LinkId) (s : State) : (takeFrame l s).pool = s.pool := rfl

theorem permitted_congr {s t : State} (h : t.settings = s.settings) (l : LinkId) (c : Option CmdClass) :
    permitted t l c = permitted s l c := by
  cases c <;> simp [permitted, State.linkCfg, h]

/-- A tag bit that is clear makes no header short. -/
theorem shortTimed_false_of_untimed {body : List Byte} (h : timedFlag body = false) : shortTimed body = false := by
  simp [shortTimed, h]

theorem frameParams_of_untimed {body : List Byte} (h : timedFlag body = false) : frameParams body = body.drop 5 := by
  simp [frameParams, h]

/-! ### Part commands -/

/-- A part command whose frame reaches its owner: the owner's answer is counted and placed, and what follows an OK
reply follows. -/
theorem partRow_eq {c : Cmd} {act : List Byte → State → Answer} {after : List Byte → State → State} {l : LinkId}
    {s : State} {body : List Byte} (h : PartFrame s l c body) :
    partRow c act after l s =
      .next (if (act (body.drop 5) (takeFrame l s)).status = .ok then
          after (body.drop 5) (finishFrame l c.code true (act (body.drop 5) (takeFrame l s)))
        else finishFrame l c.code true (act (body.drop 5) (takeFrame l s))) := by
  have hp : permitted (takeFrame l s) l c.cls = true := by rw [permitted_congr (by rfl)]; exact h.allowed
  simp [partRow, waitingFrame_of_front h.toFront, handlePart, h.direct, partAnswer, shortTimed_false_of_untimed h.untimed,
    hp, h.untimed, frameParams_of_untimed h.untimed]

/-- An OK answer of the owner. -/
theorem partRow_ok {c : Cmd} {act : List Byte → State → Answer} {after : List Byte → State → State} {l : LinkId}
    {s t : State} {body data : List Byte} {adj : Bool} (h : PartFrame s l c body)
    (ha : act (body.drop 5) (takeFrame l s) = { status := .ok, adjusted := adj, data := data, state := t }) :
    partRow c act after l s =
      .next (after (body.drop 5) (t.modLink l (LinkState.placeReply (replyOf c .ok adj data)))) := by
  rw [partRow_eq h, ha]
  simp [finishFrame, Status.isRefusal, replyBody, replyOf]

/-- A refusal by the owner, which leaves the state as it found it. -/
theorem partRow_refused {c : Cmd} {act : List Byte → State → Answer} {after : List Byte → State → State} {l : LinkId}
    {s : State} {body : List Byte} {st : Status} (h : PartFrame s l c body) (hr : st.isRefusal = true)
    (ha : act (body.drop 5) (takeFrame l s) = .refuse st (takeFrame l s)) :
    partRow c act after l s = .next (refused l c st s) := by
  have hne : st ≠ .ok := by rintro rfl; cases hr
  rw [partRow_eq h, ha]
  simp [finishFrame, Answer.refuse, hr, hne, replyBody, replyOf, takeFrame, refused]

/-- The reply to an OK answer over a state that kept link `l` and the links' settings. -/
theorem answered_of_keeps {l : LinkId} {c : Cmd} {st : Status} {adj : Bool} {data : List Byte} {s : State} :
    (takeFrame l s).modLink l (LinkState.placeReply (replyOf c st adj data)) = answered l c st adj data s := by
  simp [takeFrame, answered]

/-! ### The owner's checks of a part command -/

theorem checkedAct_ok {α : Type} {check : List Byte → Checked α} {act : α → State → Answer} {ps : List Byte}
    {s : State} {x : α} {adj : Bool} (h : check ps = .ok (x, adj)) :
    checkedAct check act ps s = (act x s).adjust adj := by
  simp [checkedAct, h]

theorem checkedAct_error {α : Type} {check : List Byte → Checked α} {act : α → State → Answer} {ps : List Byte}
    {s : State} {st : Status} (h : check ps = .error st) :
    checkedAct check act ps s = .refuse st s := by
  simp [checkedAct, h]

@[simp] theorem adjust_done (adj : Bool) (s : State) :
    (Answer.done s).adjust adj = { status := .ok, adjusted := adj, data := [], state := s } := rfl

@[simp] theorem adjust_give (adj : Bool) (data : List Byte) (s : State) :
    (Answer.give data s).adjust adj = { status := .ok, adjusted := adj, data := data, state := s } := rfl

theorem adjust_refuse {st : Status} (h : st.isRefusal = true) (adj : Bool) (s : State) :
    (Answer.refuse st s).adjust adj = .refuse st s := by
  simp [Answer.adjust, Answer.refuse, h]

/-- A part command whose owner's checks pass and whose act answers OK. -/
theorem checkedRow_ok {α : Type} {c : Cmd} {check : List Byte → Checked α} {act : α → State → Answer}
    {after : List Byte → State → State} {l : LinkId} {s t : State} {body data : List Byte} {x : α} {adj : Bool}
    (h : PartFrame s l c body) (hc : check (body.drop 5) = .ok (x, adj))
    (ha : act x (takeFrame l s) = .give data t) :
    partRow c (checkedAct check act) after l s =
      .next (after (body.drop 5) (t.modLink l (LinkState.placeReply (replyOf c .ok adj data)))) := by
  apply partRow_ok h
  rw [checkedAct_ok hc, ha]; rfl

/-- A part command whose owner's checks fail. -/
theorem checkedRow_bad {α : Type} {c : Cmd} {check : List Byte → Checked α} {act : α → State → Answer}
    {after : List Byte → State → State} {l : LinkId} {s : State} {body : List Byte}
    (h : PartFrame s l c body) (hc : check (body.drop 5) = .error .badParam) :
    partRow c (checkedAct check act) after l s = .next (refused l c .badParam s) :=
  partRow_refused h rfl (checkedAct_error hc)

/-- A part command whose owner refuses after its checks. -/
theorem checkedRow_refused {α : Type} {c : Cmd} {check : List Byte → Checked α} {act : α → State → Answer}
    {after : List Byte → State → State} {l : LinkId} {s : State} {body : List Byte} {x : α} {adj : Bool} {st : Status}
    (h : PartFrame s l c body) (hr : st.isRefusal = true) (hc : check (body.drop 5) = .ok (x, adj))
    (ha : act x (takeFrame l s) = .refuse st (takeFrame l s)) :
    partRow c (checkedAct check act) after l s = .next (refused l c st s) :=
  partRow_refused h hr (by rw [checkedAct_ok hc, ha, adjust_refuse hr])

/-! ### Routed commands -/

/-- The state a routed command finds when it reaches its owner: the frame taken, its route counted, a token spent. -/
def reached (l : LinkId) (body : List Byte) (s : State) : State :=
  (countRoute (targetAddress body) (regionGroup body) (takeFrame l s)).modLink l spendToken

section
variable (l : LinkId) (body : List Byte) (s : State)

@[simp] theorem reached_settings : (reached l body s).settings = s.settings := rfl
@[simp] theorem reached_tb : (reached l body s).tb = s.tb := rfl
@[simp] theorem reached_content : (reached l body s).content = s.content := rfl
@[simp] theorem reached_lanes : (reached l body s).lanes = s.lanes := rfl
@[simp] theorem reached_claims : (reached l body s).claims = s.claims := rfl
@[simp] theorem reached_pool : (reached l body s).pool = s.pool := rfl
@[simp] theorem reached_queue : (reached l body s).queue = s.queue := rfl
@[simp] theorem reached_store : (reached l body s).store = s.store := rfl
@[simp] theorem reached_out (p : OutId) : (reached l body s).out p = s.out p := rfl
@[simp] theorem reached_outCfg (p : OutId) : (reached l body s).outCfg p = s.outCfg p := rfl

theorem countRoute_modLink (a : Word) (g : Byte) (f : LinkState → LinkState) :
    countRoute a g (s.modLink l f) = (countRoute a g s).modLink l f := rfl

/-- The link of a routed command keeps its tokens and its settings through the take. -/
theorem takeFrame_tokens : ((takeFrame l s).link l).tokens = (s.link l).tokens := by
  have h : ∀ (cfg : LinkSettings) (k : LinkState), (k.take cfg).tokens = k.tokens := by
    intro cfg k
    simp only [LinkState.take, LinkState.goCheck]
    split
    · simp only [LinkState.sendCtrl, LinkState.nextByte]
      repeat' split
      all_goals rfl
    · rfl
  simp [takeFrame, State.link, State.modLink, h]

/-- With no act of the owner but an answer, what is left is `routed`. -/
theorem reached_answered (c : Cmd) (st : Status) (adj : Bool) (data : List Byte) :
    (if directMatch s.settings (targetAddress body) = true then
        (reached l body s).modLink l (LinkState.placeReply (replyOf c st adj data))
      else reached l body s) = routed l c body st adj data s := by
  unfold reached takeFrame routed replyIf
  rw [countRoute_modLink]
  cases directMatch s.settings (targetAddress body) <;> simp [State.modLink]

/-- With a refusal of the owner, what is left is `routedRefused`. -/
theorem reached_refused (c : Cmd) (st : Status) :
    (if directMatch s.settings (targetAddress body) = true then
        ((reached l body s).modLink l countRefusal).modLink l (LinkState.placeReply (replyOf c st false []))
      else (reached l body s).modLink l countRefusal) = routedRefused l c body st s := by
  unfold reached takeFrame routedRefused replyIf
  rw [countRoute_modLink]
  cases directMatch s.settings (targetAddress body) <;> simp [State.modLink]

end

/-- A routed command that reaches its owner: the owner's answer is counted and placed. -/
theorem routedRow_eq {c : Cmd} {check : List Byte → Checked TimedCmd} {l : LinkId} {s : State} {body : List Byte}
    {m : Mask} (h : RoutedFrame s l c body m) :
    routedRow c check l s = .next (finishFrame l c.code (directMatch s.settings (targetAddress body))
      (ownerAnswer check m l body (reached l body s))) := by
  have hs : shortTimed body = false := by
    unfold shortTimed
    cases ht : timedFlag body with
    | false => rfl
    | true => have := h.header ht; simp; omega
  have hm : frameMask body (takeFrame l s) = m := h.mask
  have hp : permitted (countRoute (targetAddress body) (regionGroup body) (takeFrame l s)) l c.cls = true := by
    exact (permitted_congr (s := s) rfl l c.cls).trans h.allowed
  have ht : ((countRoute (targetAddress body) (regionGroup body) (takeFrame l s)).link l).tokens ≠ 0 := by
    have e : (countRoute (targetAddress body) (regionGroup body) (takeFrame l s)).link l = (takeFrame l s).link l := rfl
    rw [e, takeFrame_tokens]
    have := h.tokens
    omega
  unfold routedRow
  rw [waitingFrame_of_front h.toFront]
  simp only [handleRouted, routedAnswer, hs, hm, h.outputs, hp, ht, Bool.false_eq_true, if_false, Bool.not_true]
  rfl

/-- An untimed routed command whose values pass: its owner takes it at once. -/
theorem ownerAnswer_untimed {check : List Byte → Checked TimedCmd} {m : Mask} {l : LinkId} {body : List Byte} {u : State}
    {x : TimedCmd} {adj : Bool} (ht : timedFlag body = false) (hc : check (body.drop 5) = .ok (x, adj)) :
    ownerAnswer check m l body u = (applyCmd x m l u.tb.count u).adjust adj := by
  unfold ownerAnswer
  rw [frameParams_of_untimed ht, hc]
  simp [ht]

/-- A timed routed command whose values pass: the queue takes it. -/
theorem ownerAnswer_timed {check : List Byte → Checked TimedCmd} {m : Mask} {l : LinkId} {body : List Byte} {u : State}
    {x : TimedCmd} {adj : Bool} (ht : timedFlag body = true) (hc : check (body.drop 9) = .ok (x, adj)) :
    ownerAnswer check m l body u = (arrive x m l (activationCell body) (frameTag body) u).adjust adj := by
  unfold ownerAnswer frameParams
  rw [ht, if_pos rfl, hc]
  simp

theorem ownerAnswer_bad {check : List Byte → Checked TimedCmd} {m : Mask} {l : LinkId} {body : List Byte} {u : State}
    {st : Status} (hc : check (frameParams body) = .error st) : ownerAnswer check m l body u = .refuse st u := by
  unfold ownerAnswer
  rw [hc]

/-- A routed command its owner refuses without a change. -/
theorem routedRow_refused {c : Cmd} {check : List Byte → Checked TimedCmd} {l : LinkId} {s : State} {body : List Byte}
    {m : Mask} {st : Status} (h : RoutedFrame s l c body m) (hr : st.isRefusal = true)
    (ha : ownerAnswer check m l body (reached l body s) = .refuse st (reached l body s)) :
    routedRow c check l s = .next (routedRefused l c body st s) := by
  rw [routedRow_eq h, ha, ← reached_refused]
  simp [finishFrame, Answer.refuse, hr, replyBody, replyOf]

/-- A routed command whose values fail its owner's checks. -/
theorem routedRow_bad {c : Cmd} {check : List Byte → Checked TimedCmd} {l : LinkId} {s : State} {body : List Byte}
    {m : Mask} (h : RoutedFrame s l c body m) (hc : check (frameParams body) = .error .badParam) :
    routedRow c check l s = .next (routedRefused l c body .badParam s) :=
  routedRow_refused h rfl (ownerAnswer_bad hc)

/-- A routed command its owner carries out. -/
theorem routedRow_ok {c : Cmd} {check : List Byte → Checked TimedCmd} {l : LinkId} {s t : State} {body data : List Byte}
    {m : Mask} {st : Status} {adj : Bool} (h : RoutedFrame s l c body m) (hr : st.isRefusal = false)
    (ha : ownerAnswer check m l body (reached l body s) = { status := st, adjusted := adj, data := data, state := t }) :
    routedRow c check l s = .next (if directMatch s.settings (targetAddress body) = true then
      t.modLink l (LinkState.placeReply (replyOf c st adj data)) else t) := by
  rw [routedRow_eq h, ha]
  simp [finishFrame, hr, replyBody, replyOf]

/-- An act that touches no link acts on what the take has left. -/
theorem routedRow_acts {c : Cmd} {check : List Byte → Checked TimedCmd} {l : LinkId} {s : State} {body data : List Byte}
    {m : Mask} {x : TimedCmd} {adj : Bool} (F : State → State) (hF : ∀ u f, (F u).modLink l f = F (u.modLink l f))
    (h : RoutedFrame s l c body m) (ht : timedFlag body = false) (hc : check (body.drop 5) = .ok (x, adj))
    (ha : applyCmd x m l s.tb.count (reached l body s) = .give data (F (reached l body s))) :
    routedRow c check l s = .next (F (routed l c body .ok adj data s)) := by
  have ho : ownerAnswer check m l body (reached l body s) =
      { status := .ok, adjusted := adj, data := data, state := F (reached l body s) } := by
    rw [ownerAnswer_untimed ht hc, reached_tb, ha]
    rfl
  rw [routedRow_ok h rfl ho, hF, ← reached_answered]
  split <;> rfl

/-- An untimed command its owner refuses without a change. -/
theorem routedRow_denied {c : Cmd} {check : List Byte → Checked TimedCmd} {l : LinkId} {s : State} {body : List Byte}
    {m : Mask} {x : TimedCmd} {adj : Bool} {st : Status} (h : RoutedFrame s l c body m) (hr : st.isRefusal = true)
    (ht : timedFlag body = false) (hc : check (body.drop 5) = .ok (x, adj))
    (ha : applyCmd x m l s.tb.count (reached l body s) = .refuse st (reached l body s)) :
    routedRow c check l s = .next (routedRefused l c body st s) := by
  apply routedRow_refused h hr
  rw [ownerAnswer_untimed ht hc, reached_tb, ha, adjust_refuse hr]

end Sys2Proof.Machine
end

