-- ==== Sys2Proof/Laws/Image.lean ====
section
/-! SUPPORT. The frame of the store image: what a load reads from an image that a save wrote comes down to its body
(R178). -/

namespace Sys2Proof.Machine

/-- The body of an image (R178). -/
def imageBody (g : Settings) (c : SavedContent) : List Byte := settingsBytes g ++ contentBytes c

theorem imageBytes_eq (g : Settings) (c : SavedContent) :
    imageBytes g c = ([0x42, 0x16, 0x06, 0xD4] ++ imageBody g c) ++
      bytesOf 2 (crc ([0x42, 0x16, 0x06, 0xD4] ++ imageBody g c)).toNat := by
  have h : bytesOf 2 modelCode ++ bytesOf 2 imageBodyLength = ([0x42, 0x16, 0x06, 0xD4] : List Byte) := by decide
  rw [imageBytes, imageBody, h, List.append_assoc _ (settingsBytes g)]

theorem imageBytes_length {g : Settings} {c : SavedContent} (h : (imageBody g c).length = 1748) :
    (imageBytes g c).length = 1754 := by
  rw [imageBytes_eq, List.length_append, List.length_append, h, bytesOf_length]; rfl

/-- The header and the check word of a written image agree, so that a load reads its body. -/
theorem readImage_imageBytes {g : Settings} {c : SavedContent} (h : (imageBody g c).length = 1748) :
    readImage (imageBytes g c) =
      match readSettings (imageBody g c), readContent (imageBody g c) with
      | some g', some c' => some (g', c')
      | _, _ => none := by
  have hl := imageBytes_length h
  have hh : ([0x42, 0x16, 0x06, 0xD4] ++ imageBody g c).length = 4 + imageBodyLength := by
    rw [List.length_append, h]; rfl
  have htake : (imageBytes g c).take (4 + imageBodyLength) = [0x42, 0x16, 0x06, 0xD4] ++ imageBody g c := by
    rw [imageBytes_eq, List.take_left' hh]
  have hdrop : (imageBytes g c).drop (4 + imageBodyLength) =
      bytesOf 2 (crc ([0x42, 0x16, 0x06, 0xD4] ++ imageBody g c)).toNat := by
    rw [imageBytes_eq, List.drop_left' hh]
  have hbody : slice (imageBytes g c) 4 imageBodyLength = imageBody g c := by
    rw [slice, imageBytes_eq, List.append_assoc]
    show (imageBody g c ++ _).take imageBodyLength = _
    exact List.take_left' h
  have hcheck : natAt (imageBytes g c) (4 + imageBodyLength) 2 =
      (crc ([0x42, 0x16, 0x06, 0xD4] ++ imageBody g c)).toNat := by
    rw [natAt, hdrop, List.take_of_length_le (Nat.le_of_eq (bytesOf_length ..))]
    exact natOf_bytesOf_of_lt (BitVec.isLt _)
  have h0 : natAt (imageBytes g c) 0 2 = modelCode := by rw [imageBytes_eq, List.append_assoc]; rfl
  have h2 : natAt (imageBytes g c) 2 2 = imageBodyLength := by rw [imageBytes_eq, List.append_assoc]; rfl
  rw [readImage, hl, if_neg (by decide), h0, if_neg (by simp), h2, if_neg (by simp), htake, hcheck, if_neg (by simp),
    hbody]
  all_goals (cases readSettings (imageBody g c) <;> cases readContent (imageBody g c) <;> rfl)

end Sys2Proof.Machine
end

