-- ==== Sys2Proof/Laws/Links.lean ====
section
/-! SUPPORT. What the transmitter's choice of its next byte and a disable leave of a link, said once. -/

namespace Sys2Proof.Machine

namespace LinkState

/-- The choice of the next byte changes the byte on the line and the HOLD and GO bytes alone. -/
theorem nextByte_eq (k : LinkState) : k.nextByte = { k with tx := k.nextByte.tx, ctrl := k.nextByte.ctrl } := by
  unfold nextByte
  repeat' split
  all_goals rfl

/-- While a byte is on the line no other is begun. -/
theorem nextByte_busy {k : LinkState} (h : k.tx ≠ none) : k.nextByte = k := by
  unfold nextByte
  split
  · rfl
  · exact absurd ‹k.tx = none› h

/-- Without replies nothing is begun, or the oldest HOLD or GO. -/
theorem nextByte_noReplies {k : LinkState} (h : k.replies = []) : k.nextByte = k ∨
    ∃ c cs, k.tx = none ∧ k.ctrl = c :: cs ∧ k.nextByte = { k with tx := some (.ctrl c), ctrl := cs } := by
  unfold nextByte
  split
  · exact .inl rfl
  · rename_i ht
    split
    · exact .inl rfl
    · split
      · rename_i c cs hc
        exact .inr ⟨c, cs, ht, hc, rfl⟩
      · rw [h]
        exact .inl rfl

/-- With nothing due on the link, the oldest HOLD or GO is begun. -/
theorem nextByte_ctrl {k : LinkState} {c : Byte} {cs : List Byte} (ht : k.tx = none) (hc : k.ctrl = c :: cs)
    (hd : k.changeDue = false) : k.nextByte = { k with tx := some (.ctrl c), ctrl := cs } := by
  unfold nextByte
  rw [ht, hd, hc]
  rfl

/-- A byte begun is still to be sent. -/
theorem nextByte_bytesLeft {k : LinkState} (h : k.replies = []) : k.nextByte.bytesLeft = k.bytesLeft := by
  rcases nextByte_noReplies h with e | ⟨c, cs, ht, hc, e⟩
  · rw [e]
  · rw [e]
    simp [bytesLeft, ht, hc]

/-- A HOLD or GO that becomes due goes out at once or waits behind those due before. -/
theorem sendCtrl_sends (b : Byte) (k : LinkState) : k.Sends (k.sendCtrl b) [b] := by
  have due_iff : k.changeDue = true ↔ k.disableAt = some ⟨0, 0⟩ ∨
      ∃ (rc : RateChange) (rest : List RateChange), k.rateChanges = rc :: rest ∧ rc.after = ⟨0, 0⟩ := by
    unfold changeDue
    cases k.rateChanges <;> simp [or_comm]
  unfold Sends sendCtrl
  rw [← due_iff]
  refine ⟨fun h => ?_, fun ht hc hd => ?_⟩
  · have e : nextByte { k with ctrl := k.ctrl ++ [b] } = { k with ctrl := k.ctrl ++ [b] } := by
      rcases h with h | h
      · exact nextByte_busy h
      · have hd : changeDue { k with ctrl := k.ctrl ++ [b] } = true := h
        unfold nextByte
        rw [hd]
        cases k.tx <;> rfl
    rw [e]
    exact ⟨rfl, rfl⟩
  · rw [nextByte_ctrl (k := { k with ctrl := k.ctrl ++ [b] }) (c := b) (cs := []) ht (by simp [hc])
      (Bool.eq_false_iff.2 hd)]
    exact ⟨rfl, rfl⟩

theorem ctrlLeft_eq_bytesLeft {k : LinkState} (h : k.inReply = false) : k.ctrlLeft = k.bytesLeft := by
  unfold ctrlLeft bytesLeft
  unfold inReply at h
  cases hk : k.tx with
  | none => simp
  | some x => cases x <;> simp_all

theorem cutByte_eq (k : LinkState) : k.cutByte = k.tx.map fun
    | .start => .cut 0xC5
    | .escape => .cut 0xCA
    | .data b => .cut b
    | .ctrl b => .ctrl b
    | .cut b => .cut b := by
  unfold cutByte
  cases k.tx with
  | none => rfl
  | some x => cases x <;> rfl

theorem cutByte_none (k : LinkState) : k.cutByte = none ↔ k.tx = none := by simp [cutByte_eq]

theorem cutLeft_eq (k : LinkState) : k.cutLeft = if k.inReply then 1 else 0 := by
  unfold cutLeft inReply
  cases k.tx with
  | none => rfl
  | some x => cases x <;> rfl

theorem silenced_ctrlLeft (k : LinkState) : k.silenced.ctrlLeft = k.silenced.bytesLeft := by
  refine ctrlLeft_eq_bytesLeft ?_
  show (match k.cutByte with
    | some (.ctrl _) => false
    | some (.cut _) => false
    | some .start => true
    | some .escape => true
    | some (.data _) => true
    | none => false) = false
  rw [cutByte_eq]
  cases k.tx with
  | none => rfl
  | some x => cases x <;> rfl

theorem silenced_bytesLeft (k : LinkState) : k.silenced.bytesLeft = k.bytesLeft + if k.holdOut then 1 else 0 := by
  simp only [bytesLeft, silenced, cutByte_none]
  cases k.holdOut <;> simp [List.length_append] <;> omega

/-- A disable does the five acts of R144 and moves what waits on the link. -/
theorem turnOff_turnedOff (k : LinkState) : k.TurnedOff k.turnOff := by
  obtain ⟨q, hq⟩ : ∃ q, q = { k.silenced with restartAt := k.restartAt.map (Mark.dropReply k.silenced.ctrlLeft) } :=
    ⟨_, rfl⟩
  have e : k.turnOff = q.nextByte := by rw [hq]; rfl
  have hx := nextByte_eq q
  have hr : q.replies = [] := by rw [hq]; rfl
  have ht : q.tx = k.cutByte := by rw [hq]; rfl
  have hc : q.ctrl = if k.holdOut then k.ctrl ++ [goByte] else k.ctrl := by rw [hq]; rfl
  have hl : q.nextByte.bytesLeft = k.silenced.bytesLeft := by rw [nextByte_bytesLeft hr, hq]; rfl
  have hbusy (h : k.tx ≠ none) : q.nextByte = q := nextByte_busy (by rw [ht]; exact mt (cutByte_none k).1 h)
  rw [e]
  refine ⟨by rw [hx, hq]; rfl, by rw [hx, hq]; exact ⟨rfl, rfl, rfl, rfl⟩, by rw [hx, hq]; rfl, ?_,
    by rw [hx, hq]; rfl, ?_, ?_, ?_, by rw [hl, silenced_bytesLeft], ?_, ?_, by rw [hx, hq]; rfl,
    by rw [hx, hq]; exact ⟨rfl, rfl, rfl⟩⟩
  · rw [hx, hq]
    simp only [silenced, waitingReplies]
    cases k.replies with
    | nil => rfl
    | cons r rs => simp [Bool.or_eq_true]
  · intro h
    rw [hbusy h, ht]
    exact cutByte_eq k
  · intro h
    rw [hbusy h, hc]
    rfl
  · intro hn hk hw
    have ht' : q.tx = none := by rw [ht]; exact (cutByte_none k).2 hn
    have hd : q.changeDue = false := by rw [hq]; simp [changeDue, silenced, hw]
    cases hh : k.holdOut with
    | true =>
      rw [nextByte_ctrl (c := 0xC1) (cs := []) ht' (by simp [hc, hh, hk, goByte]) hd]
      exact ⟨rfl, rfl⟩
    | false =>
      rcases nextByte_noReplies hr with h | ⟨c, cs, _, h, _⟩
      · rw [h]
        exact ⟨ht', by simp [hc, hh, hk]⟩
      · simp [hc, hh, hk] at h
  · rw [hx, hq]
    simp only [silenced, Mark.dropReply, cutLeft_eq]
    refine List.map_congr_left fun rc _ => ?_
    split <;> simp_all
  · rw [hl, ← silenced_ctrlLeft, hx, hq]
    rfl

end LinkState

end Sys2Proof.Machine
end

