-- ==== Sys2Proof/Laws/PlainBoundary.lean ====
section
/-! SUPPORT. Boundaries at which no timed entry is applied, and those at which nothing meets. -/

namespace Sys2Proof.Machine

/-- Changes of the claim table other than timed entries leave settings, content, pool and queue. -/
structure SameTables (s t : State) : Prop where
  settings : t.settings = s.settings
  content : t.content = s.content
  pool : t.pool = s.pool
  queue : t.queue = s.queue

theorem SameTables.refl (s : State) : SameTables s s := ⟨rfl, rfl, rfl, rfl⟩

theorem SameTables.trans {s t u : State} (h : SameTables s t) (k : SameTables t u) : SameTables s u :=
  ⟨k.settings.trans h.settings, k.content.trans h.content, k.pool.trans h.pool, k.queue.trans h.queue⟩

theorem enterTable_tables (n : Newcomer) (s : State) : SameTables s (enterTable n s) := by
  have h : SameTables s (renumber s) := by
    unfold renumber
    split
    · exact ⟨rfl, rfl, rfl, rfl⟩
    · exact .refl s
  exact h.trans ⟨rfl, rfl, rfl, rfl⟩

theorem endClaim_tables (c : Claim) (r : EndReason) (count : Count) (s : State) :
    SameTables s (endClaim c r count s) := ⟨rfl, rfl, rfl, rfl⟩

theorem modCue_tables (c : LineId) (f : CueLine → CueLine) (s : State) : SameTables s (s.modCue c f) :=
  ⟨rfl, rfl, rfl, rfl⟩

theorem admit_tables (n : Newcomer) (count : Count) (s : State) : SameTables s (admitClaim n count s).2 := by
  unfold admitClaim
  split
  · exact .refl s
  · split
    · exact enterTable_tables n s
    · split
      · exact ⟨rfl, rfl, rfl, rfl⟩
      · split
        · exact (endClaim_tables _ _ _ _).trans (enterTable_tables n _)
        · exact ⟨rfl, rfl, rfl, rfl⟩

theorem cueEntry_tables (c : LineId) (count : Count) (s : State) : SameTables s (cueEntry c count s).2 := by
  unfold cueEntry
  simp only
  split
  · exact .refl s
  · exact admit_tables _ _ _

theorem cueRequest_tables (c : LineId) (r : CueRequest) (count : Count) (s : State) :
    SameTables s (cueRequest c r count s) := by
  cases r with
  | entry =>
    have h := cueEntry_tables c count s
    simp only [cueRequest, entryRequest]
    split <;> next e => rw [e] at h; exact h.trans (modCue_tables _ _ _)
  | retrigger =>
    simp only [cueRequest, retriggerRequest]
    split <;> exact ⟨rfl, rfl, rfl, rfl⟩
  | finish =>
    simp only [cueRequest, finishRequest]
    split <;> exact ⟨rfl, rfl, rfl, rfl⟩

theorem takeChange_tables (count : Count) (ch : Change) (s : State) : SameTables s (takeChange count ch s) := by
  cases ch with
  | expiry k =>
    simp only [takeChange, expire]
    split
    · exact .refl s
    · split
      · exact .refl s
      · exact endClaim_tables _ _ _ _
  | request c r => exact (modCue_tables c _ s).trans (cueRequest_tables c r count _)
  | retry c =>
    have h := cueEntry_tables c count s
    simp only [takeChange, retryRequest]
    split <;> next e => rw [e] at h; first | exact h.trans (modCue_tables _ _ _) | exact h

theorem takeChanges_tables (o : Order) (count : Count) (fuel : Nat) (others : List Change) (s : State) :
    SameTables s (takeChanges o count fuel [] others s) :=
  takeChanges_induct (P := SameTables s) (fun _ h => h.trans ⟨rfl, rfl, rfl, rfl⟩)
    (fun ch _ h => h.trans (takeChange_tables count ch _)) fuel [] others s (fun _ hd => nomatch hd) (.refl s)

section
variable (o : Order) (expected new : Count) (arm : Option Count) (marked : Bool) (s : State) (p : OutId)

theorem beforeTables_entries : (beforeTables expected new arm marked s).queue = s.queue := by
  have h := (changeRuns_same ((judgeCell s).modTb (Timebase.beginCell new arm marked))).queue
  rw [setUp_keeps new arm marked s (·.queue) fun _ _ _ => rfl] at h
  unfold beforeTables
  simp only
  split
  · exact h
  · rw [noteJump_queue, h]

/-- With nothing queued the table changes leave settings, content and pool. -/
theorem tableChanges_tables (s : State) (h : s.queue.entries = []) :
    (tableChanges o expected new s).settings = s.settings ∧ (tableChanges o expected new s).content = s.content ∧
      (tableChanges o expected new s).pool = s.pool := by
  have he : (takeEntries expected new s).1 = [] := by
    unfold takeEntries takeDue takeLate
    simp only [h, List.filter_nil, List.map_nil]
    split
    · rfl
    · split <;> simp [State.setEntries, State.modQueueCounters]
  have hk : (takeEntries expected new s).2.settings = s.settings ∧ (takeEntries expected new s).2.content = s.content ∧
      (takeEntries expected new s).2.pool = s.pool := by
    unfold takeEntries takeDue
    split
    · exact ⟨rfl, rfl, rfl⟩
    · have hl : ∀ d, (takeLate (expected - 1) d s).2.settings = s.settings ∧
          (takeLate (expected - 1) d s).2.content = s.content ∧ (takeLate (expected - 1) d s).2.pool = s.pool := by
        intro d
        unfold takeLate
        split <;> exact ⟨rfl, rfl, rfl⟩
      exact hl _
  have ht := takeChanges_tables o new
    ((takeEntries expected new s).1.length + (changes (takeEntries expected new s).2).length)
    (changes (takeEntries expected new s).2) (takeEntries expected new s).2
  have e : tableChanges o expected new s = takeChanges o new
      ((takeEntries expected new s).1.length + (changes (takeEntries expected new s).2).length)
      (takeEntries expected new s).1 (changes (takeEntries expected new s).2) (takeEntries expected new s).2 := rfl
  rw [e]
  rw [he] at ht ⊢
  exact ⟨ht.settings.trans hk.1, ht.content.trans hk.2.1, ht.pool.trans hk.2.2⟩

/-- With nothing queued, an output's content when the sequencers begin. -/
theorem beforeCells_out (h : s.queue.entries = []) : (beforeCells o expected new arm marked s).out p =
    let face := (runOut (s.lane p).run (s.outCfg p).enable (s.out p)).updateSource ((s.outCfg p).regId != 0)
    if (s.outCfg p).enable then face.commitText.commitFreqs else face := by
  have ht := tableChanges_tables o expected new (beforeTables expected new arm marked s)
    (by rw [beforeTables_entries, h])
  have hs := tableChanges_same o expected new (beforeTables expected new arm marked s)
  have ho : (tableChanges o expected new (beforeTables expected new arm marked s)).out p =
      runOut (s.lane p).run (s.outCfg p).enable (s.out p) := by
    rw [← (beforeTables_at expected new arm marked s p).2]
    simp only [State.out]
    rw [ht.2.1]
  have hc : (tableChanges o expected new (beforeTables expected new arm marked s)).outCfg p = s.outCfg p := by
    simp only [State.outCfg]
    rw [ht.1, beforeTables_settings]
  have hr : ((tableChanges o expected new (beforeTables expected new arm marked s)).lane p).run =
      (s.outCfg p).enable := by
    rw [hs.run, (beforeTables_at expected new arm marked s p).1, runLane_run]
  have e1 : ∀ u : State, (holdPool new u).lane p = u.lane p := fun _ => rfl
  have e2 : ∀ u : State, (holdPool new u).out p = u.out p := fun _ => rfl
  have e3 : ∀ u : State, (updateSources u).lane p = u.lane p := fun _ => rfl
  rw [beforeCells, commitTexts_out, e1, e2, e3, updateSources_out, hr, ho, hc]

/-! ### The claims after a boundary -/

theorem sequences_claims (u : State) : (u.eachOut sequence).claims = u.claims :=
  eachOut_keeps (·.claims) _ (fun q t => sequence_keeps (·.claims) (fun _ _ => rfl) q t) u

/-- After a boundary the claims are those of the table changes with their statuses and times moved on (R85, R98). -/
theorem boundaryAt_claims : ∃ u, (boundaryAt o expected new arm marked s).claims =
    { (tableChanges o expected new (beforeTables expected new arm marked s)).claims with
      table := (tableChanges o expected new (beforeTables expected new arm marked s)).claims.table.map
        (advanceClaim u) } := by
  refine ⟨(beforeCells o expected new arm marked s).eachOut sequence, ?_⟩
  have h1 : ∀ v : State, (beginBits 0 (selectMonitor (gainTokens v))).claims = v.claims := fun _ => rfl
  have h2 : ∀ first v, (compareNeighbours first v).claims = v.claims := fun first v =>
    eachOut_keeps (·.claims) _ (fun q t => requestBursts_keeps (·.claims) (fun _ _ => rfl) first q t) v
  have h3 : ∀ held v, (State.eachOut (schedule held) v).claims = v.claims := fun held v =>
    eachOut_keeps (·.claims) _ (fun q t => (schedule_same held q t).claims) v
  have h4 : (beforeCells o expected new arm marked s).claims =
      (tableChanges o expected new (beforeTables expected new arm marked s)).claims := by
    unfold beforeCells
    rw [commitTexts_claims, holdPool_claims, updateSources_claims]
  have h5 : ∀ v : State, (advanceClaims v).claims =
      { v.claims with table := v.claims.table.map (advanceClaim v) } := fun _ => rfl
  rw [boundaryAt_eq, h1, h2]
  unfold fillCells
  rw [h3, writeViews_claims, h5, sequences_claims, h4]

theorem changes_congr {s t : State} (hc : t.claims = s.claims) (hq : t.cues = s.cues)
    (hg : t.settings = s.settings) : changes t = changes s := by
  have h1 : ∀ c, t.cue c = s.cue c := fun c => by simp only [State.cue]; rw [hq]
  have h2 : ∀ c, t.cueCfg c = s.cueCfg c := fun c => by simp only [State.cueCfg]; rw [hg]
  have h3 : retries t = retries s := by funext c; simp only [retries, h1, h2]
  simp only [changes, expiries, cueRequests, h3, hc, h1]

theorem beforeTables_claims : (beforeTables expected new arm marked s).claims = s.claims := by
  have h : ((((judgeCell s).modTb (Timebase.beginCell new arm marked))).eachOut changeRun).claims =
      ((judgeCell s).modTb (Timebase.beginCell new arm marked)).claims :=
    eachOut_keeps (·.claims) _ (fun q t => changeRun_keeps (·.claims) (fun _ _ _ => rfl) q t) _
  rw [setUp_keeps new arm marked s (·.claims) fun _ _ _ => rfl] at h
  unfold beforeTables
  simp only
  split
  · exact h
  · rw [noteJump_claims, h]

theorem beforeTables_cues : (beforeTables expected new arm marked s).cues = s.cues := by
  have h := (changeRuns_same ((judgeCell s).modTb (Timebase.beginCell new arm marked))).cues
  rw [setUp_keeps new arm marked s (·.cues) fun _ _ _ => rfl] at h
  unfold beforeTables
  simp only
  split
  · exact h
  · rw [noteJump_cues, h]

/-- The changes that meet at a boundary are those the state before it holds. -/
theorem beforeTables_changes : changes (beforeTables expected new arm marked s) = changes s :=
  changes_congr (beforeTables_claims ..) (beforeTables_cues ..) (beforeTables_settings ..)

/-- With nothing queued and no jump, the table changes are the changes alone. -/
theorem tableChanges_onTime (u : State) (h : u.queue.entries = []) :
    tableChanges o expected expected u = takeChanges o expected (changes u).length [] (changes u) u := by
  have e : takeEntries expected expected u = ([], u) := by
    unfold takeEntries takeDue
    simp only [if_true, h, List.filter_nil, List.map_nil, State.setEntries]
    rw [← h]
  unfold tableChanges
  rw [e]
  simp

/-- A single change is taken as it stands, whatever the order. -/
theorem takeChanges_one (count : Count) (ch : Change) (u : State) :
    takeChanges o count 1 [] [ch] u = takeChange count ch u := by
  simp [takeChanges, pickChange]

theorem takeChanges_none (count : Count) (u : State) : takeChanges o count 0 [] [] u = u := rfl

end

/-- At a plain boundary the count advances by one. -/
theorem PlainBoundary.next {s : State} (h : PlainBoundary s) :
    s.tb.expected = s.tb.count + 1 ∧ (s.tb.decideNext s.settings.mode).1 = s.tb.count + 1 := by
  have he : s.tb.expected = s.tb.count + 1 := by simp [Timebase.expected, h.running]
  refine ⟨he, ?_⟩
  simp only [Timebase.decideNext, h.unmarked, he]
  split
  · next hm => rw [h.unarmed hm.1]; rfl
  · rfl

/-! ### The sequencers at a plain boundary -/

section
variable {s : State} {n : Count} (h : PlainBoundary s) (arm : Option Count) (marked : Bool) (p : OutId)
include h

/-- At a plain boundary nothing changes the tables. -/
theorem PlainBoundary.tables : tableChanges .free n n (beforeTables n n arm marked s) = beforeTables n n arm marked s := by
  rw [tableChanges_onTime _ _ _ (by rw [beforeTables_entries, h.noEntries]), beforeTables_changes, (changes_eq_nil s).2 h.noneAsks]
  rfl

theorem PlainBoundary.beforeCells_eq : beforeCells .free n n arm marked s =
    commitTexts (holdPool n (updateSources (beforeTables n n arm marked s))) := by
  unfold beforeCells
  rw [h.tables]

/-- The claim each output will choose is the choice among the claims held, with the sources of the boundary. -/
theorem PlainBoundary.choice_eq (hr : (s.lane p).run = true) (he : (s.outCfg p).enable = true) :
    choice (beforeCells .free n n arm marked s) p = choice (updateSources s) p := by
  have e := h.beforeCells_eq (n := n) arm marked
  have hl : (beforeCells .free n n arm marked s).lane p = s.lane p := by
    have e2 : ∀ u : State, (commitTexts (holdPool n (updateSources u))).lane p = u.lane p := fun _ => rfl
    rw [e, e2, (beforeTables_at ..).1]
    unfold runLane
    rw [hr, he]
  have hc : (beforeCells .free n n arm marked s).claims = s.claims := by
    rw [e, commitTexts_claims, holdPool_claims, updateSources_claims, beforeTables_claims]
  have hg : (beforeCells .free n n arm marked s).settings = s.settings := by
    rw [e, commitTexts_settings, holdPool_settings, updateSources_settings, beforeTables_settings]
  have ho : ((beforeCells .free n n arm marked s).out p).source = ((updateSources s).out p).source := by
    rw [beforeCells_out _ _ _ _ _ _ _ h.noEntries, updateSources_out]
    simp only [he, hr, runOut, if_true, Bool.not_true, Bool.false_and, Bool.false_eq_true, if_false]
    generalize OutContent.updateSource ((s.outCfg p).regId != 0) (s.out p) = u
    have e3 : ∀ w : OutContent, w.commitFreqs.source = w.source := by
      intro w
      unfold OutContent.commitFreqs
      split
      · split <;> rfl
      · rfl
    have e4 : u.commitText.source = u.source := by
      unfold OutContent.commitText
      split
      · simp only [OutContent.modVariant]
        cases u.source.variant <;> rfl
      · rfl
    rw [e3, e4]
  exact choice_congr hc (by rw [hl]; rfl) hg ho

/-- The sequencer of a running output after a plain boundary, but for its burst counter. -/
theorem PlainBoundary.seq (hr : (s.lane p).run = true) (he : (s.outCfg p).enable = true) :
    ∃ b held, ((boundary .free s).lane p).seq =
      { Sequencer.writeView held
          (Sequencer.boundary (s.outCfg p) ((choice (updateSources s) p).map Claim.ref) (s.lane p).seq) with
        burst := b } := by
  have hb : boundary .free s = boundaryAt .free (s.tb.count + 1) (s.tb.count + 1)
      (s.tb.decideNext s.settings.mode).2 s.tb.markNext.isSome s := by
    unfold boundary
    simp only
    rw [h.next.1, h.next.2]
  rw [hb]
  generalize (s.tb.decideNext s.settings.mode).2 = a
  generalize s.tb.markNext.isSome = m
  obtain ⟨s', k, h1, _, _, _, _, h6, _⟩ := boundaryAt_lane .free (s.tb.count + 1) (s.tb.count + 1) a m s p
  have e := h.beforeCells_eq (n := s.tb.count + 1) a m
  obtain ⟨b, hb⟩ := (schedule_same
    ((beforeCells .free (s.tb.count + 1) (s.tb.count + 1) a m s).eachOut sequence).claims.table p s').seq
  have hl : (beforeCells .free (s.tb.count + 1) (s.tb.count + 1) a m s).lane p = s.lane p := by
    have e2 : ∀ u : State, (commitTexts (holdPool (s.tb.count + 1) (updateSources u))).lane p = u.lane p := fun _ => rfl
    rw [e, e2, (beforeTables_at ..).1]
    unfold runLane
    rw [hr, he]
  have hc : (beforeCells .free (s.tb.count + 1) (s.tb.count + 1) a m s).outCfg p = s.outCfg p := by
    simp only [State.outCfg]
    rw [e, commitTexts_settings, holdPool_settings, updateSources_settings, beforeTables_settings]
  have hq := h.choice_eq (n := s.tb.count + 1) a m p hr he
  refine ⟨b, (advanceClaims ((beforeCells .free (s.tb.count + 1) (s.tb.count + 1) a m s).eachOut
    sequence)).claims.table, ?_⟩
  rw [h6]
  simp only
  rw [hb, h1]
  unfold sequencedLane
  rw [hl, hr, hq, hc]
  rfl

end

theorem writeView_keeps (held : List Claim) (q : Sequencer) : ∃ v, Sequencer.writeView held q = { q with view := v } := by
  unfold Sequencer.writeView
  split
  · exact ⟨_, rfl⟩
  · split
    · exact ⟨_, rfl⟩
    · exact ⟨_, rfl⟩

theorem writeView_none (held : List Claim) (q : Sequencer) (h : q.current = none) : Sequencer.writeView held q = q := by
  unfold Sequencer.writeView
  rw [h]

/-! ### The rows that are boundaries (log 3) -/

theorem execLeadEnd_next {s t : State} {p : OutId} (ht : boundary .free s = t) (h : inService s p = true)
    (hp : (s.lane p).seq.phase = .onset) (hq : (t.lane p).seq.phase = .onAir) : execLeadEnd p s = .next t := by
  unfold execLeadEnd
  simp only
  rw [ht, if_pos ⟨h, hp, hq⟩]

theorem execTrailEnd_next {s t : State} {p : OutId} (ht : boundary .free s = t) (h : inService s p = true)
    (hp : (s.lane p).seq.phase = .trail) (hq : (t.lane p).seq.phase = .quiet) : execTrailEnd p s = .next t := by
  unfold execTrailEnd
  simp only
  rw [ht, if_pos ⟨h, hp, hq⟩]

/-! ### The pool in the course of a boundary -/

/-- Output 0 finds the pool held, and at a jump renumbered. -/
theorem poolAt_zero (s t : State) : s.poolAt t 0 = s.pool.records.map fun r => holdRecord t.tb.count
    (if t.tb.count = s.tb.expected then r else { r with nextEligible := .replicate 4 t.tb.count }) := rfl

theorem outputs_take (p : OutId) : outputs.take (p.val + 1) = outputs.take p.val ++ [p] := by
  revert p
  decide

/-- An output that sends a message leaves the pool to the next as the send leaves it. -/
theorem poolAt_sent {s t : State} {p : OutId} (h : t.cellKind p = some 4) :
    s.poolAt t (p.val + 1) = sendFirst t.tb.count p (s.poolAt t p.val) := by
  simp [State.poolAt, outputs_take, h]

/-- An output that sends none leaves it as it is. -/
theorem poolAt_kept {s t : State} {p : OutId} (h : t.cellKind p ≠ some 4) :
    s.poolAt t (p.val + 1) = s.poolAt t p.val := by
  simp [State.poolAt, outputs_take, h]

end Sys2Proof.Machine
end

