-- ==== Sys2Proof/WellFormed.lean ====
section
/-! DEFINITION. Which commands are well formed. Instance numbers are bounded by their types; what is left is the
period of a REF edge. -/

namespace Sys2Proof

/-- Two rising edges of REF are never at one instant, so a period is not 0 (R22). -/
def Instr.wellFormed : Instr → Bool
  | .refEdge period => decide (0 < period)
  | _ => true

end Sys2Proof
end

