-- ==== Sys2Proof/Tests/Slice0.lean ====
section
/-! SUPPORT. Tests: the check of WellFormed, worked examples of the spec, and for every statement with hypotheses a
concrete state and operands that meet them, clause by clause at the ends of their ranges. -/

open Sys2Proof Sys2Proof.Machine

namespace Sys2Proof.Tests

set_option Elab.async false

/-! ## Well-formed commands -/

theorem test_a_period_of_zero_is_refused : (Instr.refEdge 0).wellFormed = false := rfl

theorem test_a_period_is_well_formed : (Instr.refEdge 1).wellFormed = true := rfl

/-! ## Figures the spec works out -/

/-- The known value of the note under R5: the check of "123456789". -/
theorem test_check_word : crc [0x31, 0x32, 0x33, 0x34, 0x35, 0x36, 0x37, 0x38, 0x39] = 0x29B1 := by decide +kernel

/-- Section 2.9, cases A to F. -/
theorem test_nearest_epoch_counts :
    ([204800, 300001, 205311, 205312, 16776900, 5120] : List Count).map Timebase.nearestEpoch =
      [204800, 300032, 204800, 205824, 0, 5120] := by decide

/-- The deltas of the table under R132. -/
theorem test_deltas :
    [delta 16777100 50, delta 16777215 0, delta 1000 37000, delta 1000 37001, delta 1000 500, delta 0 8388608] =
      [166, 1, 36000, 36001, 16776716, 8388608] := by decide

/-- The list of the example under R41: codes out of range and repeats are left out, and the reply says so. -/
theorem test_frequency_list :
    checkFreqlist ([6] ++ [627, 0, 412, 627, 881, 530].flatMap (bytesOf 2)) =
      .ok (.freqlist [627, 412, 530], true) := by rfl

/-- R6: the labels of 9, 10 and 15 characters of section 3.10 have 2, 2 and 3 segments. -/
theorem test_label_segments : [9, 10, 15].map (fun n => ceilDiv n 6) = [2, 2, 3] := by decide

/-- No row of the table gives bits. -/
theorem test_no_word_is_a_command : decodeTableWord 8 0x20 = none := rfl

/-! ## Frames to feed -/

/-- The body of an untimed frame to the built-in site address 0xFFFE with region group 0. -/
def bodyOf (c : Cmd) (ps : List Byte) : List Byte := [c.code, 0, 0xFF, 0xFE, 0] ++ ps

/-- The body of a timed frame for a cell, with tag 7. -/
def timedBody (c : Cmd) (cell : Nat) (ps : List Byte) : List Byte :=
  [c.code, 1, 0xFF, 0xFE, 0] ++ bytesOf 3 cell ++ [7] ++ ps

/-- The state after reset with a default route to outputs 0 and 1. -/
def base : State := State.reset.modSettings fun g => { g with defaultMask := 3 }

/-- A state in which link 0 holds one complete frame. -/
def fed (s : State) (body : List Byte) : State := s.modLink 0 fun k => { k with waiting := [body] }

/-- The conditions of a part command that reaches its owner, as one test. -/
def isPart (s : State) (l : LinkId) (c : Cmd) (body : List Byte) : Bool :=
  decide ((s.link l).waiting.head? = some body) && byteAt body 0 == c.code &&
    directMatch s.settings (targetAddress body) && permitted s l c.cls && !timedFlag body

theorem part_of {s : State} {l : LinkId} {c : Cmd} {body : List Byte} (h : isPart s l c body = true) :
    PartFrame s l c body := by
  simp only [isPart, Bool.and_eq_true, decide_eq_true_eq, beq_iff_eq, Bool.not_eq_true'] at h
  exact ⟨⟨h.1.1.1.1, h.1.1.1.2⟩, h.1.1.2, h.1.2, h.2⟩

/-- The conditions of a routed command that reaches its owner, as one test. -/
def isRoutedTo (s : State) (l : LinkId) (c : Cmd) (body : List Byte) (m : Mask) : Bool :=
  decide ((s.link l).waiting.head? = some body) && byteAt body 0 == c.code &&
    (!timedFlag body || decide (9 ≤ body.length)) &&
    routeMask s.settings (targetAddress body) (regionGroup body) == m && m != 0 && permitted s l c.cls &&
    decide (0 < (s.link l).tokens)

theorem routed_of {s : State} {l : LinkId} {c : Cmd} {body : List Byte} {m : Mask}
    (h : isRoutedTo s l c body m = true) : RoutedFrame s l c body m := by
  simp only [isRoutedTo, Bool.and_eq_true, decide_eq_true_eq, beq_iff_eq, bne_iff_ne, Bool.or_eq_true,
    Bool.not_eq_true'] at h
  obtain ⟨⟨⟨⟨⟨⟨h1, h2⟩, h3⟩, h4⟩, h5⟩, h6⟩, h7⟩ := h
  exact ⟨⟨h1, h2⟩, fun ht => h3.resolve_left (by simp [ht]), h4, h5, h6, h7⟩

/-- Some state and frame meet the hypotheses of a statement about a part command with these parameters, and the
further ones `P`. -/
def MeetsPart (c : Cmd) (ps : List Byte) (P : State → Prop) : Prop :=
  ∃ s l body, PartFrame s l c body ∧ body.drop 5 = ps ∧ P s

theorem meets_part (s : State) {c : Cmd} {ps : List Byte} {P : State → Prop}
    (h : isPart (fed s (bodyOf c ps)) 0 c (bodyOf c ps) = true) (hp : P (fed s (bodyOf c ps))) : MeetsPart c ps P :=
  ⟨_, 0, _, part_of h, rfl, hp⟩

/-- The same for an untimed routed command, carried by link 0 to outputs 0 and 1. -/
def MeetsRouted (c : Cmd) (ps : List Byte) (P : State → Prop) : Prop :=
  ∃ s body, RoutedFrame s 0 c body 3 ∧ timedFlag body = false ∧ body.drop 5 = ps ∧ P s

theorem meets_routed (s : State) {c : Cmd} {ps : List Byte} {P : State → Prop}
    (h : isRoutedTo (fed s (bodyOf c ps)) 0 c (bodyOf c ps) 3 = true) (hp : P (fed s (bodyOf c ps))) :
    MeetsRouted c ps P :=
  ⟨_, _, routed_of h, by show (0 : Byte).getLsbD 0 = false; decide, rfl, hp⟩

/-- Nothing further is asked of the state. -/
def Any (_ : State) : Prop := True

/-- An untimed part command reaches its owner in `base` whatever its parameters. -/
theorem meets_part_any (c : Cmd) (ps : List Byte) : MeetsPart c ps Any := by
  refine ⟨fed base (bodyOf c ps), 0, bodyOf c ps, ⟨⟨rfl, rfl⟩, ?_, ?_, ?_⟩, rfl, trivial⟩
  · show directMatch base.settings 0xFFFE = true
    decide +kernel
  · show permitted base 0 c.cls = true
    cases c <;> decide +kernel
  · show (0 : Byte).getLsbD 0 = false
    decide

/-- An untimed routed command reaches its owner in `base` whatever its parameters. -/
theorem meets_routed_any (c : Cmd) (ps : List Byte) : MeetsRouted c ps Any := by
  refine ⟨fed base (bodyOf c ps), bodyOf c ps, ⟨⟨rfl, rfl⟩, fun h => ?_, ?_, by decide, ?_, ?_⟩, ?_, rfl, trivial⟩
  · exact absurd (show (0 : Byte).getLsbD 0 = true from h) (by decide)
  · show routeMask base.settings 0xFFFE 0 = 3
    decide +kernel
  · show permitted base 0 c.cls = true
    cases c <;> decide +kernel
  · show 0 < (base.link 0).tokens
    decide +kernel
  · show (0 : Byte).getLsbD 0 = false
    decide

/-- The same for a timed routed command for cell 5, with tag 7. -/
def MeetsTimed (c : Cmd) (ps : List Byte) : Prop :=
  ∃ s body, RoutedFrame s 0 c body 3 ∧ timedFlag body = true ∧ body.drop 9 = ps

/-- A timed routed command reaches its owner in `base` whatever its parameters. -/
theorem meets_timed (c : Cmd) (ps : List Byte) : MeetsTimed c ps := by
  refine ⟨fed base (timedBody c 5 ps), timedBody c 5 ps, ⟨⟨rfl, rfl⟩, fun _ => ?_, ?_, by decide, ?_, ?_⟩, ?_, rfl⟩
  · show 9 ≤ (timedBody c 5 ps).length
    simp [timedBody, bytesOf]
  · show routeMask base.settings 0xFFFE 0 = 3
    decide +kernel
  · show permitted base 0 c.cls = true
    cases c <;> decide +kernel
  · show 0 < (base.link 0).tokens
    decide +kernel
  · show (1 : Byte).getLsbD 0 = true
    decide

/-! ## States to meet the hypotheses in -/

/-- A claim of link 0. -/
def claimOf (key : ClaimKey) (priority : Nat) (stamp : Nat) (status : ClaimStatus) : Claim :=
  { key := key, kind := .link, cls := .traffic, priority := priority, group := 20, target := 1, holdLimit := 100
    waitLimit := 100, holdUsed := 0, waitUsed := 0, stamp := BitVec.ofNat 32 stamp, status := .replicate 4 status }

def withClaims (cs : List Claim) (next : Counter) (s : State) : State :=
  { s with claims := { s.claims with table := cs, nextStamp := next } }

/-- Eight claims of cue lines, the first of priority 1, the others of 2, current nowhere. -/
def fullTable : List Claim :=
  lines.map fun c => claimOf ⟨.cue c, 0⟩ (if c = 0 then 1 else 2) c.val .waiting

def aRecord (key : Word) : PoolRecord :=
  { key := key, content := 5, target := 3, spacing := 1, repeats := .replicate 4 1, nextEligible := .replicate 4 0 }

def withPool (rs : List PoolRecord) (s : State) : State := s.modPool fun _ => rs

def anEntry (cell : Count) (tag : Byte) : QueueEntry :=
  { cell := cell, link := 0, tag := tag, cmd := .release 5, target := 3 }

def aNeighbour (link : Option OutId) : Neighbour :=
  { identity := 0x2222, label := [0x41], freq := 880, carriers := 15, link := link, ext := ⟨true, false, true⟩ }

def withNeighbour (r : Neighbour) (s : State) : State :=
  { s with content := { s.content with neighbours := s.content.neighbours.set 7 (some r) } }

def saving (s : State) : State := { s with store := { s.store with saving := some [1] } }

/-- The store holds the built-in settings and content, saved. -/
def stored (s : State) : State :=
  { s with store := { s.store with image := imageBytes (builtinSettings .r9600) builtinContent } }

theorem stored_readImage (s : State) :
    readImage (stored s).store.image = some (builtinSettings .r9600, builtinContent) := by
  have h : (imageBody (builtinSettings .r9600) builtinContent).length = 1748 := by decide +kernel
  have hs : readSettings (imageBody (builtinSettings .r9600) builtinContent) = some (builtinSettings .r9600) := by
    decide +kernel
  have hc : readContent (imageBody (builtinSettings .r9600) builtinContent) = some builtinContent := by
    decide +kernel
  show readImage (imageBytes _ _) = _
  rw [readImage_imageBytes h, hs, hc]

/-! ## Witnesses: part commands -/

theorem witness_RoutingSettingsAreWritten :
    MeetsPart .setSite [15, 0x31, 0, 1] Any ∧ MeetsPart .setSite [16, 0x31, 0, 1] Any ∧
    MeetsPart .setGroupset (7 :: 16 :: (List.replicate 16 ((20 : Byte), (29 : Byte))).flatMap fun r => [r.1, r.2]) Any ∧
    MeetsPart .setGroupset [0, 0] Any ∧ MeetsPart .setGroupset [8, 0] Any ∧ MeetsPart .setGroupset [0, 1, 29, 20] Any ∧
    MeetsPart .setGroupset (0 :: 17 :: (List.replicate 17 ((20 : Byte), (29 : Byte))).flatMap fun r => [r.1, r.2]) Any :=
  ⟨meets_part_any .., meets_part_any .., meets_part_any .., meets_part_any .., meets_part_any .., meets_part_any ..,
    meets_part_any ..⟩

/-- Both tests present at the ends of their ranges, both absent, and a slot and a set out of range. -/
theorem witness_RoutingSettingsAreWritten_routes :
    MeetsPart .setRoute [15, 1, 3, 0xF0, 15, 7, 0xF0, 15, 7, 0xF0, 15, 7, 0xF0, 15, 7] Any ∧
    (∃ terms : Table 4 RouteTerm, ∀ j : Fin 4, (terms.get j).enable = (0xF0 : Byte).getLsbD 7 ∧
      (terms.get j).combiner = .or ∧ (terms.get j).addressTest = some 15 ∧ (terms.get j).groupTest = some 7) ∧
    MeetsPart .setRoute [0, 1, 3, 0, 255, 255, 0, 255, 255, 0, 255, 255, 0, 255, 255] Any ∧
    (∃ terms : Table 4 RouteTerm, ∀ j : Fin 4, (terms.get j).enable = (0 : Byte).getLsbD 7 ∧
      (terms.get j).combiner = .and ∧ (terms.get j).addressTest = none ∧ (terms.get j).groupTest = none) ∧
    MeetsPart .setRoute [16, 1, 3, 0, 0, 0, 0, 0, 0, 0, 0, 0, 0, 0, 0] Any ∧
    MeetsPart .setRoute [0, 1, 3, 0x40, 16, 0, 0, 0, 0, 0, 0, 0, 0, 0, 0] Any ∧
    MeetsPart .setRoute [0, 1, 3, 0x20, 0, 8, 0, 0, 0, 0, 0, 0, 0, 0, 0] Any ∧
    MeetsPart .setDefaultRoute [0xFF] Any :=
  ⟨meets_part_any .., ⟨.replicate 4 ⟨true, some 15, some 7, .or⟩, by decide⟩, meets_part_any ..,
    ⟨.replicate 4 ⟨false, none, none, .and⟩, by decide⟩, meets_part_any .., meets_part_any .., meets_part_any ..,
    meets_part_any ..⟩

theorem witness_SetOutputWritesTheFields :
    MeetsPart .setOutput [3, 3, 0, 1, 0, 2, 7, 7, 200, 200, 8] Any ∧
    MeetsPart .setOutput [0, 3, 0, 1, 0, 0, 8, 8, 201, 201, 9] (fun s => (s.out 0).source = .regional) ∧
    MeetsPart .setOutput [4, 3, 0, 1, 0, 2, 7, 7, 200, 200, 8] Any ∧
    MeetsPart .setOutput [0, 3, 0, 0, 0, 2, 7, 7, 200, 200, 0] Any :=
  ⟨meets_part_any ..,
    meets_part (base.modOut 0 fun o => { o with source := .regional }) (by decide +kernel) (by decide +kernel),
    meets_part_any .., meets_part_any ..⟩

theorem witness_SetCueWritesTheLine :
    MeetsPart .setCue [7, 2, 1, 1, 0, 4, 8, 20, 0xFF, 1, 0x19, 0x41, 1, 0x19, 0x41] Any ∧
    MeetsPart .setCue [0, 0, 0, 0, 0, 1, 7, 20, 15, 1, 0x19, 0x40, 1, 0x19, 0x40] (fun s =>
      (s.cueCfg 0).mode = .off ∧ (s.cueCfg 0).polarity = .activeHigh) ∧
    MeetsPart .setCue [8, 0, 0, 0, 1, 1, 0, 0, 0, 0, 0, 0, 0, 0, 0] Any ∧
    MeetsPart .setCue [0, 3, 0, 0, 1, 1, 0, 0, 0, 0, 0, 0, 0, 0, 0] Any ∧
    MeetsPart .setCue [0, 0, 2, 0, 1, 1, 0, 0, 0, 0, 0, 0, 0, 0, 0] Any ∧
    MeetsPart .setCue [0, 0, 0, 0, 1, 0, 0, 0, 0, 0, 0, 0, 0, 0, 0] Any ∧
    MeetsPart .setCue [0, 0, 0, 0, 1, 5, 0, 0, 0, 0, 0, 0, 0, 0, 0] Any :=
  ⟨meets_part_any .., meets_part base (by decide +kernel) (by decide +kernel), meets_part_any .., meets_part_any ..,
    meets_part_any .., meets_part_any .., meets_part_any ..⟩

/-- With the settings the first of these frames asks for. -/
theorem witness_SetLinkWritesTheLink :
    MeetsPart .setLink [3, 0, 4, 0xFF, 0, 63, 0, 64, 0, 0] Any ∧
    (∃ cfg : LinkSettings, cfg.enable = false ∧ cfg.rate = .r115200 ∧ cfg.perms = 31 ∧ cfg.pause = 64 ∧
      cfg.resume = 63 ∧ cfg.interval = 1) ∧
    MeetsPart .setLink [0, 1, 0, 0, 3, 0xF1, 0, 0, 1, 0] Any ∧
    MeetsPart .setLink [4, 1, 0, 0, 3, 0, 0, 0, 0, 1] Any ∧ MeetsPart .setLink [0, 1, 5, 0, 3, 0, 0, 0, 0, 1] Any :=
  ⟨meets_part_any .., ⟨⟨false, .r115200, 31, 64, 63, 1⟩, by decide⟩, meets_part_any .., meets_part_any ..,
    meets_part_any ..⟩

/-- A frame of body length 320 with `n` of its bytes stored. -/
def filled (n : Nat) : List Byte := [1, 0x40] ++ List.replicate (n - 2) 0

/-- A link as a reset leaves it, with `n` bytes in its input buffer. -/
def holding (n : Nat) (k : LinkState) : LinkState := { k with recv := .body, stored := filled n }

/-- Another link disabled, off and off, off to on with and without bytes still to send, on with the reply's link
disabled, and a changed level at the occupancy, with and without a HOLD outstanding, and one byte off it. -/
theorem witness_SetLinkWritesTheLink_link :
    (∃ old new : LinkSettings, old.enable = true ∧ new.enable = false ∧ 0 < new.pause ∧ new.resume < new.pause) ∧
    (∃ k : LinkState, k.on = false ∧ k.tx ≠ none) ∧
    (∃ k : LinkState, k.on = false ∧ k.tx = none ∧ k.ctrl = [] ∧ k.disableAt = none ∧ k.rateChanges = []) ∧
    (∃ k : LinkState, k.on = true ∧ k.tx ≠ none) ∧
    (∃ (old new : LinkSettings) (k : LinkState), k.on = true ∧ k.holdOut = false ∧ old.pause ≠ new.pause ∧
      k.occupancy = new.pause ∧ new.resume < new.pause) ∧
    (∃ (old new : LinkSettings) (k : LinkState), k.on = true ∧ k.holdOut = true ∧ old.resume ≠ new.resume ∧
      k.occupancy = new.resume ∧ new.resume < new.pause) ∧
    (∃ (old new : LinkSettings) (k : LinkState), k.on = true ∧ k.holdOut = false ∧ old.pause ≠ new.pause ∧
      k.occupancy + 1 = new.pause ∧ new.resume < new.pause) ∧
    (∃ (old new : LinkSettings) (k : LinkState), k.on = true ∧ k.holdOut = true ∧ old.pause ≠ new.pause ∧
      k.occupancy = new.resume + 1 ∧ new.resume < new.pause) :=
  let cfg := builtinLink .r9600
  let k := resetLink cfg
  ⟨⟨cfg, { cfg with enable := false }, by decide +kernel⟩, ⟨{ k with on := false }, by decide +kernel⟩,
    ⟨{ k with on := false, tx := none }, by decide +kernel⟩, ⟨k, by decide +kernel⟩,
    ⟨cfg, { cfg with pause := 64, resume := 0 }, holding 64 k, by decide +kernel⟩,
    ⟨cfg, { cfg with resume := 63 }, { holding 63 k with holdOut := true }, by decide +kernel⟩,
    ⟨cfg, { cfg with pause := 64, resume := 0 }, holding 63 k, by decide +kernel⟩,
    ⟨cfg, { cfg with pause := 100, resume := 62 }, { holding 63 k with holdOut := true }, by decide +kernel⟩⟩

theorem witness_TimingMonitorEpochAndAlertAreSet :
    MeetsPart .setTiming [0] (fun s => s.settings.mode = .master) ∧
    MeetsPart .setTiming [1] (fun s => s.settings.mode ≠ .slave) ∧ MeetsPart .setTiming [2] Any ∧
    MeetsPart .setMonitor [0xFF] Any ∧ MeetsPart .setMonitor [3] Any ∧ MeetsPart .setMonitor [4] Any ∧
    MeetsPart .setMonitor [0xFE] Any ∧
    MeetsPart .setEpoch [0xFF, 0xFC, 0] Any ∧ MeetsPart .setEpoch [0, 0, 0] Any ∧ MeetsPart .setEpoch [0, 3, 0xFF] Any :=
  ⟨meets_part base (by decide +kernel) (by decide +kernel), meets_part base (by decide +kernel) (by decide +kernel),
    meets_part_any .., meets_part_any .., meets_part_any .., meets_part_any .., meets_part_any .., meets_part_any ..,
    meets_part_any .., meets_part_any ..⟩

theorem witness_TimingMonitorEpochAndAlertAreSet_alert :
    MeetsPart .setAlert [0xFF] Any ∧ MeetsPart .setAlert [0] Any ∧ MeetsPart .clearFaults [] Any :=
  ⟨meets_part_any .., meets_part_any .., meets_part_any ..⟩

theorem witness_StoreSaveTakesTheSnapshot :
    MeetsPart .storeSave [] (fun s => s.store.saving ≠ none) ∧ MeetsPart .storeSave [] (fun s => s.store.saving = none) ∧
    (saving base).store.saving = some [1] :=
  ⟨meets_part (saving base) (by decide +kernel) (by decide +kernel), meets_part base (by decide +kernel) rfl, rfl⟩

theorem witness_ReloadReplacesTheSettings :
    MeetsPart .reload [] (fun s => s.store.saving ≠ none) ∧
    MeetsPart .reload [] (fun s => s.store.saving = none ∧ readImage s.store.image = none) ∧
    MeetsPart .reload [] (fun s => s.store.saving = none ∧
      readImage s.store.image = some (builtinSettings .r9600, builtinContent)) :=
  ⟨meets_part (saving base) (by decide +kernel) (by decide +kernel),
    meets_part base (by decide +kernel) (by decide +kernel),
    meets_part (stored base) (by decide +kernel) ⟨rfl, stored_readImage base⟩⟩

/-- A state in which link 0 has a RESTART that waits for a place. -/
def restarting (m : Mark) (s : State) : State := s.modLink 0 fun k => { k with restartAt := some m }

theorem witness_RestartWaitsAndBegins :
    MeetsPart .restart [] (fun s => s.store.saving ≠ none) ∧
    MeetsPart .restart [] (fun s => s.store.saving = none ∧ (s.link 0).restartAt = none) ∧
    MeetsPart .restart [] (fun s => s.store.saving = none ∧ (s.link 0).restartAt = some ⟨0, 1⟩) ∧
    (∀ l, (base.link l).restartAt = none) ∧
    ((restarting ⟨0, 0⟩ base).link 0).restartAt = some ⟨0, 0⟩ ∧
    (∀ l, ((restarting ⟨0, 0⟩ base).link l).restartAt ∈ [none, some ⟨0, 0⟩]) ∧
    ((restarting ⟨1, 0⟩ base).link 0).restartAt = some ⟨1, 0⟩ ∧ (restarting ⟨0, 0⟩ base).store.saving = none ∧
    (saving base).store.saving ≠ none :=
  ⟨meets_part (saving base) (by decide +kernel) (by decide +kernel),
    meets_part base (by decide +kernel) (by decide +kernel),
    meets_part (restarting ⟨0, 1⟩ base) (by decide +kernel) (by decide +kernel), by decide +kernel, by decide +kernel,
    by decide +kernel, by decide +kernel, rfl, by decide⟩

theorem witness_ClaimsAndEntriesAreWithdrawn :
    MeetsPart .revoke [11, 0] (fun s => s.claims.table.find? (fun d => d.key == ⟨.cue 7, 0⟩) =
      some (claimOf ⟨.cue 7, 0⟩ 1 0 .current)) ∧
    MeetsPart .revoke [0, 5] (fun s => ∀ d, d ∈ s.claims.table → d.key ≠ ⟨.link 0, 5⟩) ∧
    MeetsPart .revoke [12, 0] Any ∧
    MeetsRouted .release [5] (fun s => s.claims.table.find? (fun d => d.key == ⟨.link 0, 5⟩) =
      some (claimOf ⟨.link 0, 5⟩ 1 0 .current)) ∧
    MeetsRouted .release [5] (fun s => ∀ d, d ∈ s.claims.table → d.key ≠ ⟨.link 0, 5⟩) :=
  ⟨meets_part (withClaims [claimOf ⟨.cue 7, 0⟩ 1 0 .current] 1 base) (by decide +kernel) (by decide +kernel),
    meets_part base (by decide +kernel) (by decide +kernel), meets_part_any ..,
    meets_routed (withClaims [claimOf ⟨.link 0, 5⟩ 1 0 .current] 1 base) (by decide +kernel) (by decide +kernel),
    meets_routed base (by decide +kernel) (by decide +kernel)⟩

theorem witness_ClaimsAndEntriesAreWithdrawn_entries :
    MeetsPart .cancelTimed [7] (fun s => (s.queue.entries.filter fun e => e.link == 0 && e.tag == 7).length = 2) ∧
    MeetsPart .cancelTimed [8] (fun s => ∀ e, e ∈ s.queue.entries → ¬ (e.link = 0 ∧ e.tag = 8)) :=
  ⟨meets_part (base.setEntries [anEntry 5 7, anEntry 6 8, anEntry 7 7]) (by decide +kernel) (by decide +kernel),
    meets_part (base.setEntries [anEntry 5 7]) (by decide +kernel) (by decide +kernel)⟩

theorem witness_StatusReportsThePart : MeetsPart .status [] Any := meets_part_any ..

/-- A state with one record of every kind, each at the end of its range of indices. -/
def rich : State :=
  withNeighbour (aNeighbour none) (withPool ((List.range 32).map fun i => aRecord (BitVec.ofNat 16 (i + 1)))
    (withClaims fullTable 8
      { base with
        claims := { base.claims with lastEnded := .replicate 12 (some ⟨5, .test, .stale, 9, 3⟩) }
        queue := { base.queue with
          entries := (List.range 32).map fun i => anEntry (BitVec.ofNat 24 (i + 1)) 7
          results := .replicate 4 (some ⟨7, .claim, .ok, 9⟩) }
        cues := .replicate 8 { resetCueLine with capture := some ⟨true, 9, 113⟩ }
        content := { base.content with
          outs := base.content.outs.map fun o => { o with
            stagedFreqs := some [880], freqs := [1]
            varR := { o.varR with staged := some ⟨[0x41], 31⟩, stagedText := some [] } } } }))

/-- The first and the last index of every kind, present and empty, and the indices past each range. -/
theorem witness_ReadRecordReturnsOneRecord :
    MeetsPart .readRecord [0, 7] (fun s => (ranked s.claims.table)[7]? = some (claimOf ⟨.cue 0, 0⟩ 1 0 .waiting)) ∧
    MeetsPart .readRecord [0, 0] (fun s => s.claims.table.length ≤ 0) ∧
    MeetsPart .readRecord [1, 11] (fun s => s.claims.lastEnded.get 11 = some ⟨5, .test, .stale, 9, 3⟩) ∧
    MeetsPart .readRecord [1, 0] (fun s => s.claims.lastEnded.get 0 = none) ∧
    MeetsPart .readRecord [2, 31] (fun s => s.pool.records[31]? = some (aRecord 32)) ∧
    MeetsPart .readRecord [2, 0] (fun s => s.pool.records.length ≤ 0) ∧
    MeetsPart .readRecord [3, 31] (fun s => s.queue.entries[31]? = some (anEntry 32 7)) ∧
    MeetsPart .readRecord [3, 0] (fun s => s.queue.entries.length ≤ 0) ∧
    MeetsPart .readRecord [4, 7] (fun s => (s.cue 7).capture = some ⟨true, 9, 113⟩) ∧
    MeetsPart .readRecord [4, 0] (fun s => (s.cue 0).capture = none) ∧
    MeetsPart .readRecord [5, 3] (fun s => (s.out 3).stagedFreqs = some [880]) ∧
    MeetsPart .readRecord [5, 0] (fun s => (s.out 0).stagedFreqs = none) ∧
    MeetsPart .readRecord [6, 7] (fun s => (s.out 3).varR.staged = some ⟨[0x41], 31⟩ ∧
      (s.out 3).varR.stagedText = some []) ∧
    MeetsPart .readRecord [6, 0] (fun s => (s.out 0).varN.staged = none ∧ (s.out 0).varN.stagedText = none) ∧
    MeetsPart .readRecord [7, 7] (fun s => s.content.neighbours.get 7 = some (aNeighbour none) ∧
      (aNeighbour none).label.length ≤ 8) ∧
    MeetsPart .readRecord [7, 0] (fun s => s.content.neighbours.get 0 = none) ∧
    MeetsPart .readRecord [8, 3] (fun s => s.queue.results.get 3 = some ⟨7, .claim, .ok, 9⟩) ∧
    MeetsPart .readRecord [8, 0] (fun s => s.queue.results.get 0 = none) :=
  ⟨meets_part rich (by decide +kernel) (by decide +kernel), meets_part base (by decide +kernel) (by decide +kernel),
    meets_part rich (by decide +kernel) (by decide +kernel), meets_part base (by decide +kernel) (by decide +kernel),
    meets_part rich (by decide +kernel) (by decide +kernel), meets_part base (by decide +kernel) (by decide +kernel),
    meets_part rich (by decide +kernel) (by decide +kernel), meets_part base (by decide +kernel) (by decide +kernel),
    meets_part rich (by decide +kernel) (by decide +kernel), meets_part base (by decide +kernel) (by decide +kernel),
    meets_part rich (by decide +kernel) (by decide +kernel), meets_part base (by decide +kernel) (by decide +kernel),
    meets_part rich (by decide +kernel) (by decide +kernel), meets_part base (by decide +kernel) (by decide +kernel),
    meets_part rich (by decide +kernel) (by decide +kernel), meets_part base (by decide +kernel) (by decide +kernel),
    meets_part rich (by decide +kernel) (by decide +kernel), meets_part base (by decide +kernel) (by decide +kernel)⟩

theorem witness_ReadRecord_refused :
    MeetsPart .readRecord [9, 0] Any ∧ MeetsPart .readRecord [2, 32] Any ∧ MeetsPart .readRecord [0, 8] Any ∧
    MeetsPart .readRecord [4, 8] Any ∧ MeetsPart .readRecord [6, 8] Any ∧ MeetsPart .readRecord [7, 8] Any ∧
    MeetsPart .readRecord [5, 4] Any ∧ MeetsPart .readRecord [8, 4] Any ∧ MeetsPart .readRecord [1, 12] Any :=
  ⟨meets_part_any .., meets_part_any .., meets_part_any .., meets_part_any .., meets_part_any .., meets_part_any ..,
    meets_part_any .., meets_part_any .., meets_part_any ..⟩

/-- Every group at the last of its indices, with and without the clear flag, and the groups and indices refused. -/
theorem witness_ReadCountersReadsAndClears :
    (∀ group : Fin 4, MeetsPart .readCounters [BitVec.ofNat 8 group.val, 3, 1] Any) ∧
    (∀ group : Fin 6, MeetsPart .readCounters [BitVec.ofNat 8 (4 + group.val), 0, 0] Any) ∧
    MeetsPart .readCounters [10, 0, 0] Any ∧ MeetsPart .readCounters [3, 4, 0] Any ∧
    MeetsPart .readCounters [4, 1, 0] Any ∧ MeetsPart .readCounters [9, 1, 0] Any :=
  ⟨fun _ => meets_part_any .., fun _ => meets_part_any .., meets_part_any .., meets_part_any .., meets_part_any ..,
    meets_part_any ..⟩

/-! ## Witnesses: refusals before the owner -/

/-- `Front` as one test. -/
def isFront (s : State) (l : LinkId) (c : Cmd) (body : List Byte) : Bool :=
  decide ((s.link l).waiting.head? = some body) && byteAt body 0 == c.code

theorem front_of {s : State} {l : LinkId} {c : Cmd} {body : List Byte} (h : isFront s l c body = true) :
    Front s l c body := by
  simp only [isFront, Bool.and_eq_true, decide_eq_true_eq, beq_iff_eq] at h
  exact ⟨h.1, h.2⟩

/-- Some frame of a command on link 0 has the property. -/
def MeetsFront (c : Cmd) (P : State → List Byte → Bool) : Prop :=
  ∃ s body, Front s 0 c body ∧ P s body = true

theorem meets_front (s : State) (body : List Byte) {c : Cmd} {P : State → List Byte → Bool}
    (h : (isFront (fed s body) 0 c body && P (fed s body) body) = true) : MeetsFront c P := by
  rw [Bool.and_eq_true] at h
  exact ⟨_, body, front_of h.1, h.2⟩

def directed (s : State) (body : List Byte) : Bool := directMatch s.settings (targetAddress body)

def routedAt (s : State) (body : List Byte) : Mask := routeMask s.settings (targetAddress body) (regionGroup body)

/-- The links hold no permission. -/
def barred (s : State) : State :=
  s.modSettings fun g => { g with links := g.links.map fun k => { k with perms := 0 } }

/-- Link 0 has no token left. -/
def spent (s : State) : State := s.modLink 0 fun k => { k with tokens := 0 }

/-- Route entry 15 is the first true one for the address 0xFFFE. -/
def withRoute (s : State) : State :=
  s.modSettings fun g =>
    { g with routes := g.routes.set 15 ⟨true, 8, .replicate 4 ⟨true, some 0, none, .and⟩⟩ }

theorem witness_RoutesAreTakenAndRefusedInOrder :
    MeetsFront .label (fun _ body => timedFlag body && decide (body.length < 9)) ∧
    MeetsFront .label (fun s body => !timedFlag body && routedAt s body == 0) ∧
    MeetsFront .label (fun s body => !timedFlag body && routedAt s body != 0 && !permitted s 0 Cmd.label.cls) ∧
    MeetsFront .label (fun s body => timedFlag body && decide (9 ≤ body.length) && routedAt s body != 0 &&
      permitted s 0 Cmd.label.cls && decide ((s.link 0).tokens = 0)) ∧
    (((withRoute base).settings.routes.get 15).enable = true ∧
      (((withRoute base).settings.routes.get 15).terms.get 3) = ⟨true, some 0, none, .and⟩ ∧
      ((withRoute base).settings.sites.get 0).enable = true ∧
      ((withRoute base).settings.sites.get 0).address = 0xFFFE ∧
      ∀ j : Fin 16, j < 15 → ((withRoute base).settings.routes.get j).enable = false) ∧
    (∀ i : Fin 16, (base.settings.routes.get i).enable = false) :=
  ⟨meets_front base [Cmd.label.code, 1, 0xFF, 0xFE, 0, 0, 0, 0] (by decide +kernel),
    meets_front State.reset (bodyOf .label []) (by decide +kernel),
    meets_front (barred base) (bodyOf .label []) (by decide +kernel),
    meets_front (spent base) (timedBody .label 5 []) (by decide +kernel), by decide +kernel, by decide +kernel⟩

theorem witness_PartCommandsAreRefusedBeforeTheOwner :
    (∃ s body, (s.link 0).waiting.head? = some body ∧ (cmdOf (byteAt body 0)).isNone ∧ directed s body = true) ∧
    (∃ s body, (s.link 0).waiting.head? = some body ∧ (cmdOf (byteAt body 0)).isNone ∧ directed s body = false) ∧
    MeetsFront .setSite (fun s body => !directed s body) ∧
    MeetsFront .setSite (fun s body => directed s body && timedFlag body && decide (body.length < 9)) ∧
    MeetsFront .setSite (fun s body => directed s body && !timedFlag body && !permitted s 0 Cmd.setSite.cls) ∧
    MeetsFront .setSite (fun s body => directed s body && timedFlag body && decide (9 ≤ body.length) &&
      permitted s 0 Cmd.setSite.cls) :=
  ⟨⟨fed base [0xFE, 0, 0xFF, 0xFE, 0], [0xFE, 0, 0xFF, 0xFE, 0], by decide +kernel⟩,
    ⟨fed base [0, 0, 0xFF, 0xFF, 0], [0, 0, 0xFF, 0xFF, 0], by decide +kernel⟩,
    meets_front base [Cmd.setSite.code, 0, 0, 0, 0] (by decide +kernel),
    meets_front base [Cmd.setSite.code, 1, 0xFF, 0xFE, 0, 0, 0, 0] (by decide +kernel),
    meets_front (barred base) (bodyOf .setSite []) (by decide +kernel),
    meets_front base (timedBody .setSite 5 []) (by decide +kernel)⟩

/-- One byte too few, and one too many. -/
theorem witness_WrongLengthsAreRefused :
    MeetsPart .setSite [0, 0, 0] Any ∧ MeetsPart .status [0] Any ∧ MeetsPart .setGroupset [0, 1, 5] Any ∧
    MeetsRouted .release [] Any ∧ MeetsRouted .label [0, 0, 2, 0x41] Any ∧ MeetsRouted .freqlist [] Any :=
  ⟨meets_part_any .., meets_part_any .., meets_part_any .., meets_routed_any .., meets_routed_any ..,
    meets_routed_any ..⟩

theorem witness_WrongLengthsAreRefused_timed :
    MeetsTimed .release [] ∧ MeetsTimed .release [5, 5] ∧ MeetsTimed .label [0, 0, 2, 0x41] ∧ MeetsTimed .text [0, 1] ∧
    MeetsTimed .freqlist [2, 0, 1] ∧ MeetsTimed .neighbour [0, 0, 1, 0, 0, 1, 0xFF, 1] ∧ MeetsTimed .optoutEnd [0] :=
  ⟨meets_timed .., meets_timed .., meets_timed .., meets_timed .., meets_timed .., meets_timed .., meets_timed ..⟩

/-! ## Witnesses: routed commands -/

theorem witness_VariantsAndListsAreStaged :
    MeetsRouted .label (0 :: 32 :: 19 :: List.replicate 19 0x19) Any ∧ MeetsRouted .label [1, 31, 1, 0x41] Any ∧
    MeetsRouted .label [0, 0, 0] Any ∧ MeetsRouted .label [2, 0, 1, 0x41] Any ∧
    MeetsRouted .text (0 :: 61 :: List.replicate 61 0x7F) Any ∧ MeetsRouted .text [1, 0] Any ∧
    MeetsRouted .text [2, 0] Any ∧ MeetsRouted .freqlist (6 :: [627, 0, 412, 627, 881, 530].flatMap (bytesOf 2)) Any ∧
    MeetsRouted .freqlist [0] Any :=
  ⟨meets_routed_any .., meets_routed_any .., meets_routed_any .., meets_routed_any .., meets_routed_any ..,
    meets_routed_any .., meets_routed_any .., meets_routed_any .., meets_routed_any ..⟩

theorem witness_NeighbourWritesTheRecord :
    MeetsRouted .neighbour [7, 0, 0, 0, 0, 0xF0, 0xFF, 0] Any ∧
    MeetsRouted .neighbour ([7, 0x22, 0x22, 3, 0x71, 1, 3, 9] ++ List.replicate 9 0x41) Any ∧
    MeetsRouted .neighbour [0, 0, 0, 0, 0, 1, 0xFF, 0] Any ∧ MeetsRouted .neighbour [8, 0, 1, 0, 0, 1, 0xFF, 0] Any ∧
    MeetsRouted .neighbour [0, 0, 1, 0, 0, 1, 4, 0] Any ∧ MeetsRouted .neighbour [0, 0, 1, 0, 0, 1, 0xFE, 0] Any ∧
    MeetsRouted .neighbourFlags [7, 7] (fun s => s.content.neighbours.get 7 = some (aNeighbour none)) ∧
    MeetsRouted .neighbourFlags [7, 7] (fun s =>
      (s.content.neighbours.get 7).all (fun r => r.link.isSome) = true ∧
        s.content.neighbours.get 7 = some (aNeighbour (some 0))) ∧
    MeetsRouted .neighbourFlags [0, 7] (fun s => s.content.neighbours.get 0 = none) ∧
    MeetsRouted .neighbourFlags [8, 7] Any :=
  ⟨meets_routed_any .., meets_routed_any .., meets_routed_any .., meets_routed_any .., meets_routed_any ..,
    meets_routed_any .., meets_routed (withNeighbour (aNeighbour none) base) (by decide +kernel) (by decide +kernel),
    meets_routed (withNeighbour (aNeighbour (some 0)) base) (by decide +kernel) (by decide +kernel),
    meets_routed base (by decide +kernel) (by decide +kernel), meets_routed_any ..⟩

/-- Every output has a regional identity. -/
def regional (s : State) : State :=
  s.modSettings fun g => { g with outputs := g.outputs.map fun o => { o with regId := 2 } }

theorem witness_OptoutAndSetIntervalAct :
    MeetsRouted .optoutBegin [] (fun s => ∀ p : OutId, inMask 3 p = true → (s.outCfg p).regId ≠ 0) ∧
    MeetsRouted .optoutBegin [] (fun s => ∃ p : OutId, inMask 3 p = true ∧ (s.outCfg p).regId = 0) ∧
    MeetsRouted .optoutEnd [] Any ∧ MeetsRouted .setInterval [5, 4, 0] Any ∧ MeetsRouted .setInterval [0, 0, 0] Any ∧
    MeetsRouted .setInterval [6, 0, 0] Any :=
  ⟨meets_routed (regional base) (by decide +kernel) (by decide +kernel),
    meets_routed base (by decide +kernel) (by decide +kernel), meets_routed_any .., meets_routed_any ..,
    meets_routed_any .., meets_routed_any ..⟩

theorem witness_ClaimEntersOrDisplaces :
    MeetsRouted .claim [5, 4, 7, 20, 1, 0x19, 0x41, 0, 0, 0] (fun s => (∀ d, d ∈ s.claims.table → d.key ≠ ⟨.link 0, 5⟩) ∧
      s.claims.table.length = 7 ∧ s.claims.nextStamp ≠ BitVec.allOnes 32) ∧
    MeetsRouted .claim [5, 1, 0, 20, 0, 0, 0, 0, 0, 0] (fun s => claimOf ⟨.link 0, 5⟩ 1 0 .current ∈ s.claims.table) ∧
    MeetsRouted .claim [5, 1, 1, 20, 0, 0, 0, 0, 0, 0] (fun s => (∀ d, d ∈ s.claims.table → d.key ≠ ⟨.link 0, 5⟩) ∧
      s.claims.table.length = 8 ∧ (∀ d, d ∈ s.claims.table → d.currentNowhere = true → 1 ≤ d.priority)) ∧
    MeetsRouted .claim [5, 1, 2, 20, 0, 0, 0, 0, 0, 0] (fun s => (∀ d, d ∈ s.claims.table → d.key ≠ ⟨.link 0, 5⟩) ∧
      s.claims.table.length = 8 ∧ s.claims.nextStamp ≠ BitVec.allOnes 32 ∧
      ∃ d, d ∈ s.claims.table ∧ d.currentNowhere = true ∧ d.priority < 2 ∧
        ∀ e, e ∈ s.claims.table → e.currentNowhere = true → e ≠ d → outranks e d = true ∧ outranks d e = false) ∧
    MeetsRouted .claim [5, 0, 0, 20, 0, 0, 0, 0, 0, 0] Any ∧ MeetsRouted .claim [5, 5, 0, 20, 0, 0, 0, 0, 0, 0] Any ∧
    MeetsRouted .claim [5, 1, 8, 20, 0, 0, 0, 0, 0, 0] Any ∧
    MeetsRouted .claim [5, 1, 7, 20, 0, 0, 0, 0, 0, 0] (fun s => (∀ d, d ∈ s.claims.table → d.key ≠ ⟨.link 0, 5⟩) ∧
      s.claims.table.length = 7 ∧ s.claims.nextStamp = BitVec.allOnes 32) ∧
    MeetsRouted .claim [5, 4, 2, 20, 0, 0, 0, 0, 0, 0] (fun s => (∀ d, d ∈ s.claims.table → d.key ≠ ⟨.link 0, 5⟩) ∧
      s.claims.table.length = 8 ∧ s.claims.nextStamp = BitVec.allOnes 32 ∧
      ∃ d, d ∈ s.claims.table ∧ d.currentNowhere = true ∧ d.priority < 2 ∧
        ∀ e, e ∈ s.claims.table → e.currentNowhere = true → e ≠ d → outranks e d = true ∧ outranks d e = false) :=
  ⟨meets_routed (withClaims (fullTable.take 7) 8 base) (by decide +kernel) (by decide +kernel),
    meets_routed (withClaims [claimOf ⟨.link 0, 5⟩ 1 0 .current] 1 base) (by decide +kernel) (by decide +kernel),
    meets_routed (withClaims fullTable 8 base) (by decide +kernel) (by decide +kernel),
    meets_routed (withClaims fullTable 8 base) (by decide +kernel)
      ⟨by decide +kernel, by decide +kernel, by decide +kernel, claimOf ⟨.cue 0, 0⟩ 1 0 .waiting, by decide +kernel⟩,
    meets_routed_any .., meets_routed_any .., meets_routed_any ..,
    meets_routed (withClaims (fullTable.take 7) (BitVec.allOnes 32) base) (by decide +kernel) (by decide +kernel),
    meets_routed (withClaims fullTable (BitVec.allOnes 32) base) (by decide +kernel)
      ⟨by decide +kernel, by decide +kernel, by decide +kernel, claimOf ⟨.cue 0, 0⟩ 1 0 .waiting, by decide +kernel⟩⟩

theorem witness_TmsgAddAndTmsgCancelActOnThePool :
    MeetsRouted .tmsgAdd [0, 0, 0, 0, 0, 0, 0, 5, 1, 0, 1] Any ∧ MeetsRouted .tmsgAdd [0, 1, 0, 0, 0, 0, 0, 5, 0, 0, 1] Any ∧
    MeetsRouted .tmsgAdd [0, 0x21, 0, 0, 0, 0, 0, 5, 9, 4, 0xB1] (fun s =>
      (∀ q, q ∈ s.pool.records → q.key ≠ 0x21) ∧ s.pool.records.length = 31) ∧
    MeetsRouted .tmsgAdd [0, 0x21, 0, 0, 0, 0, 0, 5, 8, 0, 0] (fun s =>
      (∀ q, q ∈ s.pool.records → q.key ≠ 0x21) ∧ 32 ≤ s.pool.records.length) ∧
    MeetsRouted .tmsgAdd [0, 0x20, 0, 0, 0, 0, 0, 5, 8, 4, 0xB0] (fun s =>
      (s.pool.records.findIdx fun q => q.key == 0x20) = 31 ∧ 31 < s.pool.records.length) ∧
    MeetsRouted .tmsgCancel [0, 0] Any ∧
    MeetsRouted .tmsgCancel [0, 0x21] (fun s => ∀ q, q ∈ s.pool.records → q.key ≠ 0x21) ∧
    MeetsRouted .tmsgCancel [0, 1] (fun s => (s.pool.records.findIdx fun q => q.key == 1) = 0 ∧
      0 < s.pool.records.length) :=
  ⟨meets_routed_any .., meets_routed_any ..,
    meets_routed (rich.modPool fun rs => rs.take 31) (by decide +kernel) (by decide +kernel),
    meets_routed rich (by decide +kernel) (by decide +kernel), meets_routed rich (by decide +kernel) (by decide +kernel),
    meets_routed_any .., meets_routed rich (by decide +kernel) (by decide +kernel),
    meets_routed rich (by decide +kernel) (by decide +kernel)⟩

/-! ## Witnesses: timed commands -/

/-- A timed RELEASE of claim 5 for a cell, in a state that emits cell 1000 and holds some entries. -/
def timedAt (cell : Nat) (es : List QueueEntry) : State :=
  fed ((base.setEntries es).modTb fun t => { t with count := 1000 }) (timedBody .release cell [5])

/-- The frame reaches its owner, passes its checks and lies at the distance. -/
def timedMeets (cell d n : Nat) (es : List QueueEntry) : Bool :=
  let s := timedAt cell es
  let body := timedBody .release cell [5]
  isRoutedTo s 0 .release body 3 && timedFlag body && Cmd.release.isRouted &&
    decide ((BitVec.ofNat 24 (natAt body 5 3) - s.tb.count).toNat = d) && decide (s.queue.entries.length = n) &&
    (match Cmd.release.ownerCheck (body.drop 9) with
      | .ok (x, adj) => x == .release 5 && !adj
      | .error _ => false)

theorem witness_TimedCommandsAreClassified :
    timedMeets 37001 36001 0 [] = true ∧ timedMeets 8389607 8388607 0 [] = true ∧
    timedMeets 1001 1 32 rich.queue.entries = true ∧ timedMeets 1001 1 31 (rich.queue.entries.take 31) = true ∧
    timedMeets 37000 36000 0 [] = true ∧ timedMeets 1000 0 0 [] = true ∧ timedMeets 8389608 8388608 0 [] = true :=
  ⟨by decide +kernel, by decide +kernel, by decide +kernel, by decide +kernel, by decide +kernel, by decide +kernel,
    by decide +kernel⟩

/-- One past each range, and 0 where it is refused. -/
theorem witness_TimedCommandsAreClassified_values :
    MeetsTimed .label [2, 0, 1, 0x41] ∧ MeetsTimed .label [0, 0, 0] ∧ MeetsTimed .text [2, 0] ∧
    MeetsTimed .neighbour [8, 0, 1, 0, 0, 1, 0xFF, 0] ∧ MeetsTimed .neighbour [0, 0, 1, 0, 0, 1, 4, 0] ∧
    MeetsTimed .neighbour [0, 0, 1, 0, 0, 1, 0xFE, 0] ∧ MeetsTimed .neighbour [0, 0, 0, 0, 0, 1, 0xFF, 0] ∧
    MeetsTimed .neighbourFlags [8, 7] ∧ MeetsTimed .setInterval [6, 0, 0] ∧
    MeetsTimed .claim [5, 0, 0, 20, 0, 0, 0, 0, 0, 0] ∧ MeetsTimed .claim [5, 5, 0, 20, 0, 0, 0, 0, 0, 0] ∧
    MeetsTimed .claim [5, 1, 8, 20, 0, 0, 0, 0, 0, 0] ∧ MeetsTimed .tmsgAdd [0, 0, 0, 0, 0, 0, 0, 5, 1, 0, 1] ∧
    MeetsTimed .tmsgAdd [0, 1, 0, 0, 0, 0, 0, 5, 0, 0, 1] ∧ MeetsTimed .tmsgCancel [0, 0] :=
  ⟨meets_timed .., meets_timed .., meets_timed .., meets_timed .., meets_timed .., meets_timed .., meets_timed ..,
    meets_timed .., meets_timed .., meets_timed .., meets_timed .., meets_timed .., meets_timed .., meets_timed ..,
    meets_timed ..⟩

theorem witness_EntryParametersReadBack :
    (TimedCmd.label .r ⟨[0x41], 31⟩).proper ∧ (TimedCmd.text .n []).proper ∧ (TimedCmd.freqlist [1, 880]).proper ∧
    (TimedCmd.neighbour 7 0 880 0 none []).proper ∧ (TimedCmd.setInterval .text 1023).proper ∧
    (TimedCmd.claim 5 .test 7 20 72000 72000).proper ∧ (TimedCmd.tmsgAdd 1 5 8 1200).proper ∧
    (TimedCmd.tmsgCancel 1).proper := by
  refine ⟨?_, ?_, ?_, ?_, ?_, ?_, ?_, ?_⟩ <;>
    simp only [TimedCmd.proper, Label.proper, properText, properFreqs, freqsInRange] <;> decide

theorem witness_EntriesAreQueuedAndApplied :
    [anEntry 5 7, anEntry 5 8, anEntry 6 7].Pairwise (fun a b => (a.cell - 4).toNat ≤ (b.cell - 4).toNat) := by
  decide

/-! ## Witnesses: the queue and the resets -/

theorem witness_FrontCommandRuns : ({ base with pending := [.cellBoundary, .pinReset] } : State).pending =
    .cellBoundary :: [.pinReset] := rfl

theorem witness_ResetsLoadSettingsAndContent :
    readImage (stored base).store.image = some (builtinSettings .r9600, builtinContent) ∧
    readImage base.store.image = none :=
  ⟨stored_readImage base, by decide +kernel⟩

/-- Settings that leave every link disabled. -/
def darkSettings : Settings :=
  { builtinSettings .r9600 with links := .replicate 4 { builtinLink .r9600 with enable := false } }

/-- Link 0 owes a GO, and the stored settings disable it. -/
def dark : State :=
  { base.modLink 0 fun k => { k with tx := none, holdOut := true } with
    store := { base.store with image := imageBytes darkSettings builtinContent } }

theorem dark_readImage : readImage dark.store.image = some (darkSettings, builtinContent) := by
  have h : (imageBody darkSettings builtinContent).length = 1748 := by decide +kernel
  have hs : readSettings (imageBody darkSettings builtinContent) = some darkSettings := by decide +kernel
  have hc : readContent (imageBody darkSettings builtinContent) = some builtinContent := by decide +kernel
  show readImage (imageBytes _ _) = _
  rw [readImage_imageBytes h, hs, hc]

theorem witness_ResetsLoadSettingsAndContent_retained :
    readImage (stored base).store.image = some (builtinSettings .r9600, builtinContent) ∧
    readImage base.store.image = none ∧
    readImage dark.store.image = some (darkSettings, builtinContent) ∧ (darkSettings.links.get 0).enable = false ∧
    (dark.link 0).tx = none ∧ (dark.link 0).ctrl = [] ∧ (dark.link 0).holdOut = true :=
  ⟨stored_readImage base, by decide +kernel, dark_readImage, rfl, by decide +kernel, by decide +kernel,
    by decide +kernel⟩

theorem witness_EveryResetClearsTheWorkingState :
    (∃ t, exec (.powerOn true false) rich = .next t) ∧ ∃ t, exec .pinReset rich = .next t :=
  ⟨⟨_, rfl⟩, ⟨_, rfl⟩⟩

/-! ## Witnesses: boundaries -/

/-- The state an outcome leaves. -/
def left (o : Host.Outcome State Fault Refusal) : State :=
  match o with
  | .next t => t
  | .fault _ => base
  | .refused _ => base

theorem next_left (c : Instr) (s : State) (h : ∃ t, exec c s = .next t) : exec c s = .next (left (exec c s)) := by
  obtain ⟨t, h⟩ := h
  rw [h]; rfl

def withTb (f : Timebase → Timebase) (s : State) : State := s.modTb f

/-- Every output on air-ready: enabled, announcing, with a regional identity, running; every group set is full. -/
def live : State :=
  { base.modSettings fun g => { g with
      outputs := g.outputs.map fun o => { o with enable := true, tc := true, regId := 2, lead := 1, trail := 1 }
      groupSets := .replicate 8 (BitVec.allOnes 256), defaultMask := 15 } with
    lanes := .replicate 4 { resetLane with run := true }
    tb := { base.tb with start := .running, count := 1022, bitPos := 113 } }

theorem witness_TheCountAdvances :
    ((live.modTb fun t => { t with markNext := some 1024 }).tb.markNext = some 1024 ∧ live.tb.count + 1 = 1023) ∧
    (live.modTb fun t => { t with markNext := some 1023 }).tb.markNext = some (live.tb.count + 1) ∧
    (live.tb.markNext = none ∧ live.tb.start ≠ .afterPowerOn ∧ live.tb.arm = none) ∧
    (base.tb.start = .afterPowerOn ∧ base.tb.markNext = none ∧ base.tb.arm = none) ∧
    (live.settings.mode = .master ∧ (live.modTb fun t => { t with arm := some 0 }).tb.arm = some 0 ∧
      (live.tb.count + 1).toNat % 1024 ≠ 0) ∧
    ((live.modTb fun t => { t with arm := some 1024, count := 1023 }).tb.arm = some (1023 + 1) ∧
      ((1023 : Count) + 1).toNat % 1024 = 0) ∧
    (base.settings.mode = .master ∧ base.tb.count.toNat % 1024 = 0) := by
  decide +kernel

/-- A boundary in each lock state. -/
theorem witness_TheLockStateAndTheRateFollowRef :
    (∃ t, exec .cellBoundary live = .next t ∧ t.tb.lock = .free) ∧
    (∃ s t, exec .cellBoundary s = .next t ∧ t.tb.lock = .locked ∧ 0 < s.tb.refPeriods ∧ 0 < s.tb.refTime) ∧
    (∃ t, exec .cellBoundary (live.modTb fun t => { t with lock := .holdover }) = .next t ∧ t.tb.lock = .holdover) :=
  ⟨⟨_, next_left _ _ ⟨_, rfl⟩, by decide +kernel⟩,
    ⟨live.modTb fun t => { t with lock := .locked, refPeriods := 950, refTime := 5 * 10 ^ 13 }, _,
      next_left _ _ ⟨_, rfl⟩, by decide +kernel⟩,
    ⟨_, next_left _ _ ⟨_, rfl⟩, by decide +kernel⟩⟩

def slave (s : State) : State := s.modSettings fun g => { g with mode := .slave }

/-- One cell short of each limit, a cell that does not qualify, and the modes and states in which nothing moves. -/
theorem witness_TheLockStateAndTheRateFollowRef_counts :
    (∃ s t, exec .cellBoundary s = .next t ∧ s.settings.mode = .slave ∧ s.tb.lock = .holdover ∧ s.tb.judged = true ∧
      s.tb.refBad = false ∧ 0 < s.tb.refPeriods ∧ s.tb.qual + 1 = 19 ∧ s.tb.holdover + 1 = 11999) ∧
    (∃ s t, exec .cellBoundary s = .next t ∧ s.settings.mode = .slave ∧ s.tb.lock = .free ∧ s.tb.judged = true ∧
      s.tb.refBad = true) ∧
    (∃ s t, exec .cellBoundary s = .next t ∧ s.settings.mode = .slave ∧ s.tb.lock = .free ∧ s.tb.judged = false) ∧
    (∃ t, exec .cellBoundary live = .next t ∧ live.settings.mode = .master) ∧
    ∃ s t, exec .cellBoundary s = .next t ∧ s.tb.lock = .locked :=
  ⟨⟨(slave live).modTb fun t => { t with judged := true, lock := .holdover, refPeriods := 1, qual := 18,
                                         holdover := 11998 }, _, rfl, by decide +kernel⟩,
    ⟨(slave live).modTb fun t => { t with judged := true, refBad := true }, _, rfl, by decide +kernel⟩,
    ⟨slave live, _, rfl, by decide +kernel⟩, ⟨_, rfl, by decide +kernel⟩,
    ⟨live.modTb fun t => { t with lock := .locked }, _, rfl, by decide +kernel⟩⟩

/-- Exactly these changes ask, computed. -/
def asking (s : State) (xs : List Change) : Bool :=
  decide (changes s = xs) && decide (s.claims.table.map Claim.key).Nodup

theorem asking_of {s : State} {xs : List Change} (h : asking s xs = true) : s.onlyAsk xs := by
  simp only [asking, Bool.and_eq_true, decide_eq_true_eq] at h
  exact State.onlyAsk_of_changes h.1 h.2

theorem none_asks {s : State} (h : changes s = []) : ∀ x, ¬ s.asks x := (changes_eq_nil s).1 h

/-- A boundary with an entry due and one for a later cell, one at which no other change meets, jumps at the ends of
the horizon, and a jump of the arm in MASTER that passes one entry over and meets another. -/
theorem witness_EntriesAreQueuedAndApplied_boundary :
    (∃ s t, exec .cellBoundary s = .next t ∧ (s.tb.start = .running ∧ s.tb.markNext = none ∧ s.tb.arm = none ∧
      (s.queue.entries.filter fun e => e.cell == s.tb.count + 1) = [anEntry 1023 7] ∧ s.queue.entries.length = 2) ∧
      ∀ x, ¬ s.asks x) ∧
    (∃ (s t : State) (v : Count), exec .cellBoundary s = .next t ∧ s.tb.start = .running ∧ s.tb.markNext = some v ∧
      v ≠ s.tb.count + 1 ∧ (v - (s.tb.count + 1)).toNat = 36000) ∧
    (∃ (s t : State) (v : Count), exec .cellBoundary s = .next t ∧ s.tb.start = .running ∧ s.tb.markNext = some v ∧
      v ≠ s.tb.count + 1 ∧ (v - (s.tb.count + 1)).toNat = 36001) ∧
    ∃ (s t : State) (v : Count), exec .cellBoundary s = .next t ∧ s.tb.start = .running ∧ s.tb.markNext = none ∧
      s.settings.mode = .master ∧ s.tb.arm = some v ∧ (s.tb.count + 1).toNat % 1024 = 0 ∧ v ≠ s.tb.count + 1 ∧
      (v - (s.tb.count + 1)).toNat ≤ 36000 ∧
      (s.queue.entries.filter fun e => decide ((e.cell - s.tb.count).toNat ≤ (v - (s.tb.count + 1)).toNat)) =
        [anEntry 1024 7] ∧ s.queue.entries.length = 3 :=
  ⟨⟨live.setEntries [anEntry 1023 7, anEntry 1024 8], _, rfl, by decide +kernel, none_asks (by decide +kernel)⟩,
    ⟨live.modTb fun t => { t with markNext := some 37023 }, _, 37023, rfl, by decide +kernel⟩,
    ⟨live.modTb fun t => { t with markNext := some 37024 }, _, 37024, rfl, by decide +kernel⟩,
    ⟨(live.setEntries [anEntry 1024 7, anEntry 2048 8, anEntry 3000 9]).modTb fun t => { t with
        count := 1023, arm := some 2048 }, _, 2048, rfl, by decide +kernel⟩⟩

/-- A timebase in SLAVE at the end of a judged cell that qualifies. -/
def judged (lock : LockState) (qual holdover : Nat) : State :=
  (slave live).modTb fun t => { t with
    lock := lock, judged := true, refPeriods := 1, qual := qual, holdover := holdover }

/-- The row's event at its limit in FREE and HOLDOVER, an expiry at a cell that qualifies, one that does not and one not
judged; and each thing that forestalls an event, one cell short of it. -/
theorem witness_TheLockStateAndTheRateFollowRef_rows :
    ((judged .free 19 0).settings.mode = .slave ∧ (judged .free 19 0).tb.judged = true ∧
      (judged .free 19 0).tb.refBad = false ∧ (judged .free 19 0).tb.lock ≠ .locked) ∧
    ((judged .holdover 18 11999).tb.qual + 1 < 20 ∧ (judged .holdover 18 11999).tb.lock = .holdover) ∧
    (∃ s : State, s.settings.mode = .slave ∧ s.tb.lock = .holdover ∧ s.tb.judged = true ∧ s.tb.refBad = true ∧
      11999 ≤ s.tb.holdover) ∧
    (∃ s : State, s.settings.mode = .slave ∧ s.tb.lock = .holdover ∧ s.tb.judged = false ∧ s.tb.qual < 20 ∧
      11999 ≤ s.tb.holdover) ∧
    (live.settings.mode = .master ∧ (judged .locked 19 11999).tb.lock = .locked ∧
      (judged .free 18 0).tb.qual + 1 = 19 ∧ (judged .holdover 0 11998).tb.holdover = 11998 ∧
      (judged .holdover 19 11999).tb.qual + 1 = 20) :=
  ⟨by decide +kernel, by decide +kernel,
    ⟨(judged .holdover 0 11999).modTb fun t => { t with refBad := true }, by decide +kernel⟩,
    ⟨(judged .holdover 19 11999).modTb fun t => { t with judged := false }, by decide +kernel⟩, by decide +kernel⟩

/-- Every output is about to be OFF. -/
def disabled (s : State) : State :=
  s.modSettings fun g => { g with outputs := g.outputs.map fun o => { o with enable := false } }

/-- The monitor selects an output. -/
def watching (p : OutId) (s : State) : State := s.modSettings fun g => { g with monitor := some p }

theorem witness_RunStateAndSourceFollowTheSettings :
    ((base.lane 0).pinsFollow ∧ (base.outCfg 0).enable = false) ∧
    ((live.lane 3).pinsFollow ∧ (live.outCfg 3).enable = true) ∧
    live.queue.entries = [] ∧
    (∃ s : State, (s.lane 3).run = false ∧ (s.outCfg 3).enable = true) := by
  refine ⟨⟨?_, by decide +kernel⟩, ⟨?_, by decide +kernel⟩, rfl,
    live.modLane 3 fun ln => { ln with run := false }, by decide +kernel⟩
  · unfold Lane.pinsFollow
    decide +kernel
  · unfold Lane.pinsFollow
    decide +kernel

/-- An output that leaves RUN out of an announcement and in QUIET, one that is OFF, and the monitor's selections. -/
theorem witness_RunStateAndSourceFollowTheSettings_leaving :
    (∃ s t, exec .cellBoundary s = .next t ∧ (s.lane 3).run = true ∧ (s.outCfg 3).enable = false ∧
      (s.lane 3).seq.phase = .onAir) ∧
    (∃ s t, exec .cellBoundary s = .next t ∧ (s.lane 3).run = true ∧ (s.outCfg 3).enable = false ∧
      (s.lane 3).seq.phase = .quiet) ∧
    (∃ s t, exec .cellBoundary s = .next t ∧ (s.lane 3).run = false ∧ (s.outCfg 3).enable = false) ∧
    (∃ t, exec .cellBoundary (watching 3 live) = .next t ∧ (t.lane 3).run = true) ∧
    (∃ t, exec .cellBoundary (watching 3 base) = .next t ∧ (t.lane 3).run = false) ∧
    ∃ s t, exec .cellBoundary s = .next t ∧ s.settings.monitor = none :=
  ⟨⟨(disabled live).modLane 3 fun ln => { ln with seq := { ln.seq with phase := .onAir } }, _, rfl, by decide +kernel⟩,
    ⟨disabled live, _, rfl, by decide +kernel⟩, ⟨base, _, rfl, by decide +kernel⟩,
    ⟨_, next_left _ _ ⟨_, rfl⟩, by decide +kernel⟩, ⟨_, next_left _ _ ⟨_, rfl⟩, by decide +kernel⟩,
    ⟨base, _, rfl, by decide +kernel⟩⟩

theorem witness_StagedContentCommits :
    (∃ o : OutContent, o.labelPos ≠ 0) ∧
    (∃ o : OutContent, o.labelPos = 0 ∧ 1 ≤ o.shownLabel.chars.length ∧ o.shownLabel.chars.length ≤ 18 ∧
      o.labelPos < o.labelTotal ∧ o.labelPos + 1 < o.labelTotal) ∧
    (∃ o : OutContent, o.shownLabel.chars.length = 18 ∧ o.labelPos < o.labelTotal ∧ o.labelPos + 1 = o.labelTotal) ∧
    (∃ s : State, s.queue.entries = [] ∧ (s.lane 0).run = true ∧ (s.outCfg 0).enable = true ∧
      (s.out 0).textPos = 0 ∧ (s.out 0).varN.stagedText ≠ none ∧ (s.out 0).stagedFreqs = some [880] ∧
      (s.out 0).freqPos = 0) ∧
    (∃ s : State, s.queue.entries = [] ∧ (s.lane 0).run = true ∧ (s.outCfg 0).enable = true ∧
      (s.out 0).textPos ≠ 0 ∧ (s.out 0).stagedFreqs = some [880] ∧ (s.out 0).freqPos ≠ 0) ∧
    (∃ s : State, s.queue.entries = [] ∧ (s.lane 0).run = true ∧ (s.outCfg 0).enable = true ∧
      (s.out 0).textPos = 0 ∧ (s.out 0).requested = .regional ∧ (s.outCfg 0).regId ≠ 0 ∧ (s.out 0).textShown ≠ .r) :=
  ⟨⟨{ live.out 0 with labelPos := 1 }, by decide +kernel⟩, ⟨live.out 0, by decide +kernel⟩,
    ⟨{ live.out 0 with labelPos := 2, varN := { (live.out 0).varN with label := ⟨List.replicate 18 0x41, 0⟩ } },
      by decide +kernel⟩,
    ⟨live.modOut 0 fun o => { o with stagedFreqs := some [880], varN := { o.varN with stagedText := some [] } },
      by decide +kernel⟩,
    ⟨live.modOut 0 fun o => { o with stagedFreqs := some [880], textPos := 1, freqPos := 1 }, by decide +kernel⟩,
    ⟨live.modOut 0 fun o => { o with requested := .regional }, by decide +kernel⟩⟩

/-! ## Witnesses: announcements -/

theorem plain_of {s : State} (h : (decide (s.tb.start = .running) && decide (s.tb.markNext = none) &&
    decide (s.tb.arm = none) && decide (s.queue.entries = []) && decide (changes s = [])) = true) : PlainBoundary s := by
  simp only [Bool.and_eq_true, decide_eq_true_eq] at h
  exact ⟨h.1.1.1.1, h.1.1.1.2, fun _ => h.1.1.2, h.1.2, none_asks h.2⟩

/-- Output 0 in a phase, one claim on it. -/
def announcing (phase : Phase) (lead trail : Nat) (cs : List Claim) : State :=
  (withClaims cs 1 live).modLane 0 fun ln => { ln with seq := { ln.seq with phase := phase, lead := lead, trail := trail } }

theorem witness_LeadAndTrailEnd :
    (∃ s c, PlainBoundary s ∧ (s.lane 0).run = true ∧ (s.outCfg 0).enable = true ∧ (s.outCfg 0).tc = true ∧
      (s.lane 0).seq.phase = .onset ∧ (s.lane 0).seq.lead = 1 ∧ choice (updateSources s) 0 = some c) ∧
    (∃ s, PlainBoundary s ∧ (s.lane 0).run = true ∧ (s.outCfg 0).enable = true ∧ (s.outCfg 0).tc = true ∧
      (s.lane 0).seq.phase = .trail ∧ (s.lane 0).seq.trail = 1 ∧ (s.lane 0).seq.current = none ∧
      choice (updateSources s) 0 = none) :=
  ⟨⟨announcing .onset 1 0 [claimOf ⟨.link 0, 5⟩ 1 0 .current], claimOf ⟨.link 0, 5⟩ 1 0 .current,
      plain_of (by decide +kernel), by decide +kernel⟩,
    ⟨announcing .trail 0 1 [], plain_of (by decide +kernel), by decide +kernel⟩⟩

/-- The last cell of lead with no claim chosen, and the last of trail with one (log 45). -/
theorem witness_LeadAndTrailEnd_otherwise :
    (∃ s, PlainBoundary s ∧ (s.lane 0).run = true ∧ (s.outCfg 0).enable = true ∧ (s.outCfg 0).tc = true ∧
      (s.lane 0).seq.phase = .onset ∧ (s.lane 0).seq.lead = 1 ∧ choice (updateSources s) 0 = none) ∧
    (∃ s c, PlainBoundary s ∧ (s.lane 0).run = true ∧ (s.outCfg 0).enable = true ∧ (s.outCfg 0).tc = true ∧
      (s.lane 0).seq.phase = .trail ∧ (s.lane 0).seq.trail = 1 ∧ choice (updateSources s) 0 = some c) :=
  ⟨⟨announcing .onset 1 0 [], plain_of (by decide +kernel), by decide +kernel⟩,
    ⟨announcing .trail 0 1 [claimOf ⟨.link 0, 5⟩ 1 0 .waiting], claimOf ⟨.link 0, 5⟩ 1 0 .waiting,
      plain_of (by decide +kernel), by decide +kernel⟩⟩

theorem witness_TheSequencerFollowsItsClaim :
    (∃ s c, choice s 0 = some c) ∧ (∃ s, choice s 0 = none) ∧
    (∃ (cfg : OutSettings) (q : Sequencer), cfg.tc = true ∧ q.phase = .quiet ∧ q.current = none ∧ cfg.lead = 0) ∧
    (∃ (cfg : OutSettings) (q : Sequencer), cfg.tc = true ∧ q.phase = .onset ∧ cfg.lead ≠ 0) ∧
    (∃ (cfg : OutSettings) (q : Sequencer), cfg.tc = true ∧ q.phase = .trail ∧ q.current = none) ∧
    (∃ (cfg : OutSettings) (q : Sequencer), cfg.tc = true ∧ q.phase = .onAir) ∧ ∃ cfg : OutSettings, cfg.tc = false :=
  ⟨⟨announcing .quiet 0 0 [claimOf ⟨.link 0, 5⟩ 1 0 .waiting], claimOf ⟨.link 0, 5⟩ 1 0 .waiting, by decide +kernel⟩,
    ⟨live, by decide +kernel⟩,
    ⟨{ builtinOutput with tc := true, lead := 0 }, resetSequencer, by decide⟩,
    ⟨{ builtinOutput with tc := true }, { resetSequencer with phase := .onset, lead := 1 }, by decide⟩,
    ⟨{ builtinOutput with tc := true }, { resetSequencer with phase := .trail, trail := 1 }, by decide⟩,
    ⟨{ builtinOutput with tc := true }, { resetSequencer with phase := .onAir }, by decide⟩, ⟨builtinOutput, rfl⟩⟩

/-- One claim has used some hold and wait cells. -/
def used (kind : ClaimKind) (hold wait : Counter) : State :=
  withClaims [{ claimOf ⟨.cue 7, 0⟩ 1 0 .waiting with kind := kind, holdUsed := hold, waitUsed := wait }] 1 live

/-- A claim in the table at a plain boundary, and outputs that end ON_AIR and in TRAIL. -/
theorem witness_ClaimStatusesAndTimesAdvance :
    (∃ s t, PlainBoundary s ∧ exec .cellBoundary s = .next t ∧ (t.lane 0).seq.phase = .onAir ∧
      (t.lane 0).seq.current = some ⟨⟨.link 0, 5⟩, 0⟩ ∧ s.claims.table ≠ [] ∧ (s.outCfg 0).enable = true ∧
      (s.lane 0).seq.phase = .onset) ∧
    ∃ s t, PlainBoundary s ∧ exec .cellBoundary s = .next t ∧ (t.lane 0).seq.phase = .trail ∧
      (s.lane 0).seq.phase = .trail ∧ (s.lane 0).seq.current = none :=
  ⟨⟨announcing .onset 1 0 [claimOf ⟨.link 0, 5⟩ 1 0 .current], _, plain_of (by decide +kernel),
      next_left _ _ ⟨_, rfl⟩, by decide +kernel⟩,
    ⟨announcing .trail 0 2 [], _, plain_of (by decide +kernel), next_left _ _ ⟨_, rfl⟩, by decide +kernel⟩⟩

theorem witness_ClaimsEndAtTheirLimits :
    (∃ s k c, s = used .pulseCue 100 0 ∧ s.onlyAsk [.expiry k] ∧ s.tb.start = .running ∧ s.tb.markNext = none ∧
      s.tb.arm = none ∧ s.queue.entries = [] ∧ claimHeld s k = some c ∧ c.holdLimit ≠ 0 ∧
      c.holdLimit ≤ c.holdUsed.toNat) ∧
    (∃ s k c, s = used .levelCue 99 100 ∧ s.onlyAsk [.expiry k] ∧ s.tb.start = .running ∧ s.tb.markNext = none ∧
      s.tb.arm = none ∧ s.queue.entries = [] ∧ claimHeld s k = some c ∧ c.holdUsed.toNat < c.holdLimit ∧
      c.waitLimit ≠ 0 ∧ c.waitLimit ≤ c.waitUsed.toNat) :=
  ⟨⟨_, ⟨.cue 7, 0⟩, { claimOf ⟨.cue 7, 0⟩ 1 0 .waiting with kind := .pulseCue, holdUsed := 100, waitUsed := 0 }, rfl,
      asking_of (by decide +kernel), by decide +kernel⟩,
    ⟨_, ⟨.cue 7, 0⟩, { claimOf ⟨.cue 7, 0⟩ 1 0 .waiting with kind := .levelCue, holdUsed := 99, waitUsed := 100 }, rfl,
      asking_of (by decide +kernel), by decide +kernel⟩⟩

/-! ## Witnesses: scheduler, pool, tokens -/

theorem witness_TheMostUrgentServiceIsSent :
    0 < ((live.modLane 0 fun ln => { ln with seq := { ln.seq with burst := 1 } }).lane 0).seq.burst ∧
    (((live.modLane 0 fun ln => { ln with sched := { ln.sched with nbRunning := some ⟨7, true⟩ } }).lane 0).seq.burst = 0 ∧
      ((live.modLane 0 fun ln =>
        { ln with sched := { ln.sched with nbRunning := some ⟨7, true⟩ } }).lane 0).sched.nbRunning = some ⟨7, true⟩) ∧
    ((live.lane 0).seq.burst = 0 ∧ (live.lane 0).sched.nbRunning = none ∧ candidate live 0 .label = true ∧
      ∀ w ∈ services, candidate live 0 w = true → urgencyOf live 0 w < urgencyOf live 0 .label ∨
        (urgencyOf live 0 w = urgencyOf live 0 .label ∧ Service.label.index.val ≤ w.index.val)) ∧
    (∃ s, ∀ sv ∈ services, candidate s 0 sv = false) :=
  ⟨by decide +kernel, by decide +kernel, by decide +kernel,
    ⟨live.modSettings fun g => { g with outputs := g.outputs.map fun o => { o with intervals := .replicate 6 0 } },
      by decide +kernel⟩⟩

/-- Output 0 sends from one service alone. -/
def only (sv : Service) (s : State) : State :=
  s.modSettings fun g => { g with
    outputs := g.outputs.map fun o => { o with intervals := (Table.replicate 6 0).set sv.index 1 } }

/-- Neighbour record 7 is carried by every output, and output 0 has a burst pending or running. -/
def bursting (burst : Nat) (pending : Option SlotId) (running : Option NbBurst) : State :=
  (withNeighbour (aNeighbour (some 1)) (only .neighbour live)).modLane 0 fun ln =>
    { ln with seq := { ln.seq with burst := burst }
              sched := { ln.sched with nbPending := pending, nbRunning := running } }

/-- The kind of the cell output 0 begins at the next boundary. -/
def nextKind (s : State) : Nat :=
  match ((left (exec .cellBoundary s)).lane 0).asm.cell with
  | none => 7
  | some c => c.control.toNat / 16

/-- A boundary that output 0 goes through with a cell of this kind. -/
def Emits (kind : Nat) (P : State → Prop) : Prop :=
  ∃ s t cell, exec .cellBoundary s = .next t ∧ (s.lane 0).run = true ∧ (s.outCfg 0).enable = true ∧
    (t.lane 0).asm.cell = some cell ∧ cell.control.toNat / 16 = kind ∧ P s

theorem emits (s : State) {kind : Nat} {P : State → Prop} (hk : kind < 7)
    (h : ((s.lane 0).run && (s.outCfg 0).enable && decide (nextKind s = kind)) = true) (hp : P s) : Emits kind P := by
  simp only [Bool.and_eq_true, decide_eq_true_eq] at h
  obtain ⟨⟨h1, h2⟩, h3⟩ := h
  unfold nextKind at h3
  split at h3
  · omega
  · rename_i c hc
    exact ⟨s, _, c, next_left _ _ ⟨_, rfl⟩, h1, h2, hc, h3, hp⟩

/-- With an announce burst and without, a pending burst over one running, one alone, one on a slot that is not carried,
segments 0 and 1 of a running one, and the cycle at the next slot in both segments and past it. -/
theorem witness_NeighbourBurstsAndCycleRun :
    (∃ s r, s = bursting 0 none none ∧ s.content.neighbours.get 7 = some r ∧ r.carriers.getLsbD 3 = true ∧
      r.link ≠ some 3 ∧ s.tb.start = .running ∧ s.content.prevAn.get 7 = none) ∧
    (∃ s r, s = base ∧ (withNeighbour (aNeighbour none) s).content.neighbours.get 7 = some r ∧ r.link = none ∧
      s.tb.start ≠ .running) ∧
    Emits 6 (fun s => (s.lane 0).sched.nbPending = some 7 ∧ (s.lane 0).sched.nbRunning = some ⟨6, true⟩) ∧
    Emits 5 (fun s => (s.lane 0).sched.nbPending = some 7 ∧ (s.lane 0).sched.nbRunning = none) ∧
    Emits 5 (fun s => (s.lane 0).sched.nbPending = some 6 ∧ s.content.neighbours.get 6 = none) ∧
    Emits 5 (fun s => (s.lane 0).sched.nbPending = none ∧ (s.lane 0).sched.nbRunning = some ⟨7, true⟩) ∧
    Emits 5 (fun s => (s.lane 0).sched.nbPending = none ∧ (s.lane 0).sched.nbRunning = some ⟨7, false⟩) ∧
    Emits 5 (fun s => (s.lane 0).sched.nbPending = none ∧ (s.lane 0).sched.nbRunning = some ⟨6, true⟩ ∧
      s.content.neighbours.get 6 = none) ∧
    Emits 5 (fun s => (s.lane 0).sched.nbPending = none ∧ (s.lane 0).sched.nbRunning = none ∧
      (s.out 0).nbSlot = 7 ∧ (s.out 0).nbSeg = true) ∧
    Emits 5 (fun s => (s.lane 0).sched.nbPending = none ∧ (s.lane 0).sched.nbRunning = none ∧
      (s.out 0).nbSlot = 0 ∧ (s.out 0).nbSeg = true) :=
  ⟨⟨_, aNeighbour (some 1), rfl, by decide +kernel⟩, ⟨_, aNeighbour none, rfl, by decide +kernel⟩,
    emits (bursting 1 (some 7) (some ⟨6, true⟩)) (by decide) (by decide +kernel) (by decide +kernel),
    emits (bursting 0 (some 7) none) (by decide) (by decide +kernel) (by decide +kernel),
    emits (bursting 0 (some 6) none) (by decide) (by decide +kernel) (by decide +kernel),
    emits (bursting 0 none (some ⟨7, true⟩)) (by decide) (by decide +kernel) (by decide +kernel),
    emits (bursting 0 none (some ⟨7, false⟩)) (by decide) (by decide +kernel) (by decide +kernel),
    emits (bursting 0 none (some ⟨6, true⟩)) (by decide) (by decide +kernel) (by decide +kernel),
    emits ((bursting 0 none none).modOut 0 fun o => { o with nbSlot := 7, nbSeg := true }) (by decide)
      (by decide +kernel) (by decide +kernel),
    emits ((bursting 0 none none).modOut 0 fun o => { o with nbSlot := 0, nbSeg := true }) (by decide)
      (by decide +kernel) (by decide +kernel)⟩

/-- LABEL cells at segment 0, with and without a staged label, and at a later one; TEXT and FREQ cells at position 0
that commit and at the last position; and a cell of another kind, nothing pending. -/
theorem witness_StagedContentCommits_boundary :
    Emits 1 (fun s => s.queue.entries = [] ∧ (s.out 0).labelPos = 0 ∧ (s.out 0).varN.staged ≠ none) ∧
    Emits 1 (fun s => s.queue.entries = [] ∧ (s.out 0).labelPos = 0 ∧ (s.out 0).varN.staged = none) ∧
    Emits 1 (fun s => s.queue.entries = [] ∧ (s.out 0).labelPos = 1) ∧
    Emits 3 (fun s => s.queue.entries = [] ∧ (s.out 0).textPos = 0 ∧ (s.out 0).varN.stagedText ≠ none) ∧
    Emits 3 (fun s => s.queue.entries = [] ∧ (s.out 0).textPos = 1 ∧ (s.out 0).varN.text.length = 7) ∧
    Emits 2 (fun s => s.queue.entries = [] ∧ (s.out 0).freqPos = 0 ∧ (s.out 0).stagedFreqs ≠ none) ∧
    Emits 2 (fun s => s.queue.entries = [] ∧ (s.out 0).freqPos = 1 ∧ (s.out 0).freqs.length = 5) ∧
    Emits 5 (fun s => s.queue.entries = [] ∧ (s.out 0).labelPos = 0 ∧ (s.out 0).textPos = 0 ∧
      (s.out 0).varN.stagedText = none ∧ (s.out 0).stagedFreqs = none) :=
  ⟨emits ((only .label live).modOut 0 fun o => { o with varN := { o.varN with staged := some ⟨[0x41], 31⟩ } })
      (by decide) (by decide +kernel) (by decide +kernel),
    emits (only .label live) (by decide) (by decide +kernel) (by decide +kernel),
    emits ((only .label live).modOut 0 fun o => { o with labelPos := 1 }) (by decide) (by decide +kernel)
      (by decide +kernel),
    emits ((only .text live).modOut 0 fun o => { o with varN := { o.varN with stagedText := some [0x41] } })
      (by decide) (by decide +kernel) (by decide +kernel),
    emits ((only .text live).modOut 0 fun o =>
      { o with textPos := 1, varN := { o.varN with text := List.replicate 7 0x41 } }) (by decide) (by decide +kernel)
      (by decide +kernel),
    emits ((only .freq live).modOut 0 fun o => { o with stagedFreqs := some [880] }) (by decide) (by decide +kernel)
      (by decide +kernel),
    emits ((only .freq live).modOut 0 fun o => { o with freqPos := 1, freqs := [1, 2, 3, 4, 880] }) (by decide)
      (by decide +kernel) (by decide +kernel),
    emits (bursting 0 none none) (by decide) (by decide +kernel) (by decide +kernel)⟩

/-- A boundary at which no change of the claim table meets. -/
def calm (s : State) : Prop := s.queue.entries = [] ∧ ∀ x, ¬ s.asks x

theorem calm_of {s : State} (h : (decide (s.queue.entries = []) && decide (changes s = [])) = true) : calm s := by
  simp only [Bool.and_eq_true, decide_eq_true_eq] at h
  exact ⟨h.1, none_asks h.2⟩

/-- The pool holds one record for every output, and output 0 sends nothing but messages. -/
def messaging : State := withPool [aRecord 1] (only .tmsg live)

/-- The last cell of an announce burst, a neighbour burst, a contest between services of equal urgency, a contest that
nobody enters, and a message. -/
theorem witness_TheMostUrgentServiceIsSent_boundary :
    Emits 6 (fun s => calm s ∧ (s.lane 0).seq.burst = 1) ∧
    Emits 5 (fun s => calm s ∧ (s.lane 0).seq.burst = 0 ∧ (s.lane 0).sched.nbPending = some 7) ∧
    Emits 1 (fun s => calm s ∧ (s.lane 0).seq.burst = 0 ∧ (s.lane 0).sched.ages.get 2 = 1023) ∧
    Emits 0 (fun s => calm s ∧ ∀ p, (s.outCfg p).intervals.get Service.label.index = 0) ∧
    Emits 4 (fun s => calm s ∧ s.pool.records = [aRecord 1]) :=
  ⟨emits (bursting 1 none none) (by decide) (by decide +kernel) (⟨calm_of (by decide +kernel), by decide +kernel⟩),
    emits (bursting 0 (some 7) none) (by decide) (by decide +kernel) (⟨calm_of (by decide +kernel), by decide +kernel⟩),
    emits (live.modLane 0 fun ln => { ln with sched := { ln.sched with ages := .replicate 6 1023 } }) (by decide)
      (by decide +kernel) (⟨calm_of (by decide +kernel), by decide +kernel⟩),
    emits (only .freq live) (by decide) (by decide +kernel) (⟨calm_of (by decide +kernel), by decide +kernel⟩),
    emits messaging (by decide) (by decide +kernel) (⟨calm_of (by decide +kernel), by decide +kernel⟩)⟩

/-- Outputs 0 and 3 send a message, output 3 as the last to do so. -/
theorem witness_PoolRecordsAreDueHeldAndSent_boundary :
    ∃ s t, exec .cellBoundary s = .next t ∧ s.queue.entries = [] ∧ t.cellKind 0 = some 4 ∧ t.cellKind 3 = some 4 ∧
      s.poolAt t 0 ≠ [] :=
  ⟨messaging, _, next_left _ _ ⟨_, rfl⟩, by decide +kernel⟩

theorem witness_LinksGainTokensAtBoundaries :
    (∃ s : State, (s.linkCfg 3).interval ≤ (s.link 3).tokenCount + 1 ∧ (s.link 3).tokens = 32) ∧
    (∃ s : State, (s.linkCfg 3).interval ≤ (s.link 3).tokenCount + 1 ∧ (s.link 3).tokens < 32) ∧
    ∃ s : State, (s.link 3).tokenCount + 1 < (s.linkCfg 3).interval :=
  ⟨⟨base.modLink 3 fun k => { k with tokenCount := 1 }, by decide +kernel⟩,
    ⟨base.modLink 3 fun k => { k with tokenCount := 1, tokens := 0 }, by decide +kernel⟩, ⟨base, by decide +kernel⟩⟩

/-! ## Witnesses: REF and EPOCH -/

theorem witness_RefAndEpochAreTakenByMode :
    base.settings.mode = .master ∧ (slave base).tb.start ≠ .running ∧
    ((slave live).settings.mode = .slave ∧ (slave live).tb.start = .running ∧ (slave live).tb.refWatch = .noEdge) ∧
    (∃ s : State, s.settings.mode = .slave ∧ s.tb.start = .running ∧ s.tb.refWatch = .edgeSeen ∧ s.tb.lock = .locked) ∧
    (∃ s : State, s.settings.mode = .slave ∧ s.tb.start = .running ∧ s.tb.refWatch = .gapSeen ∧ s.tb.lock ≠ .locked) ∧
    (10 ^ 15 ≤ 19038 * 52526525896 ∧ 18962 * 52737053053 ≤ 10 ^ 15) ∧
    (19038 * 52526525895 < 10 ^ 15 ∧ 10 ^ 15 < 18962 * 52737053054) :=
  ⟨by decide +kernel, by decide +kernel, by decide +kernel,
    ⟨(slave live).modTb fun t => { t with refWatch := .edgeSeen, lock := .locked }, by decide +kernel⟩,
    ⟨(slave live).modTb fun t => { t with refWatch := .gapSeen }, by decide +kernel⟩, by decide, by decide⟩

/-- A timebase in SLAVE at a bit position. -/
def strobed (bit : Nat) (count : Count) (mark : Bool) (next arm : Option Count) : State :=
  (slave live).modTb fun t => { t with bitPos := bit, count := count, markThis := mark, markNext := next, arm := arm }

def strobable (s : State) : Bool := decide (s.settings.mode = .slave) && decide (s.tb.start = .running)

theorem witness_StrobesAreMeasured :
    (strobable (strobed 0 1024 true none none) ∧ (strobed 0 1024 true none none).tb.markThis = true) ∧
    (strobable (strobed 0 1024 false none none) ∧ Timebase.nearestEpoch 1024 = 1024) ∧
    (strobable (strobed 0 1023 false none (some 2048)) ∧ (2048 : Count) ≠ 1023) ∧
    (strobable (strobed 0 1024 false none (some 2048)) ∧ (2048 : Count) ≠ 1024) ∧
    (strobable (strobed 0 1100 false none none) ∧ 36000 < (Timebase.nearestEpoch 1100 - 1100 : Count).toNat) ∧
    (strobable (strobed 0 1000 false none none) ∧ (Timebase.nearestEpoch 1000 - 1000 : Count).toNat ≤ 36000) ∧
    (strobable (strobed 113 1023 false (some 1024) none) ∧ (strobed 113 1023 false (some 1024) none).tb.markNext ≠ none) ∧
    (strobable (strobed 113 1023 false none none) ∧ (strobed 113 1023 false none none).tb.markNext = none) := by
  decide +kernel

/-- Jumps in the first bit period that pass one entry over, and that discard them. -/
theorem witness_StrobesAreMeasured_entries :
    (∃ s : State, strobable s ∧ s.tb.bitPos = 0 ∧ s.tb.markThis = false ∧ s.tb.arm = some 2048 ∧ s.tb.count = 1000 ∧
      (s.queue.entries.filter fun e => decide ((e.cell - s.tb.count).toNat ≤ 1048)) = [anEntry 2048 7] ∧
      s.queue.entries.length = 2) ∧
    ∃ s : State, strobable s ∧ s.tb.bitPos = 0 ∧ s.tb.markThis = false ∧ s.tb.arm = none ∧ s.tb.count = 1100 ∧
      s.queue.entries ≠ [] :=
  ⟨⟨(strobed 0 1000 false none (some 2048)).setEntries [anEntry 2048 7, anEntry 3000 8], by decide +kernel⟩,
    ⟨(strobed 0 1100 false none none).setEntries [anEntry 2048 7], by decide +kernel⟩⟩

theorem witness_StrobesCutCells :
    (strobable (strobed 1 1023 false none none) ∧ (strobed 1 1023 false none none).tb.bitPos = 1) ∧
    (strobable (strobed 112 5 false none (some 4096)) ∧ (strobed 112 5 false none (some 4096)).tb.bitPos = 112) := by
  decide +kernel

/-! ## Witnesses: cue lines -/

/-- Line 7 in a mode with debounce 1, at an accepted level. -/
def lined (mode : CueMode) (active : Bool) (target : Mask) (cs : List Claim) : State :=
  { (withClaims cs 8 live).modSettings fun g => { g with
      cues := .replicate 8 { builtinCue with mode := mode, debounce := 1, target := target, holdLimit := 9 } } with
    cues := .replicate 8 { resetCueLine with active := active } }

/-- A sample of the line's pin at this level is accepted as a change. -/
def accepted (s : State) (high : Bool) : Bool :=
  decide ((s.cue 7).due = none) && decide ((s.cueCfg 7).debounce ≤ (s.cue 7).debounce + 1) &&
    ((if (s.cueCfg 7).polarity = .activeHigh then high else !high) != (s.cue 7).active)

theorem witness_CueLinesAreSampledAndDebounced :
    (base.cueCfg 7).mode = .off ∧
    ((lined .level false 1 []).cueCfg 7).mode ≠ .off ∧ accepted (lined .level false 1 []) true ∧
    ¬ accepted (lined .pulse true 1 []) true ∧
    (∃ s : State, (s.cueCfg 7).mode ≠ .off ∧ (s.cue 7).active = false ∧ (s.cueCfg 7).polarity = .activeHigh ∧
      (s.cue 7).debounce + 1 < (s.cueCfg 7).debounce) :=
  ⟨by decide +kernel, by decide +kernel, by decide +kernel, by decide +kernel,
    ⟨base.modSettings fun g => { g with cues := .replicate 8 { builtinCue with mode := .pulse } }, by decide +kernel⟩⟩

theorem witness_LevelLinesEnterAndReleaseTheirClaim :
    (accepted (lined .level false 1 []) true ∧ (lined .level false 1 []).claims.table.length < 8 ∧
      (lined .level false 1 []).claims.nextStamp ≠ BitVec.allOnes 32) ∧
    (accepted (lined .level false 0 []) true ∧ ((lined .level false 0 []).cueCfg 7).target = 0) ∧
    (accepted (lined .level false 1 fullTable) true ∧ claimOf ⟨.cue 7, 0⟩ 2 7 .waiting ∈ fullTable) ∧
    (accepted (lined .level true 1 fullTable) false ∧
      claimHeld (lined .level true 1 fullTable) ⟨.cue 7, 0⟩ = some (claimOf ⟨.cue 7, 0⟩ 2 7 .waiting)) ∧
    (accepted (lined .level true 1 []) false ∧
      ∀ d ∈ (lined .level true 1 []).claims.table, d.key ≠ ⟨.cue 7, 0⟩) := by
  decide +kernel

theorem witness_PulseLinesEnterOrRetriggerTheirClaim :
    (accepted (lined .pulse false 1 []) true ∧ (lined .pulse false 1 []).claims.nextStamp ≠ BitVec.allOnes 32) ∧
    (accepted (lined .pulse false 1 fullTable) true ∧
      claimHeld (lined .pulse false 1 fullTable) ⟨.cue 7, 0⟩ = some (claimOf ⟨.cue 7, 0⟩ 2 7 .waiting)) ∧
    (accepted (lined .pulse false 0 []) true ∧ ((lined .pulse false 0 []).cueCfg 7).target = 0) ∧
    accepted (lined .pulse true 1 []) false := by
  decide +kernel

/-! ## Witnesses: links -/

/-- A frame of body length 5 with all but its last byte stored, and its check word. -/
def almost : List Byte := [0, 5, 1, 2, 3, 4, 5] ++ (bytesOf 2 (crc [0, 5, 1, 2, 3, 4, 5]).toNat).take 1

def lastByte : Byte := BitVec.ofNat 8 (crc [0, 5, 1, 2, 3, 4, 5]).toNat

/-- A link's working state in a frame. -/
def inFrame (recv : RecvState) (stored : List Byte) (waiting : List (List Byte)) : LinkState :=
  { resetLink (builtinLink .r9600) with recv := recv, stored := stored, waiting := waiting }

/-- Eight claims, none of them line 7's, the first of priority 1, the others of 2, current nowhere. -/
def otherTable : List Claim :=
  claimOf ⟨.link 0, 5⟩ 1 0 .waiting :: (fullTable.drop 1).map fun c =>
    if c.key = ⟨.cue 7, 0⟩ then { c with key := ⟨.link 1, 5⟩ } else c

/-- Line 7 alone waits for a boundary. -/
def waitingLine (mode : CueMode) (due : Option CueRequest) (target : Mask) (cs : List Claim) : State :=
  (lined mode true target cs).modCue 7 fun k => { k with pending := due.isNone, due := due }

/-- A plain count, nothing timed. -/
def unmarked (s : State) : Bool :=
  decide (s.tb.start = .running) && decide (s.tb.markNext = none) && decide (s.tb.arm = none) &&
    decide (s.queue.entries = [])

/-- A full table at equal and at lower priority, acceptances on a boundary, and an entry and a retry that enter, find a
full table, and find no target or the key held. -/
theorem witness_CueEntriesMeetTheTableAndTheBoundary :
    (∀ mode ∈ [CueMode.level, .pulse], accepted (lined mode false 1 otherTable) true ∧
      (∀ d ∈ otherTable, d.key ≠ ⟨.cue 7, 0⟩) ∧ otherTable.length = 8 ∧
      ∀ d ∈ otherTable, d.currentNowhere = true → ((lined mode false 1 otherTable).cueCfg 7).priority ≤ d.priority) ∧
    (∃ s : State, ∃ d ∈ s.claims.table, accepted s true ∧ (∀ e ∈ s.claims.table, e.key ≠ ⟨.cue 7, 0⟩) ∧
      s.claims.table.length = 8 ∧ s.claims.nextStamp ≠ BitVec.allOnes 32 ∧ d.currentNowhere = true ∧
      d.priority < (s.cueCfg 7).priority ∧
      ∀ e ∈ s.claims.table, e.currentNowhere = true → e ≠ d → outranks e d = true ∧ outranks d e = false) ∧
    (∀ mode ∈ [CueMode.level, .pulse], accepted (lined mode true 1 []) false ∧ accepted (lined mode false 1 []) true ∧
      accepted (lined mode false 1 fullTable) true) ∧
    ((waitingLine .level (some .entry) 1 []).onlyAsk [.request 7 .entry] ∧
      unmarked (waitingLine .level (some .entry) 1 []) = true) ∧
    (waitingLine .pulse (some .entry) 1 otherTable).onlyAsk [.request 7 .entry] ∧
    (waitingLine .level (some .entry) 0 []).onlyAsk [.request 7 .entry] ∧
    ((waitingLine .level none 1 []).onlyAsk [.retry 7] ∧ unmarked (waitingLine .level none 1 []) = true) ∧
    (waitingLine .level none 1 otherTable).onlyAsk [.retry 7] ∧
    (waitingLine .level none 1 fullTable).onlyAsk [.retry 7] :=
  ⟨by decide +kernel,
    ⟨(lined .level false 1 otherTable).modSettings fun g => { g with
        cues := g.cues.map fun c => { c with priority := 2 } },
      claimOf ⟨.link 0, 5⟩ 1 0 .waiting, by decide +kernel⟩,
    by decide +kernel, ⟨asking_of (by decide +kernel), by decide +kernel⟩, asking_of (by decide +kernel),
    asking_of (by decide +kernel), ⟨asking_of (by decide +kernel), by decide +kernel⟩, asking_of (by decide +kernel),
    asking_of (by decide +kernel)⟩

/-- Line 7's template outranks the first claim of a full table in which it holds none. -/
def pressing (due : Option CueRequest) : State :=
  (waitingLine .level due 1 otherTable).modSettings fun g => { g with
    cues := g.cues.map fun c => { c with priority := 2 } }

/-- Line 7's pulse claim has used this much of a hold limit of 100. -/
def pulsing (hold : Counter) : Claim :=
  { claimOf ⟨.cue 7, 0⟩ 1 0 .waiting with kind := .pulseCue, holdUsed := hold }

/-- A displacement by an entry and by a retry, an end and a retrigger with and without a claim held, and a retrigger
that meets the expiry of its claim. -/
theorem witness_CueEntriesMeetTheTableAndTheBoundary_requests :
    (∀ due ∈ [some CueRequest.entry, none],
      (pressing due).onlyAsk [if due.isSome then .request 7 .entry else .retry 7] ∧ unmarked (pressing due) = true ∧
      ((pressing due).cueCfg 7).priority = 2 ∧ ((pressing due).cueCfg 7).target ≠ 0 ∧
      (pressing due).claims.table = otherTable ∧ (pressing due).claims.nextStamp ≠ BitVec.allOnes 32) ∧
    (otherTable.length = 8 ∧ (∀ e ∈ otherTable, e.key ≠ ⟨.cue 7, 0⟩) ∧
      claimOf ⟨.link 0, 5⟩ 1 0 .waiting ∈ otherTable ∧
      ∀ e ∈ otherTable, e.currentNowhere = true → e ≠ claimOf ⟨.link 0, 5⟩ 1 0 .waiting →
        outranks e (claimOf ⟨.link 0, 5⟩ 1 0 .waiting) = true ∧
          outranks (claimOf ⟨.link 0, 5⟩ 1 0 .waiting) e = false) ∧
    (∀ cs ∈ [[], [pulsing 99]], (waitingLine .level (some .finish) 1 cs).onlyAsk [.request 7 .finish] ∧
      (waitingLine .pulse (some .retrigger) 1 cs).onlyAsk [.request 7 .retrigger] ∧
      unmarked (waitingLine .level (some .finish) 1 cs) = true) ∧
    (waitingLine .pulse (some .retrigger) 1 [pulsing 100]).onlyAsk [.expiry ⟨.cue 7, 0⟩, .request 7 .retrigger] ∧
    (pulsing 100).waitUsed.toNat < (pulsing 100).waitLimit := by
  have h1 : ∀ due ∈ [some CueRequest.entry, none],
      asking (pressing due) [if due.isSome then .request 7 .entry else .retry 7] = true ∧
      unmarked (pressing due) = true ∧ ((pressing due).cueCfg 7).priority = 2 ∧
      ((pressing due).cueCfg 7).target ≠ 0 ∧ (pressing due).claims.table = otherTable ∧
      (pressing due).claims.nextStamp ≠ BitVec.allOnes 32 := by decide +kernel
  have h2 : ∀ cs ∈ [[], [pulsing 99]], asking (waitingLine .level (some .finish) 1 cs) [.request 7 .finish] = true ∧
      asking (waitingLine .pulse (some .retrigger) 1 cs) [.request 7 .retrigger] = true ∧
      unmarked (waitingLine .level (some .finish) 1 cs) = true := by decide +kernel
  exact ⟨fun due h => ⟨asking_of (h1 due h).1, (h1 due h).2⟩, by decide +kernel,
    fun cs h => ⟨asking_of (h2 cs h).1, asking_of (h2 cs h).2.1, (h2 cs h).2.2⟩, asking_of (by decide +kernel),
    by decide +kernel⟩

/-- Each receive state; a special value raw and after the escape byte; the length at the ends of its range and past
them; the last byte of the body; a check that agrees and one that does not; a full buffer. -/
theorem witness_ArrivingBytesAreDeframed :
    (dark.link 0).on = true ∧ (resetLink { builtinLink .r9600 with enable := false }).on = false ∧
    (resetLink (builtinLink .r9600)).recv = .hunt ∧
    ((inFrame .length [] []).recv ≠ .hunt ∧ (inFrame .length [] []).on = true ∧ (inFrame .length [] []).escape = false) ∧
    1024 ≤ (inFrame .length [] (List.replicate 4 (List.replicate 252 0))).occupancy ∧
    ((0xE5 : Byte) ^^^ 0x20 ∈ [(0xC5 : Byte), 0xC3, 0xC1, 0xCA] ∧ (0xC5 : Byte) ^^^ 0x20 ∉ [(0xC5 : Byte), 0xC3, 0xC1, 0xCA]) ∧
    (natOf [(0 : Byte), 5] = 5 ∧ natOf [(1 : Byte), 0x40] = 320 ∧ natOf [(0 : Byte), 4] < 5 ∧
      320 < natOf [(1 : Byte), 0x41]) ∧
    ((inFrame .body (almost.take 6) []).stored.length + 1 = 2 + natOf (almost.take 2) ∧
      (inFrame .body (almost.take 5) []).stored.length + 1 < 2 + natOf (almost.take 2)) ∧
    almost.dropLast.length + 1 < 4 + natOf (almost.take 2) ∧
    (lastByte ∉ [0xC5, 0xC3, 0xC1, 0xCA] ∧ (inFrame .check almost []).occupancy < 1024 ∧
      almost.length + 1 = 4 + natOf (almost.take 2) ∧
      crc (almost.take (2 + natOf (almost.take 2))) =
        BitVec.ofNat 16 (natOf ((almost ++ [lastByte]).drop (2 + natOf (almost.take 2)))) ∧
      crc (almost.take (2 + natOf (almost.take 2))) ≠
        BitVec.ofNat 16 (natOf ((almost ++ [lastByte + 1]).drop (2 + natOf (almost.take 2))))) := by
  decide +kernel

/-- One byte below the pause level of 64, at it with a HOLD outstanding, and a take that meets the resume level. -/
theorem witness_HoldAndGoFollowTheOccupancy :
    (∃ k : LinkState, k.on = true ∧ k.recv = .body ∧ k.stored.length + 1 < 2 + natAt k.stored 0 2 ∧
      2 ≤ k.stored.length ∧ k.holdOut = false ∧ k.occupancy + 1 = 768 ∧ k.tx ≠ none) ∧
    (∃ k : LinkState, k.on = true ∧ k.recv = .body ∧ k.stored.length + 1 < 2 + natAt k.stored 0 2 ∧
      2 ≤ k.stored.length ∧ k.holdOut = false ∧ k.occupancy + 1 = 767) ∧
    (∃ k : LinkState, k.recv = .body ∧ k.holdOut = true ∧ 768 ≤ k.occupancy ∧ k.occupancy < 1024) ∧
    (∃ (k : LinkState) (body : List Byte), k.waiting = [body] ∧ k.holdOut = true ∧
      (k.take (builtinLink .r9600)).occupancy = 256 ∧ k.tx ≠ none) ∧
    (∃ (k : LinkState) (body : List Byte), k.waiting = [body] ∧ k.holdOut = true ∧
      (builtinLink .r9600).resume < (k.take (builtinLink .r9600)).occupancy) :=
  ⟨⟨inFrame .body ([1, 0x40] ++ List.replicate 9 0) (List.replicate 4 (List.replicate 185 0)), by decide +kernel⟩,
    ⟨inFrame .body ([1, 0x40] ++ List.replicate 8 0) (List.replicate 4 (List.replicate 185 0)), by decide +kernel⟩,
    ⟨{ inFrame .body ([1, 0x40] ++ List.replicate 10 0) (List.replicate 4 (List.replicate 185 0)) with holdOut := true },
      by decide +kernel⟩,
    ⟨{ inFrame .body ([1, 0x40] ++ List.replicate 254 0) [[1]] with holdOut := true }, [1], by decide +kernel⟩,
    ⟨{ inFrame .body ([1, 0x40] ++ List.replicate 255 0) [[1]] with holdOut := true }, [1], by decide +kernel⟩⟩

/-- A link in the body of a frame, with 11 bytes of it stored behind these waiting frames. -/
def inBody (waiting : List (List Byte)) : LinkState := inFrame .body ([1, 0x40] ++ List.replicate 9 0) waiting

/-- A link with or without a byte on the line: a stored byte at the pause level, a discard at the resume level; a check
that does not agree and brings a HOLD and a GO; and an overrun with a HOLD outstanding. -/
theorem witness_HoldAndGoFollowTheOccupancy_sends :
    (∀ tx ∈ [none, some (TxByte.ctrl 0xC1)], ∃ k : LinkState, k.tx = tx ∧ k.ctrl = [] ∧ k.on = true ∧
      k.recv = .body ∧ k.disableAt = none ∧ k.rateChanges = [] ∧ k.holdOut = false ∧ k.occupancy + 1 = 768) ∧
    (∀ tx ∈ [none, some (TxByte.ctrl 0xC1)], ∃ k : LinkState, k.tx = tx ∧ k.ctrl = [] ∧ k.on = true ∧
      k.recv = .body ∧ k.disableAt = none ∧ k.rateChanges = [] ∧ k.holdOut = true ∧
      (k.waiting.map fun body => body.length + 4).sum = 256) ∧
    (∃ k : LinkState, k.tx = none ∧ k.recv = .check ∧ k.holdOut = false ∧ k.occupancy + 1 = 64 ∧
      k.stored.length + 1 = 4 + natAt k.stored 0 2 ∧ k.waiting = []) ∧
    ∃ k : LinkState, k.recv = .body ∧ k.holdOut = true ∧ k.occupancy = 1024 ∧ k.tx = none :=
  have h : (inBody (List.replicate 4 (List.replicate 185 0))).occupancy + 1 = 768 := by decide +kernel
  have g : ((inBody [List.replicate 252 0]).waiting.map fun body => body.length + 4).sum = 256 := by decide +kernel
  ⟨fun tx _ => ⟨{ inBody (List.replicate 4 (List.replicate 185 0)) with tx := tx }, rfl, rfl, rfl, rfl, rfl, rfl, rfl, h⟩,
    fun tx _ => ⟨{ inBody [List.replicate 252 0] with tx := tx, holdOut := true }, rfl, rfl, rfl, rfl, rfl, rfl, rfl, g⟩,
    ⟨{ inFrame .check ([0, 60] ++ List.replicate 61 0) [] with tx := none }, by decide +kernel⟩,
    ⟨{ inFrame .body ([1, 0x40] ++ List.replicate 66 0) (List.replicate 4 (List.replicate 235 0)) with
        tx := none, holdOut := true }, by decide +kernel⟩⟩

theorem witness_RepliesArePlacedAndSent :
    (∃ k : LinkState, k.replyBytes + 3 + 4 = 512) ∧ (∃ k : LinkState, 512 < k.replyBytes + 4 + 4) ∧
    (∃ k : LinkState, k.tx = none) ∧
    (∃ k : LinkState, k.tx = none ∧ k.ctrl = [] ∧ k.replies = [] ∧ k.rateChanges = [] ∧ k.disableAt = none) ∧
    (∃ (k : LinkState) (r : Reply), k.tx = some (.data 5) ∧ k.replies = [r] ∧ r.bytes = [5] ∧ k.ctrl = [] ∧
      k.rateChanges = [] ∧ k.disableAt = none) ∧
    (∀ tx ∈ [TxByte.start, .escape], ∃ (k : LinkState) (r : Reply), k.tx = some tx ∧ k.replies = [r] ∧
      r.bytes = [0xC5, 5] ∧ k.ctrl = [] ∧ k.rateChanges = [] ∧ k.disableAt = none) ∧
    (∃ k : LinkState, k.tx = some (.data 5) ∧ k.ctrl = [0xC3] ∧ k.replies = [⟨true, false, [5, 6]⟩] ∧
      k.rateChanges = [] ∧ k.disableAt = none) ∧
    (∃ k : LinkState, k.tx = some (.ctrl 0xC1) ∧ k.ctrl = [0xC3] ∧ k.rateChanges = [] ∧ k.disableAt = none) :=
  ⟨⟨{ inFrame .hunt [] [] with replies := [⟨true, false, List.replicate 505 0⟩] }, by decide +kernel⟩,
    ⟨{ inFrame .hunt [] [] with replies := [⟨true, false, List.replicate 505 0⟩] }, by decide +kernel⟩,
    ⟨{ inFrame .hunt [] [] with tx := none }, rfl⟩,
    ⟨{ inFrame .hunt [] [] with tx := none }, rfl, rfl, rfl, rfl, rfl⟩,
    ⟨{ inFrame .hunt [] [] with tx := some (.data 5), replies := [⟨true, false, [5]⟩] }, ⟨true, false, [5]⟩, rfl, rfl,
      rfl, rfl, rfl, rfl⟩,
    fun tx _ => ⟨{ inFrame .hunt [] [] with tx := some tx, replies := [⟨true, false, [0xC5, 5]⟩] },
      ⟨true, false, [0xC5, 5]⟩, rfl, rfl, rfl, rfl, rfl, rfl⟩,
    ⟨{ inFrame .hunt [] [] with tx := some (.data 5), replies := [⟨true, false, [5, 6]⟩], ctrl := [0xC3] }, rfl, rfl,
      rfl, rfl, rfl⟩,
    ⟨{ inFrame .hunt [] [] with ctrl := [0xC3] }, by decide +kernel⟩⟩

theorem witness_DisableAndRateChangeActInTheirPlace :
    (∃ k : LinkState, k.disableAt = some ⟨0, 0⟩ ∧ k.holdOut = true) ∧ (∃ k : LinkState, k.disableAt = some ⟨1, 0⟩) ∧
    (∃ k : LinkState, k.rateChanges = [⟨⟨0, 0⟩, .r9600⟩]) ∧ (∃ k : LinkState, k.rateChanges = []) ∧
    (∃ k : LinkState, k.rateChanges = [⟨⟨0, 1⟩, .r9600⟩]) :=
  ⟨⟨{ inFrame .hunt [] [] with disableAt := some ⟨0, 0⟩, holdOut := true }, rfl, rfl⟩,
    ⟨{ inFrame .hunt [] [] with disableAt := some ⟨1, 0⟩ }, rfl⟩,
    ⟨{ inFrame .hunt [] [] with rateChanges := [⟨⟨0, 0⟩, .r9600⟩] }, rfl⟩, ⟨inFrame .hunt [] [], rfl⟩,
    ⟨{ inFrame .hunt [] [] with rateChanges := [⟨⟨0, 1⟩, .r9600⟩] }, rfl⟩⟩

/-! ## Witnesses: pins, cells and the properties every step keeps -/

theorem witness_PinsThroughABitPeriod :
    ((live.modTb fun t => { t with bitPos := 112 }).tb.bitPos < 113 ∧ live.tb.start = .running) ∧
    (∃ s : State, s.tb.start = .running ∧ s.tb.bitPos = 0 ∧ s.tb.epout = true ∧ s.tb.epoutEnds = 2) ∧
    base.tb.start ≠ .running ∧ 113 ≤ live.tb.bitPos ∧ live.pending = [] :=
  ⟨by decide +kernel, ⟨live.modTb fun t => { t with bitPos := 0, epout := true, epoutEnds := 2 }, by decide +kernel⟩,
    by decide +kernel⟩

theorem witness_CellsAreFixedAndSent :
    (∃ t, exec .cellBoundary live = .next t) ∧ (live.outCfg 3).enable = true :=
  ⟨⟨_, rfl⟩, by decide +kernel⟩

theorem base_withinSize : base.withinSize := by
  have h : ∀ image, base.store.saving ≠ some image := by intro image; rw [show base.store.saving = none from rfl]; simp
  refine ⟨by decide +kernel, by decide +kernel, by decide +kernel, ?_, ?_, ⟨by decide +kernel, fun i e => (h i e).elim⟩,
    ?_⟩
  · unfold Timebase.withinSize; decide +kernel
  · unfold Scheduler.withinSize; decide +kernel
  · unfold LinkState.withinSize; decide +kernel

theorem base_countersFollow : base.countersFollow := by
  unfold State.countersFollow
  decide +kernel

theorem base_pinsFollow : base.pinsFollow := by
  have h : ∀ p, (base.lane p).run = false := by decide +kernel
  have hp : ∀ p, (base.lane p).pinsFollow := by unfold Lane.pinsFollow; decide +kernel
  exact ⟨fun p => ⟨hp p, fun hr => by rw [h p] at hr; cases hr⟩, rfl, rfl⟩

/-- An output in RUN, at the first bit of its cell. -/
theorem witness_StepsKeepThePins_running :
    ∃ s : State, s.pinsFollow ∧ (s.lane 0).run = true ∧ ∃ t, step s = .next t := by
  have hb : ∀ p, (match ((left (exec .cellBoundary live)).lane p).asm.cell with
      | none => false
      | some c => ((left (exec .cellBoundary live)).lane p).asm.dout == c.bits.getMsbD
          (left (exec .cellBoundary live)).tb.bitPos) = true := by decide +kernel
  have hp : ∀ p, ((left (exec .cellBoundary live)).lane p).pinsFollow := by unfold Lane.pinsFollow; decide +kernel
  have hm : (left (exec .cellBoundary live)).monitor.source = none ∧
      (left (exec .cellBoundary live)).monitor.mon = false ∧
      (left (exec .cellBoundary live)).monitor.monck = false := by decide +kernel
  refine ⟨left (exec .cellBoundary live), ⟨fun p => ⟨hp p, fun _ => ?_⟩, ?_⟩, by decide +kernel, _, rfl⟩
  · have k := hb p
    split at k
    · cases k
    · next c e => exact ⟨c, e, by simpa using k⟩
  · unfold State.monitorFollows
    rw [hm.1]
    exact hm.2

theorem base_alertFollows : base.alertFollows := by
  unfold State.alertFollows
  decide +kernel

theorem base_keysDistinct : base.keysDistinct := by
  unfold State.keysDistinct
  decide +kernel

theorem base_namesFollow : base.namesFollow := by
  unfold State.namesFollow Sequencer.namesByPhase
  decide +kernel

/-- Every value of the state after reset is within its range. -/
theorem base_inRange : base.inRange := by
  have hp : ∀ p, (base.content.outs.get p).varN = freshVariant builtinLabel [] ∧
      (base.content.outs.get p).varR = freshVariant builtinLabel [] ∧ (base.content.outs.get p).freqs = [] ∧
      (base.content.outs.get p).stagedFreqs = none := by decide +kernel
  have hn : ∀ slot, base.content.neighbours.get slot = none := by decide +kernel
  have hv : (freshVariant builtinLabel []).proper := by
    refine ⟨?_, ?_, ?_, ?_⟩
    · unfold Label.proper; decide
    · unfold properText; decide
    · intro l h; cases h
    · intro l h; cases h
  refine ⟨?_, ⟨?_, ?_⟩, ?_, ?_, ?_⟩
  · unfold Settings.inRange OutSettings.inRange CueSettings.inRange LinkSettings.inRange
    decide +kernel
  · intro p
    obtain ⟨h1, h2, h3, h4⟩ := hp p
    unfold OutContent.proper
    rw [h1, h2, h3, h4]
    exact ⟨hv, hv, by unfold freqsInRange; decide, by intro c h; cases h⟩
  · intro slot r h
    rw [hn slot] at h; cases h
  · intro e h; cases h
  · intro c h; cases h
  · intro r h; cases h

theorem base_positionsWithin : base.positionsWithin := by
  unfold State.positionsWithin OutContent.positionsWithin
  decide +kernel

/-- Records with repeats left, due and ahead, and a boundary within the ranges. -/
theorem witness_PoolRecordsAreDueHeldAndSent :
    (∃ s t, s.inRange ∧ exec .cellBoundary s = .next t) ∧
    (due 5 0 { aRecord 1 with repeats := .replicate 4 0 } = false ∧ due 5 0 (aRecord 2) = true ∧
      due 16777215 0 (aRecord 2) = false) :=
  ⟨⟨base, _, base_inRange, rfl⟩, by decide +kernel⟩

/-- A cell of every kind, and ANNOUNCE in every phase. -/
theorem witness_TheCellsCarryTheirContent :
    Emits 0 Any ∧ Emits 1 Any ∧ Emits 2 Any ∧ Emits 3 Any ∧ Emits 4 (fun s => s.queue.entries = []) ∧ Emits 5 Any ∧
    Emits 6 (fun s => ((left (exec .cellBoundary s)).lane 0).seq.phase = .quiet) ∧
    Emits 6 (fun s => ((left (exec .cellBoundary s)).lane 0).seq.phase = .onset) ∧
    Emits 6 (fun s => ((left (exec .cellBoundary s)).lane 0).seq.phase = .onAir) ∧
    Emits 6 (fun s => ((left (exec .cellBoundary s)).lane 0).seq.phase = .trail ∧
      ((left (exec .cellBoundary s)).lane 0).seq.view = some ⟨.test, 20, 40⟩) :=
  let chosen := [claimOf ⟨.link 0, 5⟩ 1 0 .current]
  ⟨emits (live.modSettings fun g => { g with outputs := g.outputs.map fun o => { o with intervals := .replicate 6 0 } })
      (by decide) (by decide +kernel) trivial,
    emits (only .label live) (by decide) (by decide +kernel) trivial,
    emits ((only .freq live).modOut 0 fun o => { o with freqs := [880] }) (by decide) (by decide +kernel) trivial,
    emits ((only .text live).modOut 0 fun o => { o with varN := { o.varN with text := [0x41] } }) (by decide)
      (by decide +kernel) trivial,
    emits (withPool [aRecord 1] (only .tmsg live)) (by decide) (by decide +kernel) (by decide +kernel),
    emits (bursting 0 none none) (by decide) (by decide +kernel) trivial,
    emits (bursting 1 none none) (by decide) (by decide +kernel) (by decide +kernel),
    emits (announcing .onset 2 0 chosen) (by decide) (by decide +kernel) (by decide +kernel),
    emits (announcing .onset 1 0 chosen) (by decide) (by decide +kernel) (by decide +kernel),
    emits ((only .announce (announcing .trail 0 2 [])).modLane 0 fun ln =>
      { ln with seq := { ln.seq with view := some ⟨.test, 20, 40⟩ } }) (by decide) (by decide +kernel)
      (by decide +kernel)⟩

/-- A boundary of a state within its ranges whose positions lie within their totals. -/
theorem witness_TheCellsCarryTheirContent_index :
    ∃ s t, s.inRange ∧ s.positionsWithin ∧ exec .cellBoundary s = .next t :=
  ⟨base, _, base_inRange, base_positionsWithin, rfl⟩

/-- A frequency list of the image may repeat a code (R178). -/
theorem test_an_image_list_may_repeat_a_code :
    readFreqs (freqsBytes [5, 880, 5]) = some [5, 880, 5] ∧ readFreqs (freqsBytes [5, 881]) = none := by
  decide +kernel

theorem witness_AnImageHoldsWhatWasSaved : ∃ s : State, s.inRange := ⟨base, base_inRange⟩

theorem witness_StepsKeepTheirProperties :
    ∃ s t, step s = .next t ∧ s.withinSize ∧ s.countersFollow ∧ s.alertFollows ∧ s.pinsFollow ∧ s.inRange ∧
      s.positionsWithin ∧ s.keysDistinct ∧ s.namesFollow :=
  ⟨base, _, rfl, base_withinSize, base_countersFollow, base_alertFollows, base_pinsFollow, base_inRange,
    base_positionsWithin, base_keysDistinct, base_namesFollow⟩

end Sys2Proof.Tests
end

