-- ==== Sys2Proof/Proofs/Pins.lean ====
section
/-! PROOFS. The pins stand as the state says after every step (O58). A step is of one of three kinds: it leaves the
pins and all they rest on, it begins a bit of every output's cell (the end of a bit period, a boundary) or passes its
middle, or it is a reset. -/

namespace Sys2Proof.Machine

/-! ### Handling a frame -/

theorem adjust_state (adjusted : Bool) (a : Answer) : (a.adjust adjusted).state = a.state := by
  unfold Answer.adjust
  split <;> rfl

theorem partAnswer_induct {P : State → Prop} {act : List Byte → State → Answer}
    (ha : ∀ ps s, P s → P (act ps s).state) (c : Cmd) (l : LinkId) (body : List Byte) {s : State} (h : P s) :
    P (partAnswer c act l body s).state := by
  unfold partAnswer
  split
  · exact h
  split
  · exact h
  split
  · exact h
  · exact ha _ _ h

section
variable {P : State → Prop} (hl : ∀ l f s, P s → P (s.modLink l f))
include hl

theorem finishFrame_induct (l : LinkId) (code : Byte) (direct : Bool) {a : Answer} (h : P a.state) :
    P (finishFrame l code direct a) := by
  have hr : P (if a.status.isRefusal then a.state.modLink l countRefusal else a.state) := by
    split
    · exact hl _ _ _ h
    · exact h
  unfold finishFrame
  simp only
  split
  · exact hl _ _ _ hr
  · exact hr

/-- What every change of one link, the owner's act and what follows the reply preserve, a part command preserves. -/
theorem partRow_induct {act : List Byte → State → Answer} {after : List Byte → State → State}
    (ha : ∀ ps s, P s → P (act ps s).state) (hf : ∀ ps s, P s → P (after ps s)) {c : Cmd} {l : LinkId} {s t : State}
    (h : P s) (e : partRow c act after l s = .next t) : P t := by
  cases e
  split
  · exact h
  next body _ =>
    have ht : P (takeFrame l s) := hl _ _ _ h
    unfold handlePart
    simp only
    split
    · have hn := finishFrame_induct hl l c.code true (partAnswer_induct ha c l body ht)
      split
      · exact hf _ _ hn
      · exact hn
    · exact hl _ _ _ ht

/-- What every change of one link, the count of a route, the queue and every owner preserve, a routed command
preserves. -/
theorem routedRow_induct (hc : ∀ a g s, P s → P (countRoute a g s)) {check : List Byte → Checked TimedCmd}
    (ha : ∀ cmd m l count s, P s → P (applyCmd cmd m l count s).state)
    (hq : ∀ cmd m l cell tag s, P s → P (arrive cmd m l cell tag s).state) {c : Cmd} {l : LinkId} {s t : State}
    (h : P s) (e : routedRow c check l s = .next t) : P t := by
  cases e
  split
  · exact h
  next body _ =>
    have ht : P (takeFrame l s) := hl _ _ _ h
    have hr := hc (targetAddress body) (regionGroup body) _ ht
    have hs := hl l spendToken _ hr
    refine finishFrame_induct hl l c.code _ ?_
    unfold routedAnswer
    split
    · exact ht
    simp only
    split
    · exact hr
    split
    · exact hr
    split
    · exact hr
    unfold ownerAnswer
    split
    · exact hs
    rw [adjust_state]
    split
    · exact hq _ _ _ _ _ _ hs
    · exact ha _ _ _ _ _ hs

/-- What every change of one link preserves, a code without a command preserves. -/
theorem execUnknownCommand_induct {l : LinkId} {s t : State} (h : P s) (e : execUnknownCommand l s = .next t) :
    P t := by
  cases e
  split
  · exact h
  next body _ =>
    have ht : P (takeFrame l s) := hl _ _ _ h
    simp only
    split
    · exact finishFrame_induct hl l _ true ht
    · exact hl _ _ _ ht

end

theorem checkedAct_induct {P : State → Prop} {α : Type} {check : List Byte → Checked α} {act : α → State → Answer}
    (ha : ∀ x s, P s → P (act x s).state) (ps : List Byte) (s : State) (h : P s) :
    P (checkedAct check act ps s).state := by
  unfold checkedAct
  split
  · exact h
  · rw [adjust_state]
    exact ha _ _ h

/-! ### What the pins rest on -/

/-- What `Lane.pinsFollow` and `Lane.showsBit` read of a lane. -/
structure LanePins where
  run : Bool
  cell : Option Cell
  dout : Bool
  dck : Bool
  phase : Phase
  co : Bool

def Lane.pins (ln : Lane) : LanePins :=
  { run := ln.run, cell := ln.asm.cell, dout := ln.asm.dout, dck := ln.asm.dck, phase := ln.seq.phase, co := ln.seq.co }

/-- What `State.pinsFollow` reads of a state. -/
structure PinView where
  bitPos : Nat
  monitor : Monitor
  lanes : OutId → LanePins

def State.pins (s : State) : PinView :=
  { bitPos := s.tb.bitPos, monitor := s.monitor, lanes := fun p => (s.lane p).pins }

theorem pins_eq_of {s t : State} (hb : t.tb.bitPos = s.tb.bitPos) (hm : t.monitor = s.monitor)
    (hl : ∀ p, (t.lane p).pins = (s.lane p).pins) : t.pins = s.pins := by
  simp only [State.pins, hb, hm, hl]

/-- States with the same pins, bit position and what these rest on are alike in what they show. -/
theorem pinsFollow_of_pins_eq {s t : State} (e : t.pins = s.pins) (h : s.pinsFollow) : t.pinsFollow := by
  simp only [State.pins, PinView.mk.injEq] at e
  obtain ⟨hb, hm, hl⟩ := e
  have hlane : ∀ p, (t.lane p).pins = (s.lane p).pins := congrFun hl
  simp only [Lane.pins, LanePins.mk.injEq] at hlane
  simpa only [State.pinsFollow, Lane.pinsFollow, Lane.showsBit, State.monitorFollows, hb, hm, hlane] using h

theorem modLane_pins {f : Lane → Lane} (hf : ∀ ln, (f ln).pins = ln.pins) (p : OutId) (s : State) :
    (s.modLane p f).pins = s.pins := by
  refine pins_eq_of rfl rfl fun q => ?_
  rw [State.modLane_lane]
  split
  · exact hf _
  · rfl

theorem modTb_pins {f : Timebase → Timebase} (hf : ∀ t, (f t).bitPos = t.bitPos) (s : State) :
    (s.modTb f).pins = s.pins := pins_eq_of (hf s.tb) rfl fun _ => rfl

/-- The owners of commands touch no pin; a renumbering moves no phase (R86). -/
theorem SameOutside.pins {s t : State} (h : SameOutside s t) : t.pins = s.pins := by
  refine pins_eq_of (by rw [h.tb]) h.monitor fun p => ?_
  obtain ⟨f, e⟩ := h.seq p
  simp only [Lane.pins, h.run p, h.asm p, e]

/-! ### Rows that leave the pins -/

theorem arrive_pins (cmd : TimedCmd) (m : Mask) (l : LinkId) (cell : Count) (tag : Byte) (s : State) :
    (arrive cmd m l cell tag s).state.pins = s.pins := by
  unfold arrive
  simp only
  repeat' split
  all_goals rfl

theorem partRow_pins {act : List Byte → State → Answer} {after : List Byte → State → State}
    (ha : ∀ ps s, (act ps s).state.pins = s.pins) (hf : ∀ ps s, (after ps s).pins = s.pins) {c : Cmd} {l : LinkId}
    {s t : State} (e : partRow c act after l s = .next t) : t.pins = s.pins :=
  partRow_induct (P := fun u => u.pins = s.pins) (fun _ _ _ h => h) (fun ps u h => (ha ps u).trans h)
    (fun ps u h => (hf ps u).trans h) rfl e

theorem checkedAct_pins {α : Type} {check : List Byte → Checked α} {act : α → State → Answer}
    (ha : ∀ x s, (act x s).state.pins = s.pins) (ps : List Byte) (s : State) :
    (checkedAct check act ps s).state.pins = s.pins :=
  checkedAct_induct (P := fun u => u.pins = s.pins) (fun x u h => (ha x u).trans h) ps s rfl

/-- A part command whose owner acts behind checks, with nothing after the reply. -/
theorem checkedRow_pins {α : Type} {check : List Byte → Checked α} {act : α → State → Answer}
    (ha : ∀ x s, (act x s).state.pins = s.pins) {c : Cmd} {l : LinkId} {s t : State}
    (e : partRow c (checkedAct check act) noAfter l s = .next t) : t.pins = s.pins :=
  partRow_pins (checkedAct_pins ha) (fun _ _ => rfl) e

theorem routedRow_pins {c : Cmd} {check : List Byte → Checked TimedCmd} {l : LinkId} {s t : State}
    (e : routedRow c check l s = .next t) : t.pins = s.pins :=
  routedRow_induct (P := fun u => u.pins = s.pins) (fun _ _ _ h => h) (fun _ _ _ h => h)
    (fun cmd m l count u h => (applyCmd_same cmd m l count u).pins.trans h)
    (fun cmd m l cell tag u h => (arrive_pins cmd m l cell tag u).trans h) rfl e

theorem clearCounters_pins (g : CounterGroup) (s : State) : (clearCounters g s).pins = s.pins := by
  cases g with
  | output | scheduler | signalling =>
    apply modLane_pins
    intro _
    rfl
  | content | timebase | pool | claim | cue | queue | link => rfl

theorem readCountersAct_pins (x : Nat × Nat × Bool) (s : State) : (readCountersAct x s).state.pins = s.pins := by
  unfold readCountersAct
  split
  · rfl
  · simp only [Answer.give]
    split
    · exact clearCounters_pins _ s
    · rfl

theorem readRecordAct_pins (x : Nat × Nat) (s : State) : (readRecordAct x s).state.pins = s.pins := by
  unfold readRecordAct
  split <;> rfl

theorem setOutputAct_pins (ps : List Byte) (s : State) : (setOutputAct ps s).state.pins = s.pins :=
  checkedAct_pins (fun _ _ => rfl) ps s

theorem setLinkAfter_pins (carrier : LinkId) (ps : List Byte) (s : State) :
    (setLinkAfter carrier ps s).pins = s.pins := by
  unfold setLinkAfter
  split <;> rfl

theorem setTiming_pins (m : TimingMode) (s : State) : (setTiming m s).pins = s.pins := by
  unfold setTiming
  split <;> rfl

theorem applyRevoke_pins (k : ClaimKey) (s : State) : (applyRevoke k s).state.pins = s.pins := by
  unfold applyRevoke
  split <;> rfl

theorem applyCancelTimed_pins (l : LinkId) (tag : Byte) (s : State) :
    (applyCancelTimed l tag s).state.pins = s.pins := by
  unfold applyCancelTimed
  simp only
  split <;> rfl

theorem saveAct_pins (ps : List Byte) (s : State) : (saveAct ps s).state.pins = s.pins := by
  refine checkedAct_pins (fun _ u => ?_) ps s
  split <;> rfl

theorem reloadAct_pins (ps : List Byte) (s : State) : (reloadAct ps s).state.pins = s.pins := by
  refine checkedAct_pins (fun _ u => ?_) ps s
  split
  · rfl
  · split <;> rfl

/-- R167: the settings replaced can change the timing mode, which moves no bit position. -/
theorem replaceSettings_pins (carrier : LinkId) (g : Settings) (s : State) :
    (replaceSettings carrier g s).pins = s.pins := by
  refine pins_eq_of ?_ rfl fun _ => rfl
  simp only [replaceSettings, State.followAlert_tb]
  split <;> rfl

theorem reloadAfter_pins (carrier : LinkId) (ps : List Byte) (s : State) :
    (reloadAfter carrier ps s).pins = s.pins := by
  unfold reloadAfter
  split
  · rfl
  · exact replaceSettings_pins _ _ s

theorem restartAct_pins (ps : List Byte) (s : State) : (restartAct ps s).state.pins = s.pins := by
  refine checkedAct_pins (fun _ u => ?_) ps s
  split <;> rfl

theorem restartAfter_pins (carrier : LinkId) (ps : List Byte) (s : State) :
    (restartAfter carrier ps s).pins = s.pins := rfl

theorem execStoreSaveComplete_pins {verified : Bool} {s t : State} (e : execStoreSaveComplete verified s = .next t) :
    t.pins = s.pins := by
  cases e
  split
  · rfl
  · split <;> rfl

theorem loseReference_pins (s : State) : (loseReference s).pins = s.pins := by
  unfold loseReference
  split <;> rfl

theorem noteEdge_pins (period : Nat) (s : State) : (s.modTb (Timebase.noteEdge period)).pins = s.pins := by
  refine modTb_pins (fun t => ?_) s
  unfold Timebase.noteEdge
  split <;> rfl

theorem execRefEdge_pins {period : Nat} {s t : State} (e : execRefEdge period s = .next t) : t.pins = s.pins := by
  cases e
  split
  · split
    · exact noteEdge_pins period s
    · exact (loseReference_pins _).trans (noteEdge_pins period s)
  · rfl

theorem execRefGap_pins {s t : State} (e : execRefGap s = .next t) : t.pins = s.pins := by
  cases e
  split
  · exact loseReference_pins _
  · rfl

theorem execLinkByteReceived_pins {l : LinkId} {b : RxByte} {s t : State}
    (e : execLinkByteReceived l b s = .next t) : t.pins = s.pins := by
  cases e
  split <;> rfl

theorem execLinkDisable_pins {l : LinkId} {s t : State} (e : execLinkDisable l s = .next t) : t.pins = s.pins := by
  cases e
  split <;> rfl

/-! ### Cue lines -/

theorem cueRequest_pins (c : LineId) (r : CueRequest) (count : Count) (s : State) :
    (cueRequest c r count s).pins = s.pins := (cueRequest_same c r count s).pins

theorem flushDue_pins (c : LineId) (s : State) : (flushDue c s).pins = s.pins := by
  unfold flushDue
  split
  · rfl
  · exact cueRequest_pins _ _ _ _

theorem acceptChange_pins (c : LineId) (active coincident : Bool) (s : State) :
    (acceptChange c active coincident s).pins = s.pins := by
  have hf := flushDue_pins c s
  unfold acceptChange
  simp only
  split
  · exact hf
  · split
    · exact hf
    · exact (cueRequest_pins _ _ _ _).trans hf

theorem sampleLine_pins (c : LineId) (high coincident : Bool) (s : State) :
    (sampleLine c high coincident s).pins = s.pins := by
  unfold sampleLine
  simp only
  split
  · rfl
  · split
    · exact acceptChange_pins _ _ _ s
    · rfl

theorem execCueChangeAccepted_pins {c : LineId} {high coincident : Bool} {s t : State}
    (e : execCueChangeAccepted c high coincident s = .next t) : t.pins = s.pins := by
  cases e
  split
  · exact sampleLine_pins _ _ _ s
  · rfl

/-! ### Strobes that mark a cell (R28, R29) -/

theorem takeLate_pins (last : Count) (d : Nat) (s : State) : (takeLate last d s).2.pins = s.pins := by
  unfold takeLate
  split <;> rfl

theorem applyLate_pins (count : Count) (es : List QueueEntry) (s : State) :
    (applyLate count es s).pins = s.pins := by
  unfold applyLate
  induction es generalizing s with
  | nil => rfl
  | cons e es ih => exact (ih _).trans (applyEntry_same true count e s).pins

theorem strobeFirstBit_pins (s : State) : (strobeFirstBit s).pins = s.pins := by
  unfold strobeFirstBit
  split
  · rfl
  · simp only
    split
    · rfl
    · exact (applyLate_pins _ _ _).trans (takeLate_pins _ _ _)

theorem strobeLastBit_pins (s : State) : (strobeLastBit s).pins = s.pins := by
  unfold strobeLastBit
  split
  · rfl
  · simp only
    split <;> rfl

/-! ### A bit begins (R11, R15) -/

/-- The cue output stands as the phase says, and an output that is OFF has no cell and a QUIET sequencer: what of
`Lane.pinsFollow` holds at every stage of a boundary, whatever DOn and DCKn show. -/
def Lane.restsWhenOff (ln : Lane) : Prop :=
  ln.seq.co = (ln.seq.phase == .onAir) ∧ (ln.run = false → ln.asm.cell = none ∧ ln.seq.phase = .quiet)

theorem restsWhenOff_of_pinsFollow {ln : Lane} (h : ln.pinsFollow) : ln.restsWhenOff := by
  obtain ⟨hco, hoff⟩ := h
  refine ⟨hco, fun hr => ?_⟩
  obtain ⟨hcell, _, _, hphase⟩ := hoff hr
  exact ⟨hcell, hphase⟩

theorem followMonitor_follows (s : State) : (followMonitor s).monitorFollows := by
  unfold State.monitorFollows followMonitor
  cases hs : s.monitor.source with
  | none => simp [hs]
  | some p => simp only [hs]; exact ⟨rfl, rfl⟩

/-- The bit that begins stands on the pins of every output whose cell is there when it is in RUN. -/
theorem beginBits_pinsFollow {i : Nat} {u : State} (hi : u.tb.bitPos = i)
    (hr : ∀ p, ((beginBits i u).lane p).restsWhenOff)
    (hc : ∀ p, ((beginBits i u).lane p).run = true → ((beginBits i u).lane p).asm.cell.isSome) :
    (beginBits i u).pinsFollow := by
  refine ⟨fun p => ?_, followMonitor_follows _⟩
  have hr := hr p
  have hc := hc p
  rw [beginBits_lane] at hr hc ⊢
  rw [beginBits_tb, hi]
  obtain ⟨hco, hoff⟩ := hr
  refine ⟨⟨hco, fun h => ?_⟩, fun h => ?_⟩
  · obtain ⟨hcell, hphase⟩ := hoff h
    have hcell : (u.lane p).asm.cell = none := hcell
    exact ⟨hcell, by simp [Assembler.beginBit, hcell], rfl, hphase⟩
  · obtain ⟨c, hcell⟩ := Option.isSome_iff_exists.mp (hc h)
    have hcell : (u.lane p).asm.cell = some c := hcell
    exact ⟨c, hcell, by simp [Assembler.beginBit, hcell, Cell.bit]⟩

theorem execBitPeriodEnd_pinsFollow {s t : State} (h : s.pinsFollow) (e : execBitPeriodEnd s = .next t) :
    t.pinsFollow := by
  cases e
  have hlane := h.1
  split
  · refine beginBits_pinsFollow rfl (fun p => ?_) fun p hr => ?_
    · rw [beginBits_lane]
      have hp := restsWhenOff_of_pinsFollow (hlane p).1
      exact hp
    · rw [beginBits_lane] at hr ⊢
      obtain ⟨c, hcell, _⟩ := (hlane p).2 hr
      exact Option.isSome_iff_exists.mpr ⟨c, hcell⟩
  · exact h

/-- The middle of a bit period raises DCKn where there is a cell and leaves DOn (R11). -/
theorem middle_pinsFollow {s : State} (h : s.pinsFollow) : (middle s).pinsFollow := by
  obtain ⟨hlane, _⟩ := h
  refine ⟨fun p => ?_, followMonitor_follows _⟩
  obtain ⟨⟨hco, hoff⟩, hshows⟩ := hlane p
  rw [middle_lane, middle_tb]
  refine ⟨⟨hco, fun hr => ?_⟩, hshows⟩
  obtain ⟨hcell, hdout, _, hphase⟩ := hoff hr
  exact ⟨hcell, hdout, by simp [Assembler.middle, hcell], hphase⟩

/-! ### A boundary -/

theorem runLane_restsWhenOff (enable : Bool) {ln : Lane} (h : ln.restsWhenOff) : (runLane enable ln).restsWhenOff := by
  unfold runLane
  split
  · exact ⟨rfl, fun hr => nomatch hr⟩
  · exact ⟨rfl, fun _ => ⟨rfl, rfl⟩⟩
  · exact h
  · exact h

theorem Sequencer.boundary_co (cfg : OutSettings) (chosen : Option ClaimRef) (q : Sequencer) :
    (q.boundary cfg chosen).co = ((q.boundary cfg chosen).phase == .onAir) := rfl

/-- After the sequencers and the views: in RUN the cue output was driven last; OFF nothing has happened (R115). -/
theorem sequencedLane_restsWhenOff {u : State} {p : OutId} (h : (u.lane p).restsWhenOff) :
    (sequencedLane u p).restsWhenOff := by
  unfold sequencedLane
  split
  next hr =>
    obtain ⟨v, e⟩ := writeView_keeps (advanceClaims (u.eachOut sequence)).claims.table
      (Sequencer.boundary (u.outCfg p) ((choice u p).map Claim.ref) (u.lane p).seq)
    refine ⟨?_, fun hoff => ?_⟩
    · simp only [Lane.modSeq, e]
      exact Sequencer.boundary_co _ _ _
    · exact absurd (hr.symm.trans hoff) (by decide)
  next => exact h

/-- The choice of a cell is made for an output in RUN, and writes of its sequencer the burst counter alone. -/
theorem schedule_restsWhenOff {held : List Claim} {p : OutId} {s : State} (h : (s.lane p).restsWhenOff) :
    ((schedule held p s).lane p).restsWhenOff := by
  cases hr : (s.lane p).run with
  | false =>
    have e : schedule held p s = s := by simp [schedule, hr]
    rw [e]
    exact h
  | true =>
    have hs := schedule_same held p s
    obtain ⟨b, hseq⟩ := hs.seq
    refine ⟨by rw [hseq]; exact h.1, fun hoff => ?_⟩
    rw [hs.run, hr] at hoff
    cases hoff

theorem schedule_cell {held : List Claim} {p : OutId} {s : State} (h : ((schedule held p s).lane p).run = true) :
    ((schedule held p s).lane p).asm.cell.isSome := by
  rw [(schedule_same held p s).run] at h
  obtain ⟨k, payload, _, hcell, _⟩ := schedule_fixes held p s h
  rw [hcell]
  rfl

/-- A boundary begins the first bit of a new cell on every output in RUN. -/
theorem boundaryAt_pinsFollow (o : Order) (expected new : Count) (arm : Option Count) (marked : Bool) {s : State}
    (h : ∀ p, (s.lane p).restsWhenOff) : (boundaryAt o expected new arm marked s).pinsFollow := by
  have hb : (boundaryAt o expected new arm marked s).tb.bitPos = 0 := by
    rw [boundaryAt_tb]
    unfold boundaryTb
    simp only
    split <;> rfl
  have hlane : ∀ p, ((boundaryAt o expected new arm marked s).lane p).restsWhenOff ∧
      (((boundaryAt o expected new arm marked s).lane p).run = true →
        ((boundaryAt o expected new arm marked s).lane p).asm.cell.isSome) := by
    intro p
    obtain ⟨s', k, hs', _, _, _, _, e, _⟩ := boundaryAt_lane o expected new arm marked s p
    obtain ⟨f, hcells⟩ := beforeCells_lane o expected new arm marked s p
    have hbefore : ((beforeCells o expected new arm marked s).lane p).restsWhenOff := by
      rw [hcells]
      exact runLane_restsWhenOff _ (h p)
    have hrests : (s'.lane p).restsWhenOff := by
      rw [hs']
      exact sequencedLane_restsWhenOff hbefore
    rw [e]
    exact ⟨schedule_restsWhenOff hrests, schedule_cell⟩
  rw [boundaryAt_eq] at hb hlane ⊢
  rw [beginBits_tb] at hb
  exact beginBits_pinsFollow hb (fun p => (hlane p).1) fun p => (hlane p).2

theorem boundary_pinsFollow (o : Order) {s : State} (h : s.pinsFollow) : (boundary o s).pinsFollow :=
  boundaryAt_pinsFollow _ _ _ _ _ fun p => restsWhenOff_of_pinsFollow (h.1 p).1

/-- A row that is a boundary where its condition holds and changes nothing where it does not (log 3). -/
theorem boundaryIf_pinsFollow {b : Prop} [Decidable b] {o : Order} {s t : State} (h : s.pinsFollow)
    (e : (.next (if b then boundary o s else s) : Host.Outcome State Fault Refusal) = .next t) : t.pinsFollow := by
  cases e
  split
  · exact boundary_pinsFollow o h
  · exact h

/-- A cut cell has its truncation counted and is followed by the boundary of the marked cell (R30). -/
theorem strobeCut_pinsFollow {s : State} (h : s.pinsFollow) : (strobeCut s).pinsFollow := by
  refine boundaryAt_pinsFollow _ _ _ _ _ fun p => ?_
  have hp := restsWhenOff_of_pinsFollow (h.1 p).1
  rw [cutCells_lane]
  split <;> exact hp

theorem execEpochStrobe_pinsFollow {s t : State} (h : s.pinsFollow) (e : execEpochStrobe s = .next t) :
    t.pinsFollow := by
  cases e
  split
  · split
    · exact pinsFollow_of_pins_eq (strobeFirstBit_pins s) h
    · split
      · exact strobeCut_pinsFollow h
      · exact pinsFollow_of_pins_eq (strobeLastBit_pins s) h
  · exact h

/-! ### Resets -/

theorem resetLane_pinsFollow : resetLane.pinsFollow := ⟨rfl, fun _ => ⟨rfl, rfl, rfl, rfl⟩⟩

theorem resetBlocks_pinsFollow (g : Settings) (tb : Timebase) (content : Content) (store : StoreCtl)
    (links : Table 4 LinkState) (s : State) : (resetBlocks g tb content store links s).pinsFollow := by
  refine ⟨fun p => ?_, rfl, rfl⟩
  have e : (resetBlocks g tb content store links s).lane p = resetLane := Table.get_replicate ..
  rw [e]
  exact ⟨resetLane_pinsFollow, fun hr => nomatch hr⟩

theorem powerOnState_pinsFollow (rate1 rate0 : Bool) (s : State) : (powerOnState rate1 rate0 s).pinsFollow := by
  unfold powerOnState
  split <;> exact resetBlocks_pinsFollow ..

theorem execRestartBegin_pinsFollow {s t : State} (h : s.pinsFollow) (e : execRestartBegin s = .next t) :
    t.pinsFollow := by
  cases e
  split
  · exact resetBlocks_pinsFollow ..
  · exact h

/-! ### Every command -/

theorem exec_pinsFollow {i : Instr} {s t : State} (h : s.pinsFollow) (e : exec i s = .next t) : t.pinsFollow := by
  cases i with
  | powerOn rate1 rate0 => cases e; exact powerOnState_pinsFollow rate1 rate0 s
  | pinReset => cases e; exact resetBlocks_pinsFollow ..
  | restartBegin => exact execRestartBegin_pinsFollow h e
  | cellBoundary =>
    obtain rfl : boundary .free s = t := Host.Outcome.next.inj e
    exact boundary_pinsFollow .free h
  | lockAcquisition | holdoverExpiry | leadEnd | trailEnd | claimHoldExpiry | claimWaitExpiry | tokenGain =>
    exact boundaryIf_pinsFollow h e
  | epochStrobe => exact execEpochStrobe_pinsFollow h e
  | bitPeriodEnd => exact execBitPeriodEnd_pinsFollow h e
  | refEdge => exact pinsFollow_of_pins_eq (execRefEdge_pins e) h
  | refGap => exact pinsFollow_of_pins_eq (execRefGap_pins e) h
  | cueSample c high coincident => cases e; exact pinsFollow_of_pins_eq (sampleLine_pins c high coincident s) h
  | cueChangeAccepted => exact pinsFollow_of_pins_eq (execCueChangeAccepted_pins e) h
  | linkByteReceived => exact pinsFollow_of_pins_eq (execLinkByteReceived_pins e) h
  | linkByteSent | linkRateChange => cases e; exact h
  | linkDisable => exact pinsFollow_of_pins_eq (execLinkDisable_pins e) h
  | storeSaveComplete => exact pinsFollow_of_pins_eq (execStoreSaveComplete_pins e) h
  | unknownCommand => exact execUnknownCommand_induct (P := State.pinsFollow) (fun _ _ _ hs => hs) h e
  | status | clearFaults | setSite | setGroupset | setRoute | setDefaultRoute | setCue | setMonitor | setAlert |
      setEpoch =>
    exact pinsFollow_of_pins_eq (checkedRow_pins (fun _ _ => rfl) e) h
  | readRecord => exact pinsFollow_of_pins_eq (checkedRow_pins readRecordAct_pins e) h
  | readCounters => exact pinsFollow_of_pins_eq (checkedRow_pins readCountersAct_pins e) h
  | setTiming => exact pinsFollow_of_pins_eq (checkedRow_pins setTiming_pins e) h
  | revoke => exact pinsFollow_of_pins_eq (checkedRow_pins applyRevoke_pins e) h
  | cancelTimed l => exact pinsFollow_of_pins_eq (checkedRow_pins (applyCancelTimed_pins l) e) h
  | setOutput => exact pinsFollow_of_pins_eq (partRow_pins setOutputAct_pins (fun _ _ => rfl) e) h
  | setLink l =>
    exact pinsFollow_of_pins_eq (partRow_pins (checkedAct_pins fun _ _ => rfl) (setLinkAfter_pins l) e) h
  | storeSave => exact pinsFollow_of_pins_eq (partRow_pins saveAct_pins (fun _ _ => rfl) e) h
  | reload l => exact pinsFollow_of_pins_eq (partRow_pins reloadAct_pins (reloadAfter_pins l) e) h
  | restart l => exact pinsFollow_of_pins_eq (partRow_pins restartAct_pins (restartAfter_pins l) e) h
  | label | text | freqlist | neighbour | neighbourFlags | optoutBegin | optoutEnd | setInterval | claim | release |
      tmsgAdd | tmsgCancel =>
    exact pinsFollow_of_pins_eq (routedRow_pins e) h

/-- Settles O58: the middle of a bit period, or the command at the front, whose taking touches no pin. -/
theorem stepsKeepThePins : Obligations.StepsKeepThePins := by
  unfold Obligations.StepsKeepThePins
  intro s t h e
  unfold step at e
  split at e
  · cases e
    exact middle_pinsFollow h
  next c rest _ =>
    have hrest : ({ s with pending := rest } : State).pinsFollow := h
    exact exec_pinsFollow hrest e

end Sys2Proof.Machine
end

