-- ==== Sys2Proof/Proofs/TimedArrival.lean ====
section
/-! PROOFS. A timed command at its arrival (O22). A timed frame that reaches its owner either fails the owner's checks
of its values or goes to the activation queue, whose answer is one of four by the distance to the activation cell and
by the room left; that answer is carried over to the row of the command. -/

namespace Sys2Proof.Machine

/-! ### The row of a routed command -/

/-- Every routed command has the one row, with its own owner's checks. -/
theorem exec_row_of_isRouted {c : Cmd} (hc : c.isRouted = true) (l : LinkId) (s : State) :
    exec (c.row l) s = routedRow c c.ownerCheck l s := by
  cases c with
  | label | text | freqlist | neighbour | neighbourFlags | optoutBegin | optoutEnd | setInterval | claim | release
  | tmsgAdd | tmsgCancel => rfl
  | status | readRecord | readCounters | clearFaults | setSite | setGroupset | setRoute | setDefaultRoute | setOutput
  | setCue | setLink | setTiming | setMonitor | setAlert | storeSave | reload | restart | revoke | setEpoch
  | cancelTimed => cases hc

theorem frameParams_of_timed {body : List Byte} (h : timedFlag body = true) : frameParams body = body.drop 9 := by
  simp [frameParams, h]

/-! ### The queue's answer to an arriving command (R132, R133) -/

section
variable {x : TimedCmd} {m : Mask} {l : LinkId} {cell : Count} {tag : Byte} {s : State}

theorem arrive_tooFar (hlo : 36000 < delta s.tb.count cell) (hhi : delta s.tb.count cell ≤ 8388607) :
    arrive x m l cell tag s =
      .refuse .tooFar (s.modQueueCounters fun k => { k with refusedTooFar := satInc k.refusedTooFar }) :=
  if_pos ⟨hlo, hhi⟩

theorem arrive_full (hd : ¬ (36000 < delta s.tb.count cell ∧ delta s.tb.count cell ≤ 8388607))
    (hn : 32 ≤ s.queue.entries.length) :
    arrive x m l cell tag s =
      .refuse .queueFull (s.modQueueCounters fun k => { k with refusedFull := satInc k.refusedFull }) :=
  (if_neg hd).trans (if_pos hn)

theorem arrive_queued (hn : s.queue.entries.length < 32) (hlo : 1 ≤ delta s.tb.count cell)
    (hhi : delta s.tb.count cell ≤ 36000) :
    arrive x m l cell tag s =
      { status := .queued, adjusted := false, data := bytesOf 3 cell.toNat
        state := (s.setEntries (insertEntry s.tb.count { cell := cell, link := l, tag := tag, cmd := x, target := m }
          s.queue.entries)).modQueueCounters fun k => { k with queued := satInc k.queued } } := by
  have hd : ¬ (36000 < delta s.tb.count cell ∧ delta s.tb.count cell ≤ 8388607) := by omega
  exact (if_neg hd).trans ((if_neg (Nat.not_le.2 hn)).trans (if_pos ⟨hlo, hhi⟩))

theorem arrive_late (hn : s.queue.entries.length < 32)
    (hd : delta s.tb.count cell = 0 ∨ 8388608 ≤ delta s.tb.count cell) :
    arrive x m l cell tag s =
      { status := .lateApplied, adjusted := false, data := bytesOf 3 (s.tb.count + 1).toNat
        state := (s.setEntries (insertEntry s.tb.count
          { cell := s.tb.count + 1, link := l, tag := tag, cmd := x, target := m }
          s.queue.entries)).modQueueCounters fun k => { k with lateAtArrival := satInc k.lateAtArrival } } := by
  have hfar : ¬ (36000 < delta s.tb.count cell ∧ delta s.tb.count cell ≤ 8388607) := by omega
  have hnear : ¬ (1 ≤ delta s.tb.count cell ∧ delta s.tb.count cell ≤ 36000) := by omega
  exact (if_neg hfar).trans ((if_neg (Nat.not_le.2 hn)).trans (if_neg hnear))

end

/-! ### From the queue's answer to the row (R131, R152) -/

section
variable {s : State} {l : LinkId} {c : Cmd} {body : List Byte} {m : Mask} {x : TimedCmd} {adj : Bool} {st : Status}
  {f : QueueCounters → QueueCounters}

/-- A timed command the queue refuses: the queue counts it, the link counts and reports it. -/
theorem exec_timed_refused (hc : c.isRouted = true) (h : RoutedFrame s l c body m) (ht : timedFlag body = true)
    (hx : c.ownerCheck (body.drop 9) = .ok (x, adj)) (hr : st.isRefusal = true)
    (ha : arrive x m l (activationCell body) (frameTag body) (reached l body s) =
      .refuse st ((reached l body s).modQueueCounters f)) :
    exec (c.row l) s = .next ((routedRefused l c body st s).modQueueCounters f) := by
  rw [exec_row_of_isRouted hc, routedRow_eq h, ownerAnswer_timed ht hx, ha, adjust_refuse hr, ← reached_refused]
  simp only [finishFrame, Answer.refuse, hr, if_true]
  split <;> rfl

/-- A timed command the queue takes in: the reply says so, and the adjusted flag is the one the checks left. -/
theorem exec_timed_entered (hc : c.isRouted = true) (h : RoutedFrame s l c body m) (ht : timedFlag body = true)
    (hx : c.ownerCheck (body.drop 9) = .ok (x, adj)) (hr : st.isRefusal = false) {data : List Byte}
    {es : List QueueEntry}
    (ha : arrive x m l (activationCell body) (frameTag body) (reached l body s) =
      { status := st, adjusted := false, data := data
        state := ((reached l body s).setEntries es).modQueueCounters f }) :
    exec (c.row l) s = .next (((routed l c body st adj data s).setEntries es).modQueueCounters f) := by
  have ho : ownerAnswer c.ownerCheck m l body (reached l body s) =
      { status := st, adjusted := adj, data := data
        state := ((reached l body s).setEntries es).modQueueCounters f } := by
    rw [ownerAnswer_timed ht hx, ha, Answer.adjust, if_neg (by simp [hr])]
  rw [exec_row_of_isRouted hc, routedRow_ok h hr ho, ← reached_answered]
  split <;> rfl

/-- A timed command whose values its owner refuses: the queue never sees it. -/
theorem exec_timed_bad (hc : c.isRouted = true) (h : RoutedFrame s l c body m) (ht : timedFlag body = true)
    (hb : c.ownerCheck (body.drop 9) = .error .badParam) :
    exec (c.row l) s = .next (routedRefused l c body .badParam s) := by
  rw [exec_row_of_isRouted hc]
  exact routedRow_bad h (by rw [frameParams_of_timed ht, hb])

end

/-! ### Bytes that are no code (R176) -/

theorem variantOf_none {b : Byte} (h : 1 < b.toNat) : variantOf b = none := by
  have h0 : b ≠ 0 := by rintro rfl; simp at h
  have h1 : b ≠ 1 := by rintro rfl; simp at h
  rw [variantOf, if_neg h0, if_neg h1]

theorem outOrNone_none {b : Byte} (h : 4 ≤ b.toNat) (hb : b ≠ 0xFF) : outOrNone b = none := by
  rw [outOrNone, if_neg hb, index?_none h]
  rfl

theorem serviceOf_none {b : Byte} (h : 5 < b.toNat) : serviceOf b = none := List.getElem?_eq_none h

theorem classOf_none {b : Byte} (h : b = 0 ∨ 4 < b.toNat) : classOf b = none := by
  obtain rfl | h := h
  · rfl
  · have ne : ∀ v : Byte, v.toNat ≤ 4 → b ≠ v := by rintro v hv rfl; omega
    rw [classOf, if_neg (ne 1 (by decide)), if_neg (ne 2 (by decide)), if_neg (ne 3 (by decide)),
      if_neg (ne 4 (by decide))]

/-! ### Values the owners refuse (R131) -/

section
variable {ps : List Byte}

theorem checkLabel_bad (h : 1 < (byteAt ps 0).toNat ∨ byteAt ps 2 = 0) : checkLabel ps = bad := by
  obtain h | h := h
  · simp [checkLabel, variantOf_none h]
  · cases hv : variantOf (byteAt ps 0) <;> simp [checkLabel, h, hv]

theorem checkText_bad (h : 1 < (byteAt ps 0).toNat) : checkText ps = bad := by
  simp [checkText, variantOf_none h]

theorem checkNeighbour_bad (h : 7 < (byteAt ps 0).toNat ∨ 4 ≤ (byteAt ps 6).toNat ∧ byteAt ps 6 ≠ 0xFF ∨
    natAt ps 1 2 = 0 ∧ (byteAt ps 5).setWidth 4 ≠ (0 : Mask)) : checkNeighbour ps = bad := by
  obtain h | ⟨h, hne⟩ | ⟨hid, hm⟩ := h
  · simp [checkNeighbour, index?_none h]
  · cases hs : index? 8 (byteAt ps 0).toNat <;> simp [checkNeighbour, hs, outOrNone_none h hne]
  · have hm' : maskOf (byteAt ps 5) ≠ 0#4 := hm
    cases hs : index? 8 (byteAt ps 0).toNat <;> cases ho : outOrNone (byteAt ps 6) <;>
      simp [checkNeighbour, hs, ho, hid, hm']

theorem checkNeighbourFlags_bad (h : 7 < (byteAt ps 0).toNat) : checkNeighbourFlags ps = bad := by
  simp [checkNeighbourFlags, index?_none h]

theorem checkSetInterval_bad (h : 5 < (byteAt ps 0).toNat) : checkSetInterval ps = bad := by
  simp [checkSetInterval, serviceOf_none h]

theorem checkClaim_bad (h : byteAt ps 1 = 0 ∨ 4 < (byteAt ps 1).toNat ∨ 7 < (byteAt ps 2).toNat) :
    checkClaim ps = bad := by
  obtain h | h := or_assoc.2 h
  · simp [checkClaim, classOf_none h]
  · cases hc : classOf (byteAt ps 1) <;> simp [checkClaim, hc, h]

theorem checkTmsgAdd_bad (h : natAt ps 0 2 = 0 ∨ byteAt ps 8 = 0) : checkTmsgAdd ps = bad := by
  obtain h | h := h <;> simp [checkTmsgAdd, h]

theorem checkTmsgCancel_bad (h : natAt ps 0 2 = 0) : checkTmsgCancel ps = bad := by
  simp [checkTmsgCancel, h]

end

/-! ### Timed commands -/

/-- Settles O22: by the four answers of the queue for values that pass, and owner by owner for values that do not. -/
theorem timedCommandsAreClassified : Obligations.TimedCommandsAreClassified := by
  unfold Obligations.TimedCommandsAreClassified
  refine ⟨?_, ?_⟩
  · rintro s l c body m _ x adj hc h ht rfl hx
    refine ⟨?_, ?_, ?_, ?_⟩
    · intro hlo hhi
      exact exec_timed_refused hc h ht hx rfl (arrive_tooFar hlo hhi)
    · intro hd hn
      exact exec_timed_refused hc h ht hx rfl (arrive_full hd hn)
    · intro hn hlo hhi
      exact exec_timed_entered hc h ht hx rfl (arrive_queued hn hlo hhi)
    · intro hn hd
      exact exec_timed_entered hc h ht hx rfl (arrive_late hn hd)
  · rintro s l c body _ m h ht rfl hv
    obtain ⟨rfl, hv⟩ | ⟨rfl, hv⟩ | ⟨rfl, hv⟩ | ⟨rfl, hv⟩ | ⟨rfl, hv⟩ | ⟨rfl, hv⟩ | ⟨rfl, hv⟩ | ⟨rfl, hv⟩ := hv
    · exact exec_timed_bad rfl h ht (checkLabel_bad hv)
    · exact exec_timed_bad rfl h ht (checkText_bad hv)
    · exact exec_timed_bad rfl h ht (checkNeighbour_bad hv)
    · exact exec_timed_bad rfl h ht (checkNeighbourFlags_bad hv)
    · exact exec_timed_bad rfl h ht (checkSetInterval_bad hv)
    · exact exec_timed_bad rfl h ht (checkClaim_bad hv)
    · exact exec_timed_bad rfl h ht (checkTmsgAdd_bad hv)
    · exact exec_timed_bad rfl h ht (checkTmsgCancel_bad hv)

end Sys2Proof.Machine
end

/-! PROOFS. What STATUS reports (O11). The 41 bytes are 14 of the part, 6 for each output and 3 occupancies; a byte is
found by the part of the record it lies in. -/

namespace Sys2Proof.Machine

/-! ### Where a byte of a record lies (R173) -/

theorem byteAt_append_left {as bs : List Byte} {i : Nat} (h : i < as.length) :
    byteAt (as ++ bs) i = byteAt as i := by
  unfold byteAt
  rw [List.getD_eq_getElem?_getD, List.getD_eq_getElem?_getD, List.getElem?_append_left h]

theorem byteAt_append_right (as bs : List Byte) (i : Nat) : byteAt (as ++ bs) (as.length + i) = byteAt bs i := by
  unfold byteAt
  rw [List.getD_eq_getElem?_getD, List.getD_eq_getElem?_getD, List.getElem?_append_right (Nat.le_add_right _ _),
    Nat.add_sub_cancel_left]

theorem natAt_append_left {as bs : List Byte} {i k : Nat} (h : i + k ≤ as.length) :
    natAt (as ++ bs) i k = natAt as i k := by
  unfold natAt
  rw [List.drop_append_of_le_length (by omega), List.take_append_of_le_length (by rw [List.length_drop]; omega)]

/-- Byte `j` of item `i` in a record that gives `k` bytes to each item. -/
theorem byteAt_flatMap {α : Type} {f : α → List Byte} {k : Nat} (hf : ∀ a, (f a).length = k) {as : List α}
    {i : Nat} {a : α} (ha : as[i]? = some a) {j : Nat} (hj : j < k) :
    byteAt (as.flatMap f) (k * i + j) = byteAt (f a) j := by
  induction as generalizing i with
  | nil => cases ha
  | cons x xs ih =>
    rw [List.flatMap_cons]
    cases i with
    | zero =>
      cases ha
      rw [Nat.mul_zero, Nat.zero_add, byteAt_append_left (by rwa [hf])]
    | succ i =>
      have e : k * (i + 1) + j = (f x).length + (k * i + j) := by rw [hf, Nat.mul_succ]; omega
      rw [e, byteAt_append_right]
      exact ih ha

theorem outputs_getElem? (p : OutId) : outputs[p.val]? = some p := by
  revert p
  decide

/-! ### The three parts of the status record (R177) -/

/-- The bytes of the part, before those of the outputs. -/
def statusHead (s : State) : List Byte :=
  bytesOf 2 modelCode ++ [s.settings.mode.code, s.tb.lock.code] ++ bytesOf 3 s.tb.count.toNat ++
    [boolByte s.tb.arm.isSome] ++ bytesOf 3 (s.tb.arm.getD 0).toNat ++
    [s.store.faults.setWidth 8, boolByte (isSaving s), s.store.origin.code]

/-- The occupancies, behind the outputs. -/
def statusTail (s : State) : List Byte :=
  [natByte s.claims.table.length, natByte s.pool.records.length, natByte s.queue.entries.length]

section
variable (s : State)

theorem statusData_eq : statusData s = statusHead s ++ (outputs.flatMap (statusOutput s) ++ statusTail s) :=
  List.append_assoc ..

theorem statusHead_length : (statusHead s).length = 14 := rfl

theorem statusTail_length : (statusTail s).length = 3 := rfl

theorem currentBytes_length (r : Option ClaimRef) : (currentBytes r).length = 2 := by
  cases r <;> rfl

theorem statusOutput_length (p : OutId) : (statusOutput s p).length = 6 := by
  simp [statusOutput, currentBytes_length]

theorem statusOutputs_length : (outputs.flatMap (statusOutput s)).length = 24 := by
  simp [outputs, statusOutput_length]

theorem statusData_length : (statusData s).length = 41 := by
  rw [statusData_eq, List.length_append, List.length_append, statusHead_length, statusOutputs_length,
    statusTail_length]

/-- The status record does not read the links, so the take that reads it changes nothing in it. -/
theorem statusData_takeFrame (l : LinkId) : statusData (takeFrame l s) = statusData s := rfl

theorem statusData_head {i : Nat} (h : i < 14) : byteAt (statusData s) i = byteAt (statusHead s) i := by
  rw [statusData_eq, byteAt_append_left h]

theorem statusData_headNat {i k : Nat} (h : i + k ≤ 14) : natAt (statusData s) i k = natAt (statusHead s) i k := by
  rw [statusData_eq, natAt_append_left h]

/-- Byte `j` of output `p`. -/
theorem statusData_output (p : OutId) {i j : Nat} (hj : j < 6) (hi : i = 14 + 6 * p.val + j) :
    byteAt (statusData s) i = byteAt (statusOutput s p) j := by
  have e : i = (statusHead s).length + (6 * p.val + j) := by rw [statusHead_length]; omega
  have hp := p.isLt
  rw [statusData_eq, e, byteAt_append_right, byteAt_append_left (by rw [statusOutputs_length]; omega)]
  exact byteAt_flatMap (statusOutput_length s) (outputs_getElem? p) hj

theorem statusData_tail (j : Nat) : byteAt (statusData s) (38 + j) = byteAt (statusTail s) j := by
  have e : 38 + j = (statusHead s).length + ((outputs.flatMap (statusOutput s)).length + j) := by
    rw [statusHead_length, statusOutputs_length]; omega
  rw [statusData_eq, e, byteAt_append_right, byteAt_append_right]

/-! ### What the parts say -/

/-- A count in the head reads back: its three bytes hold every count (R26). -/
theorem natOf_countBytes (c : Count) : natOf (bytesOf 3 c.toNat) = c.toNat := natOf_bytesOf_of_lt c.isLt

theorem statusData_model : (statusData s).take 2 = [0x42, 0x16] := rfl

theorem statusData_count : natAt (statusData s) 4 3 = s.tb.count.toNat :=
  (statusData_headNat s (by decide)).trans (natOf_countBytes _)

theorem statusData_arm : natAt (statusData s) 8 3 = (s.tb.arm.getD 0).toNat :=
  (statusData_headNat s (by decide)).trans (natOf_countBytes _)

/-- The label shown stands behind the two bytes of the current claim, whether there is one or not. -/
theorem statusOutput_label (p : OutId) : byteAt (statusOutput s p) 5 = (s.out p).labelShown.code := by
  unfold statusOutput
  cases (s.lane p).seq.current <;> rfl

theorem statusOutput_no_current {p : OutId} (h : (s.lane p).seq.current = none) :
    byteAt (statusOutput s p) 3 = 0xFF ∧ byteAt (statusOutput s p) 4 = 0 := by
  rw [statusOutput, h]
  exact ⟨rfl, rfl⟩

theorem statusOutput_current {p : OutId} {r : ClaimRef} (h : (s.lane p).seq.current = some r) :
    byteAt (statusOutput s p) 3 = originCode r.key.origin ∧ byteAt (statusOutput s p) 4 = r.key.number := by
  rw [statusOutput, h]
  exact ⟨rfl, rfl⟩

end

/-! ### STATUS (R170) -/

/-- STATUS without parameters answers OK with the record. -/
theorem exec_status {s : State} {l : LinkId} {body : List Byte} (h : PartFrame s l .status body)
    (hb : body.drop 5 = []) : exec (.status l) s = .next (answered l .status .ok false (statusData s) s) := by
  have hc : checkNone (body.drop 5) = .ok ((), false) := by rw [hb]; rfl
  have hrow : exec (.status l) s = .next (noAfter (body.drop 5) ((takeFrame l s).modLink l
      (LinkState.placeReply (replyOf .status .ok false (statusData (takeFrame l s)))))) := checkedRow_ok h hc rfl
  rw [hrow, statusData_takeFrame, noAfter, answered_of_keeps]

/-- Settles O11: by the row of a part command, and byte by byte in the part of the record where the byte lies. -/
theorem statusReportsThePart : Obligations.StatusReportsThePart := by
  unfold Obligations.StatusReportsThePart
  intro s l body h hb
  have head {i : Nat} (hi : i < 14) := statusData_head s hi
  refine ⟨statusData s, exec_status h hb, statusData_length s, statusData_model s, head (by decide), head (by decide),
    statusData_count s, head (by decide), statusData_arm s, head (by decide), head (by decide), head (by decide),
    fun p => ?_, statusData_tail s 0, statusData_tail s 1, statusData_tail s 2⟩
  have output {i : Nat} (j : Nat) (hj : j < 6) (hi : i = 14 + 6 * p.val + j) := statusData_output s p hj hi
  have origin := output 3 (by decide) (i := 17 + 6 * p.val) (by omega)
  have number := output 4 (by decide) (i := 18 + 6 * p.val) (by omega)
  rw [origin, number]
  exact ⟨output 0 (by decide) rfl, output 1 (by decide) (by omega), output 2 (by decide) (by omega),
    statusOutput_no_current s, fun _ => statusOutput_current s,
    (output 5 (by decide) (by omega)).trans (statusOutput_label s p)⟩

end Sys2Proof.Machine

/-! SUPPORT. Facts about equality and case distinctions that the proofs below use throughout. -/

namespace Sys2Proof.Machine

theorem equal_or_other {α : Type} (a b : α) : a = b ∨ a ≠ b := Classical.em _

/-- A case distinction on an equivalent condition. -/
theorem if_of_iff {α : Type} {b c : Prop} [Decidable b] [Decidable c] (h : b ↔ c) {x y : α} :
    (if b then x else y) = if c then x else y := ite_congr (propext h) (fun _ => rfl) fun _ => rfl

theorem bool_differs_from_not (b : Bool) : (!b) ≠ b := by cases b <;> nofun

theorem two_elements {α : Type} : ∀ {l : List α}, l.length = 2 → ∃ a b, l = [a, b]
  | [a, b], _ => ⟨a, b, rfl⟩

end Sys2Proof.Machine

/-! SUPPORT. What every operation of the link interface keeps: the stores within their sizes, and the token count. -/

namespace Sys2Proof.Machine

/-- What every operation on a link keeps, but for the tokens it gains at a boundary. -/
structure LinkKept (k k' : LinkState) : Prop where
  size : k.withinSize → k'.withinSize
  tokenCount : k'.tokenCount = k.tokenCount

namespace LinkKept

theorem refl (k : LinkState) : LinkKept k k := ⟨id, rfl⟩

theorem trans {a b c : LinkState} (h : LinkKept a b) (k : LinkKept b c) : LinkKept a c :=
  ⟨k.size ∘ h.size, k.tokenCount.trans h.tokenCount⟩

/-- An operation that stores no more bytes and gains no token. -/
theorem of_le {k k' : LinkState} (ho : k'.occupancy ≤ k.occupancy) (hr : k'.replyBytes ≤ k.replyBytes)
    (ht : k'.tokens ≤ k.tokens) (hc : k'.tokenCount = k.tokenCount) : LinkKept k k' :=
  ⟨fun ⟨h1, h2, h3⟩ => ⟨Nat.le_trans ht h1, Nat.le_trans ho h2, Nat.le_trans hr h3⟩, hc⟩

/-- An operation that touches neither the buffers nor the tokens. -/
theorem of_eq {k k' : LinkState} (hw : k'.waiting = k.waiting) (hs : k'.stored = k.stored)
    (hr : k'.replies = k.replies) (ht : k'.tokens = k.tokens) (hc : k'.tokenCount = k.tokenCount) : LinkKept k k' :=
  of_le (by simp [LinkState.occupancy, hw, hs]) (by simp [LinkState.replyBytes, hr]) (Nat.le_of_eq ht) hc

end LinkKept

namespace LinkState

/-! ### The transmitter -/

theorem nextByte_kept {a k : LinkState} (h : LinkKept a k) : LinkKept a k.nextByte := by
  rw [nextByte_eq]
  exact h.trans (.of_eq rfl rfl rfl rfl rfl)

theorem sendCtrl_kept (b : Byte) {a k : LinkState} (h : LinkKept a k) : LinkKept a (k.sendCtrl b) :=
  nextByte_kept (h.trans (.of_eq rfl rfl rfl rfl rfl))

theorem moveMarks_kept (f : Mark → Mark) (k : LinkState) : LinkKept k (k.moveMarks f) :=
  .of_eq rfl rfl rfl rfl rfl

/-- A change of the first reply that leaves its bytes. -/
theorem modReply_kept (f : Reply → Reply) (hf : ∀ r, (f r).bytes = r.bytes) (k : LinkState) :
    LinkKept k (k.modReply f) := by
  unfold modReply
  split
  · exact .refl k
  next r rs hr => exact .of_le (Nat.le_refl _) (by simp [replyBytes, hr, hf]) (Nat.le_refl _) rfl

theorem freeByte_kept (k : LinkState) : LinkKept k k.freeByte := by
  unfold freeByte
  split
  · exact .refl k
  next r rs hr =>
    split
    · exact .of_le (Nat.le_refl _) (by simp [replyBytes, hr]) (Nat.le_refl _) rfl
    · exact .of_le (Nat.le_refl _) (by simp [replyBytes, hr]) (Nat.le_refl _) rfl
    next b bs hb => exact .of_le (Nat.le_refl _) (by simp [replyBytes, hr, hb]) (Nat.le_refl _) rfl

theorem finishByte_kept (k : LinkState) : LinkKept k k.finishByte := by
  unfold finishByte
  split
  · exact .refl k
  · simp only
    refine .trans (.of_eq rfl rfl rfl rfl rfl : LinkKept k { k with tx := none }) (nextByte_kept ?_)
    split
    · exact moveMarks_kept _ _
    · exact moveMarks_kept _ _
    · exact modReply_kept _ (by intro _; rfl) _
    · exact modReply_kept _ (by intro _; rfl) _
    · exact (freeByte_kept _).trans (moveMarks_kept _ _)

theorem replyFrame_length (body : List Byte) : (replyFrame body).length = body.length + 4 := by
  simp [replyFrame]; omega

/-- A reply is placed only where its whole frame fits (R159). -/
theorem placeReply_kept (body : List Byte) (k : LinkState) : LinkKept k (k.placeReply body) := by
  unfold placeReply
  split
  next h =>
    refine nextByte_kept ⟨fun ⟨h1, h2, _⟩ => ⟨h1, h2, ?_⟩, rfl⟩
    simp only [replyBytes, List.map_append, List.sum_append, List.map_cons, List.map_nil, List.sum_cons, List.sum_nil,
      replyFrame_length] at h ⊢
    omega
  · exact .of_eq rfl rfl rfl rfl rfl

/-! ### The input buffer -/

theorem holdCheck_kept (cfg : LinkSettings) (k : LinkState) : LinkKept k (k.holdCheck cfg) := by
  unfold holdCheck
  split
  · exact sendCtrl_kept _ (.of_eq rfl rfl rfl rfl rfl)
  · exact .refl k

theorem goCheck_kept (cfg : LinkSettings) {a k : LinkState} (h : LinkKept a k) : LinkKept a (k.goCheck cfg) := by
  unfold goCheck
  split
  · exact sendCtrl_kept _ (h.trans (.of_eq rfl rfl rfl rfl rfl))
  · exact h

/-- The frame in progress leaves the buffer, whatever the counters. -/
theorem clearFrame_kept (c : LinkCounters) (k : LinkState) : LinkKept k { k.clearFrame with counters := c } :=
  .of_le (by simp [occupancy, clearFrame]) (Nat.le_refl _) (Nat.le_refl _) rfl

theorem discard_kept (cfg : LinkSettings) (k : LinkState) : LinkKept k (k.discard cfg) :=
  goCheck_kept cfg (clearFrame_kept _ k)

theorem overrun_kept (cfg : LinkSettings) (k : LinkState) : LinkKept k (k.overrun cfg) :=
  goCheck_kept cfg (clearFrame_kept _ k)

/-- A whole frame takes as waiting what it took as stored: its body and 4 bytes (R148). -/
theorem afterStore_kept (cfg : LinkSettings) (k : LinkState) : LinkKept k (k.afterStore cfg) := by
  unfold afterStore
  simp only
  split
  · exact .refl k
  · split
    · exact .refl k
    · split
      · exact .of_eq rfl rfl rfl rfl rfl
      · exact discard_kept _ _
  · split
    · exact .refl k
    · exact .of_eq rfl rfl rfl rfl rfl
  · split
    · exact .refl k
    next hlen =>
      split
      · refine .of_le ?_ (Nat.le_refl _) (Nat.le_refl _) rfl
        simp only [occupancy, clearFrame, List.map_append, List.sum_append, List.map_cons, List.map_nil,
          List.sum_cons, List.sum_nil, List.length_nil, slice, List.length_take, List.length_drop]
        omega
      · exact discard_kept _ _

/-- A byte is stored only where there is room for it (R150). -/
theorem storeByte_kept (cfg : LinkSettings) (b : Byte) (k : LinkState) : LinkKept k (k.storeByte cfg b) := by
  unfold storeByte
  split
  · exact overrun_kept _ _
  next h =>
    have hs : LinkKept k { k with stored := k.stored ++ [b], escape := false } := by
      refine ⟨fun ⟨h1, _, h3⟩ => ⟨h1, ?_, h3⟩, rfl⟩
      simp only [occupancy, List.length_append, List.length_cons, List.length_nil] at h ⊢
      omega
    exact hs.trans ((holdCheck_kept cfg _).trans (afterStore_kept cfg _))

theorem frameByte_kept (cfg : LinkSettings) (b : Byte) (k : LinkState) : LinkKept k (k.frameByte cfg b) := by
  unfold frameByte
  split
  · split
    · exact storeByte_kept _ _ _
    · exact discard_kept _ _
  · split
    · exact .of_eq rfl rfl rfl rfl rfl
    · split
      · exact (discard_kept cfg k).trans (.of_eq rfl rfl rfl rfl rfl)
      · split
        · exact discard_kept _ _
        · exact storeByte_kept _ _ _

theorem receive_kept (cfg : LinkSettings) (b : RxByte) (k : LinkState) : LinkKept k (k.receive cfg b) := by
  unfold receive
  split
  · split
    · split
      · exact .of_le (by simp [occupancy]) (Nat.le_refl _) (Nat.le_refl _) rfl
      · exact .refl k
    · exact .refl k
    · exact frameByte_kept _ _ _
    · exact discard_kept _ _
  · exact .refl k

theorem take_kept (cfg : LinkSettings) (k : LinkState) : LinkKept k (k.take cfg) := by
  refine goCheck_kept cfg (.of_le ?_ (Nat.le_refl _) (Nat.le_refl _) rfl)
  cases h : k.waiting <;> simp [occupancy, h]

/-! ### Settings, disable and enable -/

theorem turnOff_kept (k : LinkState) : LinkKept k k.turnOff := by
  have h := turnOff_turnedOff k
  obtain ⟨_, _, hs, hw⟩ := h.receiver
  obtain ⟨_, ht, hc⟩ := h.kept
  exact .of_le (by simp [occupancy, hs, hw]) (by simp [replyBytes, h.replies]) (Nat.le_of_eq ht) hc

theorem turnOn_kept (k : LinkState) : LinkKept k k.turnOn :=
  sendCtrl_kept _ (.of_le (by simp [occupancy, clearFrame]) (Nat.le_refl _) (Nat.le_refl _) rfl)

theorem changeRate_kept (old new : LinkSettings) (k : LinkState) : LinkKept k (changeRate old new k) := by
  unfold changeRate
  split
  · exact .refl k
  · exact .of_eq rfl rfl rfl rfl rfl

theorem changeEnable_kept (carrying : Bool) (old new : LinkSettings) (k : LinkState) :
    LinkKept k (changeEnable carrying old new k) := by
  unfold changeEnable
  split
  · split
    · exact nextByte_kept (.of_eq rfl rfl rfl rfl rfl)
    · exact turnOn_kept k
  · split
    · split
      · exact .of_eq rfl rfl rfl rfl rfl
      · exact turnOff_kept k
    · exact .refl k

theorem changeLevels_kept (old new : LinkSettings) (k : LinkState) : LinkKept k (changeLevels old new k) := by
  unfold changeLevels
  split
  · exact goCheck_kept _ (holdCheck_kept _ _)
  · exact .refl k

theorem reconfigure_kept (carrying : Bool) (old new : LinkSettings) (k : LinkState) :
    LinkKept k (reconfigure carrying old new k) :=
  (changeRate_kept old new k).trans ((changeEnable_kept carrying old new _).trans (changeLevels_kept old new _))

theorem applyRate_kept (k : LinkState) : LinkKept k k.applyRate := by
  unfold applyRate
  split
  · exact .refl k
  · split
    · exact nextByte_kept (.of_eq rfl rfl rfl rfl rfl)
    · exact .refl k

end LinkState

/-! ### What a row does to its link -/

theorem countRefusal_kept (k : LinkState) : LinkKept k (countRefusal k) := .of_eq rfl rfl rfl rfl rfl

theorem countNotForUs_kept (k : LinkState) : LinkKept k (countNotForUs k) := .of_eq rfl rfl rfl rfl rfl

theorem countTimedFailure_kept (k : LinkState) : LinkKept k (countTimedFailure k) := .of_eq rfl rfl rfl rfl rfl

theorem spendToken_kept (k : LinkState) : LinkKept k (spendToken k) :=
  .of_le (Nat.le_refl _) (Nat.le_refl _) (Nat.sub_le _ _) rfl

/-- A link gains a token only below 32 (R158). -/
theorem gainToken_size (cfg : LinkSettings) {k : LinkState} (h : k.withinSize) : (gainToken cfg k).withinSize := by
  obtain ⟨ht, hi, hr⟩ := h
  unfold gainToken
  split
  · refine ⟨?_, hi, hr⟩
    simp only
    split <;> omega
  · exact ⟨ht, hi, hr⟩

/-- The token count stays below the interval, or stands as it did (R158). -/
theorem gainToken_tokenCount (cfg : LinkSettings) (k : LinkState) :
    (gainToken cfg k).tokenCount = 0 ∨ (gainToken cfg k).tokenCount < cfg.interval := by
  unfold gainToken
  split
  · exact .inl rfl
  · exact .inr (by simp only; omega)

end Sys2Proof.Machine

/-! SUPPORT. What a step can do, said once: every step is a run of elementary acts on one block at a time. -/

namespace Sys2Proof.Machine

/-! ### Acts on one lane, one output's content, one cue line -/

/-- What can happen to the lane of an output whose settings are `cfg`. -/
inductive LaneAct (cfg : OutSettings) : Lane → Lane → Prop
  | cell (ln : Lane) (a : Assembler) : LaneAct cfg ln { ln with asm := a }
  | start (ln : Lane) : LaneAct cfg ln { ln with run := true, seq := ln.seq.startRun, sched := ln.sched.startRun }
  | leave (ln : Lane) :
      LaneAct cfg ln { ln with run := false, seq := ln.seq.leaveRun, asm := { ln.asm with cell := none } }
  | sequence (ln : Lane) (chosen : Option ClaimRef) : LaneAct cfg ln (ln.modSeq (Sequencer.boundary cfg chosen))
  | restamp (ln : Lane) (f : ClaimRef → ClaimRef) :
      LaneAct cfg ln { ln with seq := { ln.seq with current := ln.seq.current.map f } }
  | view (ln : Lane) (held : List Claim) : LaneAct cfg ln (ln.modSeq (Sequencer.writeView held))
  | burst (ln : Lane) (n : Nat) (h : n ≤ ln.seq.burst) : LaneAct cfg ln { ln with seq := { ln.seq with burst := n } }
  | tally (ln : Lane) (k : SeqCounters) : LaneAct cfg ln { ln with seq := { ln.seq with counters := k } }
  | sched (ln : Lane) (k : Scheduler) (h : ln.sched.withinSize → k.withinSize) : LaneAct cfg ln { ln with sched := k }

theorem LaneAct.refl (cfg : OutSettings) (ln : Lane) : LaneAct cfg ln ln := .cell ln ln.asm

/-- What can happen to the content of an output; `C` holds of the commands whose values reach it. -/
inductive OutAct (C : TimedCmd → Prop) : OutContent → OutContent → Prop
  | stageLabel (o : OutContent) {v : Variant} {lab : Label} (h : C (.label v lab)) : OutAct C o (o.stageLabel v lab)
  | stageText (o : OutContent) {v : Variant} {chars : List Byte} (h : C (.text v chars)) :
      OutAct C o (o.stageText v chars)
  | stageFreqs (o : OutContent) {codes : List Nat} (h : C (.freqlist codes)) : OutAct C o (o.stageFreqs codes)
  | source (o : OutContent) (src req : Source) (k : ContentCounters) :
      OutAct C o { o with source := src, requested := req, counters := k }
  | cycle (o : OutContent) (slot : SlotId) (seg : Bool) : OutAct C o { o with nbSlot := slot, nbSeg := seg }
  | commitTexts (o : OutContent) : OutAct C o o.commitText.commitFreqs
  | commitLabel (o : OutContent) : OutAct C o o.commitLabel
  | advanceLabel (o : OutContent) : OutAct C o o.advanceLabel
  | advanceText (o : OutContent) (h : o.shownText ≠ []) : OutAct C o o.advanceText
  | advanceFreqs (o : OutContent) (h : o.freqs ≠ []) : OutAct C o o.advanceFreqs
  | startRun (o : OutContent) : OutAct C o o.startRun

theorem OutAct.refl (C : TimedCmd → Prop) (o : OutContent) : OutAct C o o := .cycle o o.nbSlot o.nbSeg

/-- What can happen to the debounce counter of a cue line whose settings are `cfg` (R121). -/
def CueKept (cfg : CueSettings) (k k' : CueLine) : Prop :=
  k'.debounce = k.debounce ∨ k'.debounce = 0 ∨ k'.debounce < cfg.debounce

/-- What can happen to a neighbour slot. -/
inductive SlotAct (C : TimedCmd → Prop) (old : Option Neighbour) : Option Neighbour → Prop
  | free : SlotAct C old none
  | write {slot : SlotId} {r : Neighbour} (h : C (.neighbour slot r.identity r.freq r.carriers r.link r.label))
      (hc : r.carriers ≠ 0) : SlotAct C old (some r)
  | flags {r : Neighbour} (f : Flags3) (h : old = some r) : SlotAct C old (some { r with ext := f })

/-- What can happen to the settings, one command at a time. -/
inductive SettingsAct (C : TimedCmd → Prop) (g : Settings) : Settings → Prop
  | other (sites : Table 16 SiteSlot) (sets : Table 8 (BitVec 256)) (routes : Table 16 RouteEntry) (m : Mask)
      (mode : TimingMode) (monitor : Option OutId) :
      SettingsAct C g { g with sites := sites, groupSets := sets, routes := routes, defaultMask := m, mode := mode
                               monitor := monitor }
  | output {p : OutId} {x : OutSettings} (hi : x.intervals = (g.outputs.get p).intervals) (hn : x.netId ≠ 0)
      (hl : x.lead ≤ 200) (ht : x.trail ≤ 200) (hb : 1 ≤ x.burst ∧ x.burst ≤ 8) :
      SettingsAct C g { g with outputs := g.outputs.set p x }
  | cue (c : LineId) {x : CueSettings} (h : x.inRange) : SettingsAct C g { g with cues := g.cues.set c x }
  | link (l : LinkId) {x : LinkSettings} (h : x.inRange) : SettingsAct C g { g with links := g.links.set l x }
  | interval (m : Mask) {sv : Service} {v : Nat} (h : C (.setInterval sv v)) :
      SettingsAct C g { g with
        outputs := .tabulate fun p =>
          if inMask m p then { g.outputs.get p with intervals := (g.outputs.get p).intervals.set sv.index v }
          else g.outputs.get p }

/-- Where the values of a claim come from: a CLAIM, or the template of a cue line (R89, R93). -/
inductive NewcomerFrom (C : TimedCmd → Prop) (g : Settings) (n : Newcomer) : Prop
  | command {number : Byte} {cls : ClaimClass} {group : Byte}
      (h : C (.claim number cls n.priority group n.holdLimit n.waitLimit)) : NewcomerFrom C g n
  | template {c : LineId} (hp : n.priority = (g.cues.get c).priority) (hh : n.holdLimit = (g.cues.get c).holdLimit)
      (hw : n.waitLimit = (g.cues.get c).waitLimit) : NewcomerFrom C g n

/-- A claim keeps its key and limits while its stamp, its statuses and its times move. -/
structure SameClaim (c d : Claim) : Prop where
  key : d.key = c.key
  priority : d.priority = c.priority
  holdLimit : d.holdLimit = c.holdLimit
  waitLimit : d.waitLimit = c.waitLimit

/-- A pool record keeps its key, spacing and repeats while its next-eligible counts move. -/
structure SameRecord (r r' : PoolRecord) : Prop where
  key : r'.key = r.key
  spacing : r'.spacing = r.spacing
  repeats : r'.repeats = r.repeats

/-! ### Acts on the state -/

/-- An elementary act. `C` holds of every timed command whose values reach an owner. -/
inductive Act (C : TimedCmd → Prop) : State → State → Prop
  | powerOn (s : State) (rate1 rate0 : Bool) : Act C s (powerOnState rate1 rate0 s)
  | reset (s : State) : Act C s (retainedReset s)
  | draws (s : State) (n : Nat) : Act C s { s with draws := n }
  | tb (s : State) (t : Timebase) (h : s.tb.withinSize → t.withinSize) : Act C s { s with tb := t }
  | lanes (s : State) (t : Table 4 Lane) (h : ∀ p, LaneAct (s.outCfg p) (s.lane p) (t.get p)) :
      Act C s { s with lanes := t }
  | monitor (s : State) (m : Monitor) : Act C s { s with monitor := m }
  | outs (s : State) (t : Table 4 OutContent) (h : ∀ p, OutAct C (s.out p) (t.get p)) :
      Act C s { s with content := { s.content with outs := t } }
  | neighbour (s : State) (slot : SlotId) (r : Option Neighbour) (h : SlotAct C (s.content.neighbours.get slot) r) :
      Act C s (setNeighbour slot r s)
  | prevAn (s : State) (t : Table 8 (Option Bool)) : Act C s { s with content := { s.content with prevAn := t } }
  | claimEnters (s : State) {n : Newcomer} (m : ClaimManager) {left : List Claim} {f : Claim → Claim} {stamp : Counter}
      (ht : m.table = left ++ [n.claim stamp]) (hl : left.Sublist (s.claims.table.map f)) (hf : ∀ c, SameClaim c (f c))
      (free : claimHeld s n.key = none) (room : left.length < 8 ∨ left.length < s.claims.table.length)
      (h : NewcomerFrom C s.settings n) : Act C s { s with claims := m }
  | claimEnds (s : State) (c : Claim) (reason : EndReason) (count : Count) : Act C s (endClaim c reason count s)
  | claimsMove (s : State) (f : Claim → Claim) (next : Counter) (h : ∀ c, SameClaim c (f c)) :
      Act C s { s with claims := { s.claims with table := s.claims.table.map f, nextStamp := next } }
  | claimCounters (s : State) (k : ClaimCounters) : Act C s { s with claims := { s.claims with counters := k } }
  | recordEnters (s : State) {key : Word} {content : BitVec 48} {reps spacing : Nat} (m : Mask) (count : Count)
      (h : C (.tmsgAdd key content reps spacing)) (free : ∀ r ∈ s.pool.records, r.key ≠ key)
      (room : s.pool.records.length < 32) :
      Act C s (s.modPool fun rs => rs ++ [newRecord key content reps spacing m count])
  | recordReplaced (s : State) {key : Word} {content : BitVec 48} {reps spacing : Nat} (m : Mask) (count : Count)
      (h : C (.tmsgAdd key content reps spacing)) (i : Nat) (hi : ∀ r, s.pool.records[i]? = some r → r.key = key) :
      Act C s (s.modPool fun rs => rs.set i (newRecord key content reps spacing m count))
  | recordLeaves (s : State) (i : Nat) : Act C s (s.modPool fun rs => rs.eraseIdx i)
  | recordsMove (s : State) (f : PoolRecord → PoolRecord) (h : ∀ r, SameRecord r (f r)) :
      Act C s (s.modPool (List.map f))
  | recordSent (s : State) (c : Count) (p : OutId) : Act C s (s.modPool (sendFirst c p))
  | poolCounters (s : State) (k : PoolCounters) : Act C s { s with pool := { s.pool with counters := k } }
  | entryQueued (s : State) (n : Count) (e : QueueEntry) (h : C e.cmd) (room : s.queue.entries.length < 32) :
      Act C s (s.setEntries (insertEntry n e s.queue.entries))
  | entriesLeave (s : State) (es : List QueueEntry) (h : es.Sublist s.queue.entries) : Act C s (s.setEntries es)
  | queueRecords (s : State) (results : Table 4 (Option TimedResult)) (k : QueueCounters) :
      Act C s { s with queue := { s.queue with results := results, counters := k } }
  | cues (s : State) (t : Table 8 CueLine) (h : ∀ c, CueKept (s.cueCfg c) (s.cue c) (t.get c)) :
      Act C s { s with cues := t }
  | links (s : State) (t : Table 4 LinkState) (h : ∀ l, LinkKept (s.link l) (t.get l)) : Act C s { s with links := t }
  | tokens (s : State) : Act C s (gainTokens s)
  | router (s : State) (r : RouterCounters) : Act C s { s with router := r }
  | fault (s : State) (f : FaultFlag) : Act C s (s.raiseFault f)
  | faultsCleared (s : State) : Act C s s.clearFaultFlags
  | alertMask (s : State) (m : BitVec 5) : Act C s (s.setAlertMask m)
  | saveBegins (s : State) : Act C s (beginSave s)
  | saveEnds (s : State) (image : List Byte) (h : image = s.store.image ∨ s.store.saving = some image) :
      Act C s { s with store := { s.store with image := image, saving := none } }
  | settings (s : State) (g : Settings) (h : SettingsAct C s.settings g) : Act C s { s with settings := g }
  | reload (s : State) (g : Settings) (c : SavedContent) (image : List Byte) (h : readImage image = some (g, c)) :
      Act C s (State.followAlert { s with settings := g })

/-- A run of elementary acts. -/
inductive Acts (C : TimedCmd → Prop) (s : State) : State → Prop
  | stay : Acts C s s
  | tail {t u : State} (h : Acts C s t) (k : Act C t u) : Acts C s u

namespace Acts

variable {C : TimedCmd → Prop} {s t u : State}

theorem refl (s : State) : Acts C s s := .stay

theorem trans (h : Acts C s t) (k : Acts C t u) : Acts C s u := by
  induction k with
  | stay => exact h
  | tail _ last ih => exact ih.tail last

theorem one (h : Act C s t) : Acts C s t := stay.tail h

/-- What every elementary act preserves, a run of them preserves. -/
theorem induct {P : State → Prop} (hP : ∀ s t, Act C s t → P s → P t) (h : Acts C s t) (hs : P s) : P t := by
  induction h with
  | stay => exact hs
  | tail _ k ih => exact hP _ _ k ih

/-! ### One item of a block -/

theorem modLane {p : OutId} {f : Lane → Lane} (h : LaneAct (s.outCfg p) (s.lane p) (f (s.lane p))) :
    Acts C s (s.modLane p f) := by
  refine one (.lanes s _ fun q => ?_)
  have e : (s.lanes.modify p f).get q = if p = q then f (s.lane q) else s.lane q := Table.get_modify ..
  rw [e]
  split
  next hq => subst hq; exact h
  · exact .refl _ _

theorem modOut {p : OutId} {f : OutContent → OutContent} (h : OutAct C (s.out p) (f (s.out p))) :
    Acts C s (s.modOut p f) := by
  refine one (.outs s _ fun q => ?_)
  have e : (s.content.outs.modify p f).get q = if p = q then f (s.out q) else s.out q := Table.get_modify ..
  rw [e]
  split
  next hq => subst hq; exact h
  · exact .refl _ _

theorem modOuts {m : Mask} {f : OutContent → OutContent} (h : ∀ o, OutAct C o (f o)) : Acts C s (s.modOuts m f) := by
  refine one (.outs s _ fun q => ?_)
  rw [Table.get_tabulate]
  split
  · exact h _
  · exact .refl _ _

theorem modLink {l : LinkId} {f : LinkState → LinkState} (h : ∀ k, LinkKept k (f k)) : Acts C s (s.modLink l f) := by
  refine one (.links s _ fun q => ?_)
  have e : (s.links.modify l f).get q = if l = q then f (s.link q) else s.link q := Table.get_modify ..
  rw [e]
  split
  · exact h _
  · exact .refl _

theorem modCue {c : LineId} {f : CueLine → CueLine} (h : CueKept (s.cueCfg c) (s.cue c) (f (s.cue c))) :
    Acts C s (s.modCue c f) := by
  refine one (.cues s _ fun q => ?_)
  have e : (s.cues.modify c f).get q = if c = q then f (s.cue q) else s.cue q := Table.get_modify ..
  rw [e]
  split
  next hq => subst hq; exact h
  · exact .inl rfl

theorem modTb {f : Timebase → Timebase} (h : s.tb.withinSize → (f s.tb).withinSize) : Acts C s (s.modTb f) :=
  one (.tb s _ h)

/-- A change of a cue line that leaves its debounce counter. -/
theorem modCue_debounce {c : LineId} {f : CueLine → CueLine} (h : ∀ k, (f k).debounce = k.debounce) :
    Acts C s (s.modCue c f) := modCue (.inl (h _))

end Acts

end Sys2Proof.Machine

/-! SUPPORT. The owners' acts on commands, the requests of cue lines and the table changes as runs of elementary acts. -/

namespace Sys2Proof.Machine

variable {C : TimedCmd → Prop}

/-! ### The claim manager -/

theorem SameClaim.refl (c : Claim) : SameClaim c c := ⟨rfl, rfl, rfl, rfl⟩

theorem lowest_mem {cs : List Claim} {d : Claim} (h : lowest cs = some d) : d ∈ cs := by
  induction cs generalizing d with
  | nil => cases h
  | cons c cs ih =>
    unfold lowest at h
    split at h
    · cases h; exact List.mem_cons_self
    next e he =>
      split at h <;> cases h
      · exact List.mem_cons_of_mem _ (ih he)
      · exact List.mem_cons_self

theorem displaceable_mem {s : State} {d : Claim} (h : displaceable s = some d) : d ∈ s.claims.table :=
  (List.mem_filter.1 (lowest_mem h)).1

/-- A newcomer enters among claims of which some may have left. -/
theorem enterTable_acts {n : Newcomer} {s : State} {m : ClaimManager} (hm : m.table.Sublist s.claims.table)
    (free : claimHeld s n.key = none) (room : m.table.length < 8 ∨ m.table.length < s.claims.table.length)
    (h : NewcomerFrom C s.settings n) : Acts C s (enterTable n { s with claims := m }) := by
  unfold enterTable renumber
  simp only
  split
  · have hlanes : Act C s { s with lanes := s.lanes.map fun ln =>
        { ln with seq := { ln.seq with current := ln.seq.current.map (renumberRef m.table) } } } := by
      refine .lanes s _ fun p => ?_
      rw [Table.get_map]
      exact .restamp _ _
    refine (Acts.one hlanes).tail ?_
    refine .claimEnters _ _ rfl (f := fun c => { c with stamp := renumbered m.table c.stamp }) (hm.map _)
      (fun _ => ⟨rfl, rfl, rfl, rfl⟩) free (by simpa using room) h
  · exact .one (.claimEnters s _ rfl (f := id) (by simpa using hm) SameClaim.refl free room h)

theorem admit_acts {n : Newcomer} (count : Count) {s : State} (h : NewcomerFrom C s.settings n) :
    Acts C s (admitClaim n count s).2 := by
  unfold admitClaim
  split
  · exact .refl s
  next hfree =>
    have free : claimHeld s n.key = none := by simpa using hfree
    split
    next hroom => exact enterTable_acts (m := s.claims) (List.Sublist.refl _) free (.inl hroom) h
    · split
      · exact .one (.claimCounters s _)
      next d hd =>
        split
        · refine enterTable_acts (s := s) List.filter_sublist free (.inr ?_) h
          exact List.length_filter_lt_length_iff_exists.2 ⟨d, displaceable_mem hd, by simp⟩
        · exact .one (.claimCounters s _)

theorem cueEntry_acts (c : LineId) (count : Count) (s : State) : Acts C s (cueEntry c count s).2 := by
  unfold cueEntry
  simp only
  split
  · exact .refl s
  · exact admit_acts count (.template (c := c) rfl rfl rfl)

theorem entryRequest_acts (c : LineId) (count : Count) (s : State) : Acts C s (entryRequest c count s) := by
  have h := cueEntry_acts (C := C) c count s
  unfold entryRequest
  simp only
  split <;> next e => rw [e] at h; exact h.trans (.modCue_debounce fun _ => rfl)

theorem retryRequest_acts (c : LineId) (count : Count) (s : State) : Acts C s (retryRequest c count s) := by
  have h := cueEntry_acts (C := C) c count s
  unfold retryRequest
  split <;> next e => rw [e] at h; first | exact h | exact h.trans (.modCue_debounce fun _ => rfl)

theorem retriggerRequest_acts (c : LineId) (s : State) : Acts C s (retriggerRequest c s) := by
  unfold retriggerRequest
  split
  · exact .modCue_debounce fun _ => rfl
  next held _ =>
    refine .trans (.one (.claimsMove s (fun d => if d.key = held.key then { d with holdUsed := 0 } else d)
      s.claims.nextStamp fun d => ?_)) (.modCue_debounce fun _ => rfl)
    split <;> exact ⟨rfl, rfl, rfl, rfl⟩

theorem finishRequest_acts (c : LineId) (count : Count) (s : State) : Acts C s (finishRequest c count s) := by
  have hp : Acts C s (s.modCue c fun k => { k with pending := false }) := .modCue_debounce fun _ => rfl
  unfold finishRequest
  simp only
  split
  · exact hp
  · exact hp.tail (.claimEnds _ _ _ _)

theorem cueRequest_acts (c : LineId) (r : CueRequest) (count : Count) (s : State) :
    Acts C s (cueRequest c r count s) := by
  cases r with
  | entry => exact entryRequest_acts c count s
  | retrigger => exact retriggerRequest_acts c s
  | finish => exact finishRequest_acts c count s

theorem expire_acts (k : ClaimKey) (count : Count) (s : State) : Acts C s (expire k count s) := by
  unfold expire
  split
  · exact .refl s
  · split
    · exact .refl s
    · exact .one (.claimEnds _ _ _ _)

theorem clearDue_acts (c : LineId) (s : State) : Acts C s (clearDue c s) := .modCue_debounce fun _ => rfl

theorem takeChange_acts (count : Count) (ch : Change) (s : State) : Acts C s (takeChange count ch s) := by
  cases ch with
  | expiry k => exact expire_acts k count s
  | request c r => exact (clearDue_acts c s).trans (cueRequest_acts c r count _)
  | retry c => exact retryRequest_acts c count s

/-! ### The owners of commands -/

theorem poolPosition_none {s : State} {key : Word} (h : poolPosition s key = none) :
    ∀ r ∈ s.pool.records, r.key ≠ key := by
  intro r hr
  unfold poolPosition at h
  simp only [ite_eq_right_iff, reduceCtorEq, imp_false, Nat.not_lt] at h
  have := List.findIdx_eq_length.1 (Nat.le_antisymm List.findIdx_le_length h) r hr
  simpa using this

theorem poolPosition_some {s : State} {key : Word} {i : Nat} (h : poolPosition s key = some i) :
    ∀ r, s.pool.records[i]? = some r → r.key = key := by
  intro r hr
  unfold poolPosition at h
  simp only [Option.ite_none_right_eq_some, Option.some.injEq] at h
  obtain ⟨hlt, rfl⟩ := h
  have hr' : s.pool.records[List.findIdx (fun r => r.key == key) s.pool.records] = r := by
    rw [List.getElem?_eq_getElem hlt] at hr
    exact Option.some.inj hr
  have := List.findIdx_getElem (w := hlt)
  rw [hr'] at this
  simpa using this

theorem applyCmd_acts {cmd : TimedCmd} (h : C cmd) (m : Mask) (l : LinkId) (count : Count) (s : State) :
    Acts C s (applyCmd cmd m l count s).state := by
  cases cmd with
  | label v lab => exact .modOuts fun o => .stageLabel o h
  | text v chars => exact .modOuts fun o => .stageText o h
  | freqlist codes => exact .modOuts fun o => .stageFreqs o h
  | neighbour slot identity freq carriers link chars =>
    simp only [applyCmd, applyNeighbour]
    split
    · exact .one (.neighbour s slot none .free)
    next hc => exact .one (.neighbour s slot _ (.write (slot := slot) h hc))
  | neighbourFlags slot flags =>
    simp only [applyCmd, applyNeighbourFlags]
    split
    · exact .refl s
    next r hr =>
      split
      · exact .refl s
      · exact .one (.neighbour s slot _ (.flags flags hr))
  | optoutBegin =>
    simp only [applyCmd, applyOptoutBegin]
    split
    · exact .refl s
    · exact .modOuts fun o => .source o o.source .regional o.counters
  | optoutEnd => exact .modOuts fun o => .source o o.source .network o.counters
  | setInterval sv v => exact .one (.settings s _ (.interval m h))
  | claim number cls priority group hold wait =>
    simp only [applyCmd, applyClaim]
    generalize hn : (Newcomer.mk _ _ _ _ _ _ _ _) = n
    have hs : Acts C s (admitClaim n count s).2 := admit_acts count (by subst hn; exact .command h)
    split <;> next e => rw [e] at hs; exact hs
  | release number =>
    simp only [applyCmd, applyRelease]
    split
    · exact .refl s
    · exact .one (.claimEnds _ _ _ _)
  | tmsgAdd key content reps spacing =>
    simp only [applyCmd, applyTmsgAdd]
    split
    next i hi => exact (Acts.one (.recordReplaced s m count h i (poolPosition_some hi))).tail (.poolCounters _ _)
    next hi =>
      split
      next hroom => exact (Acts.one (.recordEnters s m count h (poolPosition_none hi) hroom)).tail (.poolCounters _ _)
      · exact .one (.poolCounters s _)
  | tmsgCancel key =>
    simp only [applyCmd, applyTmsgCancel]
    split
    · exact .refl s
    · exact (Acts.one (.recordLeaves s _)).tail (.poolCounters _ _)

theorem applyEntry_acts (late : Bool) (count : Count) {e : QueueEntry} (h : C e.cmd) (s : State) :
    Acts C s (applyEntry late count e s) := by
  have ha := applyCmd_acts h e.target e.link count s
  unfold applyEntry
  simp only
  split
  · exact (ha.trans (.modLink countTimedFailure_kept)).tail (.queueRecords _ _ _)
  · exact ha.tail (.queueRecords _ _ _)

/-! ### The queue -/

/-- R132: a timed command enters the queue only where there is room. -/
theorem arrive_acts {cmd : TimedCmd} (h : C cmd) (m : Mask) (l : LinkId) (cell : Count) (tag : Byte) (s : State) :
    Acts C s (arrive cmd m l cell tag s).state := by
  unfold arrive
  simp only
  split
  · exact .one (.queueRecords s _ _)
  · split
    · exact .one (.queueRecords s _ _)
    next hroom =>
      split
      · exact (Acts.one (.entryQueued s s.tb.count
          { cell := cell, link := l, tag := tag, cmd := cmd, target := m } h (by omega))).tail (.queueRecords _ _ _)
      · exact (Acts.one (.entryQueued s s.tb.count
          { cell := s.tb.count + 1, link := l, tag := tag, cmd := cmd, target := m } h (by omega))).tail
            (.queueRecords _ _ _)

theorem takeDue_acts (c : Count) (s : State) : Acts C s (takeDue c s).2 :=
  .one (.entriesLeave s _ List.filter_sublist)

theorem takeLate_acts (last : Count) (d : Nat) (s : State) : Acts C s (takeLate last d s).2 := by
  unfold takeLate
  split
  · exact (Acts.one (.entriesLeave s [] (List.nil_sublist _))).tail (.queueRecords _ _ _)
  · exact .one (.entriesLeave s _ List.filter_sublist)

/-- Every entry taken late stood in the queue. -/
theorem takeLate_mem {last : Count} {d : Nat} {s : State} {e : QueueEntry} (h : e ∈ (takeLate last d s).1) :
    e ∈ s.queue.entries := by
  unfold takeLate at h
  split at h
  · cases h
  · exact (List.mem_filter.1 h).1

theorem takeLate_entries {last : Count} {d : Nat} {s : State} {e : QueueEntry}
    (h : e ∈ (takeLate last d s).2.queue.entries) : e ∈ s.queue.entries := by
  unfold takeLate at h
  split at h
  · cases h
  · exact (List.mem_filter.1 h).1

theorem takeEntries_acts (expected new : Count) (s : State) : Acts C s (takeEntries expected new s).2 := by
  unfold takeEntries
  split
  · exact takeDue_acts new s
  · exact (takeLate_acts _ _ s).trans (takeDue_acts new _)

/-- Every entry a boundary applies stood in the queue. -/
theorem takeEntries_mem {expected new : Count} {s : State} {d : Due} (h : d ∈ (takeEntries expected new s).1) :
    d.entry ∈ s.queue.entries := by
  unfold takeEntries at h
  split at h
  · simp only [takeDue, List.mem_map, List.mem_filter] at h
    obtain ⟨e, ⟨he, _⟩, rfl⟩ := h
    exact he
  · simp only [takeDue, List.mem_append, List.mem_map, List.mem_filter] at h
    obtain ⟨e, he, rfl⟩ | ⟨e, ⟨he, _⟩, rfl⟩ := h
    · exact takeLate_mem he
    · exact takeLate_entries he

theorem applyLate_acts (count : Count) {es : List QueueEntry} (h : ∀ e ∈ es, C e.cmd) (s : State) :
    Acts C s (applyLate count es s) := by
  unfold applyLate
  induction es generalizing s with
  | nil => exact .refl s
  | cons e es ih =>
    exact (applyEntry_acts true count (h e List.mem_cons_self) s).trans
      (ih (fun d hd => h d (List.mem_cons_of_mem _ hd)) _)

/-- The table changes of a boundary (R99, R135), where `C` holds of every entry queued. -/
theorem tableChanges_acts (o : Order) (expected new : Count) {s : State} (h : ∀ e ∈ s.queue.entries, C e.cmd) :
    Acts C s (tableChanges o expected new s) :=
  takeChanges_induct (P := Acts C s) (fun u hu => hu.tail (.draws u _))
    (fun ch u hu => hu.trans (takeChange_acts new ch u)) _ _ _ _
    (fun d hd u hu => hu.trans (applyEntry_acts d.late new (h _ (takeEntries_mem hd)) u)) (takeEntries_acts expected new s)

end Sys2Proof.Machine

/-! SUPPORT. A boundary as a run of elementary acts, stage by stage. -/

namespace Sys2Proof.Machine

variable {C : TimedCmd → Prop}

/-! ### The timebase (R18 to R28) -/

namespace Timebase

/-- R23, R25: the counts stop below their limits, for reaching a limit changes the lock state. -/
theorem judge_size (mode : TimingMode) {t : Timebase} (h : t.withinSize) : (t.judge mode).withinSize := by
  obtain ⟨hb, hq, hh, he⟩ := h
  unfold judge
  split
  · exact ⟨hb, Nat.zero_lt_succ _, Nat.zero_lt_succ _, he⟩
  next hacq =>
    have hnext : mode = .slave → t.lock ≠ .locked → t.nextQual < 20 := by
      intro hm hl
      refine Classical.byContradiction fun hn => ?_
      exact hacq (by simp [acquires, hm, hl]; omega)
    split
    next hup =>
      simp only [givesUp, Bool.and_eq_true, beq_iff_eq] at hup
      obtain ⟨⟨⟨hm, hl⟩, _⟩, _⟩ := hup
      exact ⟨hb, hnext hm (by simp [hl]), Nat.zero_lt_succ _, he⟩
    next hup =>
      split
      next hm =>
        refine ⟨hb, hnext hm.1 hm.2, ?_, he⟩
        refine Classical.byContradiction fun hn => ?_
        simp only [Nat.not_lt] at hn
        by_cases hl : t.lock = .holdover
        · have ha : t.acquires .slave = false := by simpa [hm.1] using hacq
          exact hup (by simpa [givesUp, hm.1, hl, ha] using hn)
        · simp only [nextHoldover, hl, if_false] at hn
          omega
      · exact ⟨hb, hq, hh, he⟩

theorem chooseRate_size (free : Rate) {t : Timebase} (h : t.withinSize) : (t.chooseRate free).withinSize := by
  unfold chooseRate
  split <;> exact h

theorem beginCell_size (c : Count) (arm : Option Count) (marked : Bool) {t : Timebase} (h : t.withinSize) :
    (t.beginCell c arm marked).withinSize := by
  obtain ⟨_, hq, hh, _⟩ := h
  refine ⟨Nat.zero_le _, hq, hh, ?_⟩
  simp only [beginCell]
  split <;> decide

end Timebase

theorem setUp_acts (new : Count) (arm : Option Count) (marked : Bool) (s : State) :
    Acts C s ((judgeCell s).modTb (Timebase.beginCell new arm marked)) := by
  have hj : Acts C s (judgeCell s) := by
    have ht : Act C s (s.modTb fun _ => (s.tb.judge s.settings.mode).chooseRate (Config.freeRate s.draws)) :=
      .tb s _ fun h => Timebase.chooseRate_size _ (Timebase.judge_size _ h)
    unfold judgeCell
    simp only
    split
    · exact (Acts.one ht).tail (.draws _ _)
    · exact .one ht
  exact hj.tail (.tb _ _ (Timebase.beginCell_size new arm marked))

/-- The neighbour bursts and the ages of a run that starts (R67). -/
theorem changeRun_acts (p : OutId) (s : State) : Acts C s (changeRun p s) := by
  unfold changeRun
  split
  · exact (Acts.modLane (.start _)).trans (.modOut (.startRun _))
  · exact .modLane (.leave _)
  · exact .refl s
  · exact .refl s

theorem noteJump_acts (new : Count) (s : State) : Acts C s (noteJump new s) :=
  .tail (.tail (.modTb (f := Timebase.countJump) fun h => h) (.fault _ .timebaseJump))
    (.recordsMove _ (fun r => { r with nextEligible := .replicate 4 new }) fun _ => ⟨rfl, rfl, rfl⟩)

theorem updateSources_acts (s : State) : Acts C s (updateSources s) := by
  refine .one (.outs s _ fun p => ?_)
  rw [Table.get_tabulate]
  exact .source _ _ _ _

theorem holdPool_acts (c : Count) (s : State) : Acts C s (holdPool c s) :=
  .one (.recordsMove s _ fun _ => ⟨rfl, rfl, rfl⟩)

theorem commitTexts_acts (s : State) : Acts C s (commitTexts s) := by
  refine .one (.outs s _ fun p => ?_)
  rw [Table.get_tabulate]
  split
  · exact .commitTexts _
  · exact .refl _ _

/-! ### The sequencers and the claims (R85, R98, R105 to R112) -/

theorem sequence_acts (p : OutId) (s : State) : Acts C s (sequence p s) := by
  unfold sequence
  split
  · exact .modLane (.sequence _ _)
  · exact .refl s

theorem advanceClaims_acts (s : State) : Acts C s (advanceClaims s) :=
  .one (.claimsMove s _ s.claims.nextStamp fun _ => ⟨rfl, rfl, rfl, rfl⟩)

theorem writeViews_acts (s : State) : Acts C s (writeViews s) := by
  refine .one (.lanes s _ fun p => ?_)
  rw [Table.get_map]
  have e : s.lanes.get p = s.lane p := rfl
  rw [e]
  split
  · exact .view _ _
  · exact .refl _ _

/-! ### The schedulers (R58 to R66) -/

namespace Scheduler

theorem advanceAges_size {k : Scheduler} (h : k.withinSize) : k.advanceAges.withinSize := by
  intro i
  refine ⟨?_, (h i).2⟩
  simp only [advanceAges, Table.get_map]
  omega

theorem startBurst_size {k : Scheduler} (h : k.withinSize) : k.startBurst.withinSize := by
  unfold startBurst
  split <;> exact h

theorem checkBurst_size (valid : SlotId → Bool) {k : Scheduler} (h : k.withinSize) : (k.checkBurst valid).withinSize := by
  unfold checkBurst
  split
  · exact h
  · split <;> exact h

/-- R65: the winner's age returns to 0 and is the largest at most. -/
theorem sendEntry_size (intervals : Table 6 Nat) (sv : Service) {k : Scheduler} (h : k.withinSize) :
    (k.sendEntry intervals sv).withinSize := by
  intro i
  simp only [sendEntry, Table.get_set, Table.get_modify]
  have hi := h i
  have hs := h sv.index
  split
  · omega
  · exact hi

end Scheduler

/-- R63: the winner of the contest is one of the candidates. -/
theorem pickMost_mem {u : Service → Nat} {svs : List Service} {sv : Service} (h : pickMost u svs = some sv) :
    sv ∈ svs := by
  induction svs generalizing sv with
  | nil => cases h
  | cons x xs ih =>
    unfold pickMost at h
    split at h
    · cases h; exact List.mem_cons_self
    next w hw =>
      split at h <;> cases h
      · exact List.mem_cons_of_mem _ (ih hw)
      · exact List.mem_cons_self

/-- A service that takes a cell by the contest is ready and enabled (R63). -/
theorem winner_candidate {s : State} {p : OutId} {sv : Service} (h : winner s p = .service sv) :
    candidate s p sv = true := by
  unfold winner at h
  split at h
  · cases h
  · split at h
    · cases h
    · split at h
      next w hw =>
        cases h
        exact (List.mem_filter.1 (pickMost_mem hw)).2
      · cases h

theorem candidate_ready {s : State} {p : OutId} {sv : Service} (h : candidate s p sv = true) : ready s p sv = true :=
  (Bool.and_eq_true_iff.1 h).1

theorem fixCell_acts (p : OutId) (k : CellKind) (payload : List Byte) (s : State) :
    Acts C s (fixCell p k payload s) := .modLane (.cell _ _)

theorem neighbourCell_acts (p : OutId) (slot : SlotId) (second : Bool) (s : State) :
    Acts C s (neighbourCell p slot second s) := by
  unfold neighbourCell
  split <;> exact fixCell_acts _ _ _ _

theorem advanceCycle_act (slot : SlotId) (second : Bool) (o : OutContent) : OutAct C o (advanceCycle slot second o) := by
  unfold advanceCycle
  split <;> exact .cycle _ _ _

theorem fixCell_out (p q : OutId) (k : CellKind) (payload : List Byte) (s : State) :
    (fixCell p k payload s).out q = s.out q := rfl

theorem serviceCell_acts (held : List Claim) {p : OutId} {sv : Service} {s : State}
    (ht : sv = .text → (s.out p).shownText ≠ []) (hf : sv = .freq → (s.out p).freqs ≠ []) :
    Acts C s (serviceCell held p sv s) := by
  cases sv with
  | announce => exact fixCell_acts _ _ _ _
  | tmsg =>
    simp only [serviceCell]
    split
    · exact fixCell_acts _ _ _ _
    · exact (Acts.one (.recordSent s _ _)).trans (fixCell_acts _ _ _ _)
  | label =>
    exact ((Acts.modOut (.commitLabel _)).trans (fixCell_acts _ _ _ _)).trans (.modOut (.advanceLabel _))
  | freq => exact (fixCell_acts _ _ _ _).trans (.modOut (.advanceFreqs _ (hf rfl)))
  | neighbour =>
    simp only [serviceCell]
    split
    · exact fixCell_acts _ _ _ _
    · exact (neighbourCell_acts _ _ _ _).trans (.modOut (advanceCycle_act _ _ _))
  | text => exact (fixCell_acts _ _ _ _).trans (.modOut (.advanceText _ (ht rfl)))

theorem winnerCell_acts (held : List Claim) {p : OutId} {w : Winner} {s : State}
    (ht : w = .service .text → (s.out p).shownText ≠ []) (hf : w = .service .freq → (s.out p).freqs ≠ []) :
    Acts C s (winnerCell held p w s) := by
  cases w with
  | announceBurst => exact fixCell_acts _ _ _ _
  | neighbourBurst b => exact neighbourCell_acts _ _ _ _
  | service sv => exact serviceCell_acts held (fun h => ht (by rw [h])) (fun h => hf (by rw [h]))
  | filler => exact fixCell_acts _ _ _ _

theorem beforeChoice_acts (p : OutId) (s : State) : Acts C s (beforeChoice p s) :=
  .modLane (.sched _ _ fun h => Scheduler.checkBurst_size _ (Scheduler.startBurst_size (Scheduler.advanceAges_size h)))

theorem afterChoice_acts (p : OutId) (w : Winner) (s : State) : Acts C s (afterChoice p w s) := by
  have entry (sv : Service) (u : State) :
      Acts C u (u.modLane p (Lane.modSched (Scheduler.sendEntry (s.outCfg p).intervals sv))) :=
    .modLane (.sched _ _ (Scheduler.sendEntry_size _ sv))
  unfold afterChoice
  cases w with
  | announceBurst =>
    have hb : Acts C s (s.modLane p (Lane.modSeq fun q => { q with burst := q.burst - 1 })) :=
      .modLane (.burst _ _ (Nat.sub_le _ _))
    have h := hb.trans (entry .announce _)
    rw [State.modLane_modLane] at h
    exact h
  | neighbourBurst b =>
    have hb : Acts C s (s.modLane p (Lane.modSched (Scheduler.stepBurst b))) := .modLane (.sched _ _ fun h => h)
    have h := hb.trans (entry .neighbour _)
    rw [State.modLane_modLane] at h
    exact h
  | service sv => exact entry sv s
  | filler => exact .modLane (.refl _ _)

theorem schedule_acts (held : List Claim) (p : OutId) (s : State) : Acts C s (schedule held p s) := by
  unfold schedule
  split
  · have hready {sv : Service} (h : winner (beforeChoice p s) p = .service sv) := candidate_ready (winner_candidate h)
    refine ((beforeChoice_acts p s).trans (afterChoice_acts p _ _)).trans (winnerCell_acts held (fun h => ?_) fun h => ?_)
    · have e : ((beforeChoice p s).out p).shownText ≠ [] := by simpa [ready] using hready h
      exact e
    · have e : ((beforeChoice p s).out p).freqs ≠ [] := by simpa [ready] using hready h
      exact e
  · exact .refl s

theorem requestBursts_acts (first : Bool) (p : OutId) (s : State) : Acts C s (requestBursts first p s) := by
  unfold requestBursts
  split
  · split
    · exact .refl s
    · exact .modLane (.sched _ _ fun h => h)
  · exact .refl s

/-! ### The pins (R11, R15) -/

theorem followMonitor_acts (s : State) : Acts C s (followMonitor s) := .one (.monitor s _)

theorem beginBits_acts (i : Nat) (s : State) : Acts C s (beginBits i s) := by
  refine .trans (.one (.lanes s (s.lanes.map fun ln => { ln with asm := ln.asm.beginBit i }) fun p => ?_))
    (followMonitor_acts _)
  rw [Table.get_map]
  exact .cell _ _

theorem middle_acts (s : State) : Acts C s (middle s) := by
  refine .trans (.one (.lanes s (s.lanes.map fun ln => { ln with asm := ln.asm.middle }) fun p => ?_))
    (followMonitor_acts _)
  rw [Table.get_map]
  exact .cell _ _

/-! ### The whole -/

theorem fillCells_acts (s : State) : Acts C s (fillCells s) := by
  have hseq : Acts C s (s.eachOut sequence) :=
    eachOut_induct (P := Acts C s) _ (fun p u h => h.trans (sequence_acts p u)) (.refl s)
  have hviews := (hseq.trans (advanceClaims_acts _)).trans (writeViews_acts _)
  exact eachOut_induct (P := Acts C s) _ (fun p u h => h.trans (schedule_acts _ p u)) hviews

theorem compareNeighbours_acts (first : Bool) (s : State) : Acts C s (compareNeighbours first s) := by
  have h : Acts C s (s.eachOut (requestBursts first)) :=
    eachOut_induct (P := Acts C s) _ (fun p u h => h.trans (requestBursts_acts first p u)) (.refl s)
  exact h.tail (.prevAn _ _)

theorem beforeTables_acts (expected new : Count) (arm : Option Count) (marked : Bool) (s : State) :
    Acts C s (beforeTables expected new arm marked s) := by
  have hrun : Acts C s (((judgeCell s).modTb (Timebase.beginCell new arm marked)).eachOut changeRun) :=
    eachOut_induct (P := Acts C s) _ (fun p u h => h.trans (changeRun_acts p u)) (setUp_acts new arm marked s)
  unfold beforeTables
  simp only
  split
  · exact hrun
  · exact hrun.trans (noteJump_acts new _)

/-- A boundary (R19), where `C` holds of every entry queued. -/
theorem boundaryAt_acts (o : Order) (expected new : Count) (arm : Option Count) (marked : Bool) {s : State}
    (h : ∀ e ∈ s.queue.entries, C e.cmd) : Acts C s (boundaryAt o expected new arm marked s) := by
  have htables := (beforeTables_acts (C := C) expected new arm marked s).trans
    (tableChanges_acts o expected new (by rwa [beforeTables_entries]))
  have hcells : Acts C s (beforeCells o expected new arm marked s) :=
    ((htables.trans (updateSources_acts _)).trans (holdPool_acts new _)).trans (commitTexts_acts _)
  have hfill := (hcells.trans (fillCells_acts _)).trans (compareNeighbours_acts (s.tb.start != .running) _)
  rw [boundaryAt_eq]
  exact ((hfill.tail (.tokens _)).tail (.monitor _ _)).trans (beginBits_acts 0 _)

theorem boundary_acts (o : Order) {s : State} (h : ∀ e ∈ s.queue.entries, C e.cmd) : Acts C s (boundary o s) :=
  boundaryAt_acts o _ _ _ _ h

/-! ### Strobes (R28 to R30) -/

theorem countAligned_acts (s : State) : Acts C s (countAligned s) := .one (.tb s _ fun h => h)

/-- The entries that a jump inside a cell passes leave the queue and are applied at once (R139). -/
theorem lateEntries_acts (last count : Count) (d : Nat) {s : State} (h : ∀ e ∈ s.queue.entries, C e.cmd) :
    Acts C s (applyLate count (takeLate last d s).1 (takeLate last d s).2) :=
  (takeLate_acts last d s).trans (applyLate_acts count (fun e he => h e (takeLate_mem he)) _)

theorem strobeFirstBit_acts {s : State} (h : ∀ e ∈ s.queue.entries, C e.cmd) : Acts C s (strobeFirstBit s) := by
  unfold strobeFirstBit
  split
  · exact countAligned_acts s
  · have hmark : Acts C s (s.modTb fun t => { t with markThis := true, arm := none }) := .one (.tb s _ fun h => h)
    simp only
    split
    · exact hmark.trans (countAligned_acts _)
    · refine .trans ?_ (lateEntries_acts _ _ _ (by rw [noteJump_queue]; exact h))
      refine .trans ?_ (noteJump_acts _ _)
      refine hmark.trans (.modTb fun ⟨hb, hq, hh, he⟩ => ⟨hb, hq, hh, ?_⟩)
      simp only
      split
      · exact Nat.le_refl _
      · exact he

theorem strobeLastBit_acts (s : State) : Acts C s (strobeLastBit s) := by
  unfold strobeLastBit
  split
  · exact countAligned_acts s
  · have hmark : Acts C s (s.modTb fun t => { t with
        markNext := some (s.tb.strobeCount (s.tb.count + 1)), arm := none }) := .one (.tb s _ fun h => h)
    simp only
    split
    · exact hmark.trans (countAligned_acts _)
    · exact hmark

theorem cutCells_acts (s : State) : Acts C s (cutCells s) := by
  refine .one (.lanes s _ fun p => ?_)
  rw [Table.get_map]
  have e : s.lanes.get p = s.lane p := rfl
  rw [e]
  split
  · exact .cell _ _
  · exact .refl _ _

theorem strobeCut_acts {s : State} (h : ∀ e ∈ s.queue.entries, C e.cmd) : Acts C s (strobeCut s) := by
  refine .trans ?_ (boundaryAt_acts _ _ _ _ _ h)
  exact .trans (.modTb fun h => h) (cutCells_acts _)

end Sys2Proof.Machine

/-! SUPPORT. The values that pass a check are within their ranges (R38 to R41, R49, R73, R89, R162 to R164), and so are
those a valid image holds (R178). -/

namespace Sys2Proof.Machine

/-! ### Settings of one output, cue line, link -/

/-- What SET_OUTPUT's bytes give once they pass (R163). -/
theorem outputOf_ok {iv : Table 6 Nat} {bs : List Byte} {x : OutSettings} {adj : Bool}
    (h : outputOf iv bs = .ok (x, adj)) :
    x.intervals = iv ∧ x.netId ≠ 0 ∧ x.lead ≤ 200 ∧ x.trail ≤ 200 ∧ 1 ≤ x.burst ∧ x.burst ≤ 8 := by
  unfold outputOf at h
  simp only [bad, pass] at h
  split at h
  · cases h
  next hn =>
    cases h
    exact ⟨rfl, hn, Nat.min_le_right _ _, Nat.min_le_right _ _, le_clamp (by decide), clamp_le (by decide)⟩

theorem cueOf_ok {bs : List Byte} {x : CueSettings} {adj : Bool} (h : cueOf bs = .ok (x, adj)) : x.inRange := by
  unfold cueOf at h
  simp only [bad, pass] at h
  split at h
  · cases h
    exact ⟨le_clamp (by decide), clamp_le (by decide), Nat.min_le_right _ _, Nat.min_le_right _ _,
      Nat.min_le_right _ _⟩
  · cases h

theorem linkOf_ok {bs : List Byte} {x : LinkSettings} {adj : Bool} (h : linkOf bs = .ok (x, adj)) : x.inRange := by
  unfold linkOf at h
  simp only [bad, pass] at h
  split at h
  · cases h
  · cases h
    have hp : 64 ≤ clamp 64 1008 (natAt bs 3 2) := le_clamp (by decide)
    refine ⟨hp, clamp_le (by decide), ?_, le_clamp (by decide), clamp_le (by decide)⟩
    simp only
    omega

theorem checkSetOutput_ok {iv : OutId → Table 6 Nat} {ps : List Byte} {p : OutId} {x : OutSettings} {adj : Bool}
    (h : checkSetOutput iv ps = .ok ((p, x), adj)) : outputOf (iv p) (ps.drop 1) = .ok (x, adj) := by
  unfold checkSetOutput at h
  simp only [bad, pass] at h
  repeat' split at h
  all_goals cases h
  assumption

theorem checkSetCue_ok {ps : List Byte} {c : LineId} {x : CueSettings} {adj : Bool}
    (h : checkSetCue ps = .ok ((c, x), adj)) : cueOf (ps.drop 1) = .ok (x, adj) := by
  unfold checkSetCue at h
  simp only [bad, pass] at h
  repeat' split at h
  all_goals cases h
  assumption

theorem checkSetLink_ok {ps : List Byte} {l : LinkId} {x : LinkSettings} {adj : Bool}
    (h : checkSetLink ps = .ok ((l, x), adj)) : linkOf (ps.drop 1) = .ok (x, adj) := by
  unfold checkSetLink at h
  simp only [bad, pass] at h
  repeat' split at h
  all_goals cases h
  assumption

/-! ### Characters and frequency lists -/

theorem cleanChars_printable (bs : List Byte) : (cleanChars bs).all printable = true := by
  simp only [cleanChars, List.all_map, List.all_eq_true, Function.comp_apply]
  intro b _
  split
  · assumption
  · decide

theorem take_printable {bs : List Byte} (n : Nat) (h : bs.all printable = true) : (bs.take n).all printable = true :=
  List.all_eq_true.2 fun b hb => List.all_eq_true.1 h b (List.mem_of_mem_take hb)

theorem dropRepeats_induct {P : List Nat → Prop} (codes : List Nat) (h0 : P [])
    (hs : ∀ kept c, P kept → c ∈ codes → c ∉ kept → P (kept ++ [c])) : P (dropRepeats codes) := by
  unfold dropRepeats
  refine List.foldlRecOn codes _ h0 fun kept hk c hc => ?_
  split
  · exact hk
  next hn => exact hs kept c hk hc (by simpa using hn)

/-- R41: what remains of a list. -/
theorem freqListOf_proper (codes : List Nat) : properFreqs (freqListOf codes) := by
  have h : (dropRepeats (codes.filter isFreqCode)).Nodup ∧
      (dropRepeats (codes.filter isFreqCode)).all isFreqCode = true := by
    refine dropRepeats_induct (P := fun k => k.Nodup ∧ k.all isFreqCode = true) _ (by simp) ?_
    rintro kept c ⟨hn, ha⟩ hc hk
    refine ⟨List.nodup_append.2 ⟨hn, by simp, ?_⟩, ?_⟩
    · rintro a ha' b hb rfl
      rw [List.mem_singleton] at hb
      exact hk (hb ▸ ha')
    · rw [List.all_append, ha]
      simpa using (List.mem_filter.1 hc).2
  refine ⟨⟨List.length_take_le _ _, ?_⟩, h.1.sublist (List.take_sublist _ _)⟩
  exact List.all_eq_true.2 fun c hc => List.all_eq_true.1 h.2 c (List.mem_of_mem_take hc)

theorem slice_length {bs : List Byte} {i k : Nat} (h : bs.length = i + k) : (slice bs i k).length = k := by
  simp [slice, h]

theorem natOf_lt (bs : List Byte) : natOf bs < 256 ^ bs.length := by
  induction bs with
  | nil => decide
  | cons b bs ih =>
    rw [natOf_cons, List.length_cons, Nat.pow_succ]
    have hb : b.toNat + 1 ≤ 256 := b.isLt
    have := Nat.mul_le_mul_right (256 ^ bs.length) hb
    rw [Nat.add_mul] at this
    omega

theorem natAt_lt (bs : List Byte) (i k : Nat) : natAt bs i k < 256 ^ k :=
  Nat.lt_of_lt_of_le (natOf_lt _) (Nat.pow_le_pow_right (by decide) (List.length_take_le _ _))

/-- A key that passes is a key (R72). -/
theorem key_ne_zero {ps : List Byte} {i : Nat} (h : natAt ps i 2 ≠ 0) : BitVec.ofNat 16 (natAt ps i 2) ≠ 0 := by
  intro e
  have := congrArg BitVec.toNat e
  have hlt : natAt ps i 2 < 2 ^ 16 := natAt_lt ps i 2
  rw [BitVec.toNat_ofNat, Nat.mod_eq_of_lt hlt] at this
  exact h this

/-! ### Timed commands as their owners' checks leave them (R131) -/

/-- A command whose values pass its owner's checks is within the ranges of its values. -/
theorem ownerCheck_proper {c : Cmd} {ps : List Byte} {x : TimedCmd} {adj : Bool}
    (h : c.ownerCheck ps = .ok (x, adj)) : x.proper := by
  cases c with
  | label =>
    simp only [Cmd.ownerCheck, checkLabel, bad, pass] at h
    split at h
    · cases h
    next hl =>
      have hlen := slice_length (Classical.not_not.1 hl)
      split at h
      · cases h
      · split at h
        · cases h
        · cases h
          refine ⟨?_, List.length_take_le .., take_printable 18 (cleanChars_printable _), Nat.min_le_right ..⟩
          simp only [List.length_take, cleanChars, List.length_map, hlen]
          omega
  | text =>
    simp only [Cmd.ownerCheck, checkText, bad, pass] at h
    repeat' split at h
    all_goals cases h
    exact ⟨List.length_take_le .., take_printable 60 (cleanChars_printable _)⟩
  | freqlist =>
    simp only [Cmd.ownerCheck, checkFreqlist, bad, pass] at h
    split at h <;> cases h
    exact freqListOf_proper _
  | neighbour =>
    simp only [Cmd.ownerCheck, checkNeighbour, bad, pass] at h
    split at h
    · cases h
    · split at h
      · split at h
        · cases h
        next hid =>
          cases h
          refine ⟨fun h0 => ?_, ?_, List.length_take_le .., take_printable 8 (cleanChars_printable _)⟩
          · refine Classical.byContradiction fun hc => ?_
            exact hid ⟨h0, hc⟩
          · split <;> omega
      · cases h
  | neighbourFlags =>
    simp only [Cmd.ownerCheck, checkNeighbourFlags, bad, pass] at h
    repeat' split at h
    all_goals cases h
    trivial
  | optoutBegin =>
    simp only [Cmd.ownerCheck, checkOptoutBegin, bad, pass] at h
    split at h <;> cases h
    trivial
  | optoutEnd =>
    simp only [Cmd.ownerCheck, checkOptoutEnd, bad, pass] at h
    split at h <;> cases h
    trivial
  | setInterval =>
    simp only [Cmd.ownerCheck, checkSetInterval, bad, pass] at h
    repeat' split at h
    all_goals cases h
    exact Nat.min_le_right _ _
  | claim =>
    simp only [Cmd.ownerCheck, checkClaim, bad, pass] at h
    split at h
    · cases h
    · split at h
      · cases h
      · split at h
        · cases h
        next hp =>
          cases h
          exact ⟨Nat.not_lt.1 hp, Nat.min_le_right _ _, Nat.min_le_right _ _⟩
  | release =>
    simp only [Cmd.ownerCheck, checkRelease, bad, pass] at h
    split at h <;> cases h
    trivial
  | tmsgAdd =>
    simp only [Cmd.ownerCheck, checkTmsgAdd, bad, pass] at h
    split at h
    · cases h
    next hl =>
      split at h
      · cases h
      next hk =>
        split at h
        · cases h
        next hr =>
          cases h
          refine ⟨key_ne_zero hk, ?_, Nat.min_le_right _ _, le_clamp (by decide), clamp_le (by decide)⟩
          omega
  | tmsgCancel =>
    simp only [Cmd.ownerCheck, checkTmsgCancel, bad, pass] at h
    split at h
    · cases h
    · split at h
      · cases h
      next hk => cases h; exact key_ne_zero hk
  | status | readRecord | readCounters | clearFaults | setSite | setGroupset | setRoute | setDefaultRoute | setOutput
  | setCue | setLink | setTiming | setMonitor | setAlert | storeSave | reload | restart | revoke | setEpoch
  | cancelTimed => cases h

end Sys2Proof.Machine

/-! SUPPORT. Every step is a run of elementary acts. -/

namespace Sys2Proof.Machine

variable {C : TimedCmd → Prop}

/-! ### Frames (R148, R152) -/

theorem takeFrame_acts (l : LinkId) (s : State) : Acts C s (takeFrame l s) := .modLink (LinkState.take_kept _)

theorem finishFrame_acts (l : LinkId) (code : Byte) (direct : Bool) (a : Answer) :
    Acts C a.state (finishFrame l code direct a) := by
  have hr : Acts C a.state (if a.status.isRefusal then a.state.modLink l countRefusal else a.state) := by
    split
    · exact .modLink countRefusal_kept
    · exact .refl _
  unfold finishFrame
  simp only
  split
  · exact hr.trans (.modLink (LinkState.placeReply_kept _))
  · exact hr

theorem partRow_acts {act : List Byte → State → Answer} {after : List Byte → State → State}
    (ha : ∀ ps u, Acts C u (act ps u).state) (hf : ∀ ps u, Acts C u (after ps u)) {c : Cmd} {l : LinkId} {s t : State}
    (e : partRow c act after l s = .next t) : Acts C s t := by
  cases e
  split
  · exact .refl s
  next body _ =>
    have ht := takeFrame_acts (C := C) l s
    unfold handlePart
    simp only
    split
    · have hn := (partAnswer_induct (P := Acts C s) (fun ps u h => h.trans (ha ps u)) c l body ht).trans
        (finishFrame_acts l c.code true _)
      split
      · exact hn.trans (hf _ _)
      · exact hn
    · exact ht.trans (.modLink countNotForUs_kept)

theorem checkedAct_acts {α : Type} {check : List Byte → Checked α} {act : α → State → Answer} {ps : List Byte}
    {u : State} (h : ∀ x adj, check ps = .ok (x, adj) → Acts C u (act x u).state) :
    Acts C u (checkedAct check act ps u).state := by
  unfold checkedAct
  split
  · exact .refl u
  next x adj hx =>
    rw [adjust_state]
    exact h x adj hx

/-- A part command whose owner acts behind checks, with nothing after the reply. -/
theorem checkedRow_acts {α : Type} {check : List Byte → Checked α} {act : α → State → Answer}
    (ha : ∀ ps x adj u, check ps = .ok (x, adj) → Acts C u (act x u).state) {c : Cmd} {l : LinkId} {s t : State}
    (e : partRow c (checkedAct check act) noAfter l s = .next t) : Acts C s t :=
  partRow_acts (fun ps u => checkedAct_acts fun x adj hx => ha ps x adj u hx) (fun _ u => .refl u) e

theorem countRoute_acts (a : Word) (g : Byte) (s : State) : Acts C s (countRoute a g s) := .one (.router s _)

theorem routedRow_isActs {c : Cmd} {check : List Byte → Checked TimedCmd}
    (hC : ∀ ps x adj, check ps = .ok (x, adj) → C x) {l : LinkId} {s t : State}
    (e : routedRow c check l s = .next t) : Acts C s t := by
  cases e
  split
  · exact .refl s
  next body _ =>
    have ht := takeFrame_acts (C := C) l s
    have hr := ht.trans (countRoute_acts (targetAddress body) (regionGroup body) _)
    have hs : Acts C s (reached l body s) := hr.trans (.modLink spendToken_kept)
    refine .trans ?_ (finishFrame_acts l c.code _ _)
    unfold routedAnswer
    split
    · exact ht
    simp only
    split
    · exact hr
    split
    · exact hr
    split
    · exact hr
    unfold ownerAnswer
    split
    · exact hs
    next x adj hx =>
      rw [adjust_state]
      split
      · exact hs.trans (arrive_acts (hC _ _ _ hx) _ _ _ _ _)
      · exact hs.trans (applyCmd_acts (hC _ _ _ hx) _ _ _ _)

theorem execUnknownCommand_acts {l : LinkId} {s t : State} (e : execUnknownCommand l s = .next t) : Acts C s t := by
  cases e
  split
  · exact .refl s
  · simp only
    split
    · exact (takeFrame_acts l s).trans (finishFrame_acts l _ true (.refuse .unknownCommand (takeFrame l s)))
    · exact (takeFrame_acts l s).trans (.modLink countNotForUs_kept)

/-! ### Settings commands (R162 to R164) -/

theorem setOutputAct_acts (ps : List Byte) (s : State) : Acts C s (setOutputAct ps s).state := by
  refine checkedAct_acts ?_
  rintro ⟨p, x⟩ adj hx
  obtain ⟨hi, hn, hl, ht, hb⟩ := outputOf_ok (checkSetOutput_ok hx)
  refine (Acts.one (.settings s _ (.output (p := p) hi hn hl ht hb))).trans (.modOut ?_)
  unfold regionalCleared
  split
  · exact .source _ _ _ _
  · exact .refl _ _

theorem resetCue_kept (cfg old new : CueSettings) (k : CueLine) : CueKept cfg k (resetCue old new k) := by
  unfold resetCue
  split
  · exact .inl rfl
  · exact .inr (.inl rfl)

theorem setCue_acts (c : LineId) {x : CueSettings} (hx : x.inRange) (s : State) : Acts C s (setCue c x s) :=
  .tail (.modCue (resetCue_kept _ (s.cueCfg c) x _)) (.settings _ _ (.cue c hx))

theorem setLink_acts (carrier l : LinkId) {x : LinkSettings} (hx : x.inRange) (s : State) :
    Acts C s (setLink carrier l x s) :=
  .tail (.modLink (LinkState.reconfigure_kept _ _ _)) (.settings _ _ (.link l hx))

theorem setLinkAfter_acts (carrier : LinkId) (ps : List Byte) (s : State) : Acts C s (setLinkAfter carrier ps s) := by
  unfold setLinkAfter
  split
  · exact .refl s
  next x adj hx => exact setLink_acts carrier x.1 (linkOf_ok (checkSetLink_ok hx)) s

theorem changeMode_size {t : Timebase} (h : t.withinSize) : t.changeMode.withinSize :=
  ⟨h.1, by simp [Timebase.changeMode], by simp [Timebase.changeMode], h.2.2.2⟩

theorem setTiming_acts (m : TimingMode) (s : State) : Acts C s (setTiming m s) := by
  unfold setTiming
  split
  · exact .refl s
  · exact .tail (.modTb changeMode_size) (.settings _ _ (.other _ _ _ _ m _))

/-! ### Store, claims, queue and counters -/

theorem applyRevoke_acts (k : ClaimKey) (s : State) : Acts C s (applyRevoke k s).state := by
  unfold applyRevoke
  split
  · exact .refl s
  · exact .one (.claimEnds s _ _ _)

theorem applyCancelTimed_acts (l : LinkId) (tag : Byte) (s : State) : Acts C s (applyCancelTimed l tag s).state := by
  unfold applyCancelTimed
  simp only
  split
  · exact .refl s
  · exact (Acts.one (.entriesLeave s _ List.filter_sublist)).tail (.queueRecords _ _ _)

theorem saveAct_acts (ps : List Byte) (s : State) : Acts C s (saveAct ps s).state := by
  refine checkedAct_acts fun _ _ _ => ?_
  split
  · exact .refl s
  · exact .one (.saveBegins s)

theorem execStoreSaveComplete_acts {verified : Bool} {s t : State} (e : execStoreSaveComplete verified s = .next t) :
    Acts C s t := by
  cases e
  split
  · exact .refl s
  next image hi =>
    split
    · exact .one (.saveEnds s image (.inr hi))
    · exact (Acts.one (.saveEnds s s.store.image (.inl rfl))).tail (.fault _ _)

/-- R167: one act on every setting, with the lines, the links and the timebase following. -/
theorem replaceSettings_acts (carrier : LinkId) {g : Settings} {c : SavedContent} {image : List Byte}
    (h : readImage image = some (g, c)) (s : State) : Acts C s (replaceSettings carrier g s) := by
  have htb : Act C s { s with tb := if s.settings.mode = g.mode then s.tb else s.tb.changeMode } := by
    refine .tb s _ fun hs => ?_
    split
    · exact hs
    · exact changeMode_size hs
  refine (((Acts.one htb).tail (.cues _ (.tabulate fun c => resetCue (s.cueCfg c) (g.cues.get c) (s.cue c))
    fun c => ?_)).tail (.links _ (.tabulate fun l => (s.link l).reconfigure (carrier == l) (s.linkCfg l) (g.links.get l))
    fun l => ?_)).tail (.reload _ g c image h)
  · rw [Table.get_tabulate]
    exact resetCue_kept _ _ _ _
  · rw [Table.get_tabulate]
    exact LinkState.reconfigure_kept _ _ _ _

theorem reloadAct_acts (ps : List Byte) (s : State) : Acts C s (reloadAct ps s).state := by
  refine checkedAct_acts fun _ _ _ => ?_
  split
  · exact .refl s
  · split <;> exact .refl s

theorem reloadAfter_acts (carrier : LinkId) (ps : List Byte) (s : State) : Acts C s (reloadAfter carrier ps s) := by
  unfold reloadAfter
  split
  · exact .refl s
  next h => exact replaceSettings_acts carrier h s

theorem restartAct_acts (ps : List Byte) (s : State) : Acts C s (restartAct ps s).state := by
  refine checkedAct_acts fun _ _ _ => ?_
  split <;> exact .refl s

theorem restartAfter_acts (carrier : LinkId) (ps : List Byte) (s : State) : Acts C s (restartAfter carrier ps s) :=
  .modLink fun _ => .of_eq rfl rfl rfl rfl rfl

theorem clearCounters_acts (g : CounterGroup) (s : State) : Acts C s (clearCounters g s) := by
  cases g with
  | output p => exact .modLane (.cell _ _)
  | content p => exact .modOut (.source _ _ _ _)
  | scheduler p =>
    refine .modLane (.sched _ _ fun h i => ⟨(h i).1, ?_⟩)
    simp
  | signalling p => exact .modLane (.tally _ _)
  | timebase => exact .one (.tb s _ fun h => h)
  | pool => exact .one (.poolCounters s _)
  | claim => exact .one (.claimCounters s _)
  | cue =>
    refine .one (.cues s _ fun c => .inl ?_)
    rw [Table.get_map]
    rfl
  | queue => exact .one (.queueRecords s _ _)
  | link =>
    refine .tail (.one (.links s (s.links.map fun k => { k with counters := resetLinkCounters }) fun l => ?_))
      (.router _ resetRouter)
    rw [Table.get_map]
    exact .of_eq rfl rfl rfl rfl rfl

theorem readCountersAct_acts (x : Nat × Nat × Bool) (s : State) : Acts C s (readCountersAct x s).state := by
  unfold readCountersAct
  split
  · exact .refl s
  · simp only [Answer.give]
    split
    · exact clearCounters_acts _ s
    · exact .refl s

theorem readRecordAct_acts (x : Nat × Nat) (s : State) : Acts C s (readRecordAct x s).state := by
  unfold readRecordAct
  split <;> exact .refl s

/-! ### REF, lines and links -/

theorem loseReference_acts (s : State) : Acts C s (loseReference s) := by
  unfold loseReference
  split
  · refine .tail (.modTb (f := Timebase.enterHoldover) fun h => ⟨h.1, ?_, ?_, h.2.2.2⟩) (.fault _ _) <;>
      simp [Timebase.enterHoldover]
  · exact .refl s

theorem noteEdge_acts (period : Nat) (s : State) : Acts C s (s.modTb (Timebase.noteEdge period)) := by
  refine .modTb fun h => ?_
  unfold Timebase.noteEdge
  split <;> exact h

theorem execRefEdge_acts {period : Nat} {s t : State} (e : execRefEdge period s = .next t) : Acts C s t := by
  cases e
  split
  · split
    · exact noteEdge_acts period s
    · exact (noteEdge_acts period s).trans (loseReference_acts _)
  · exact .refl s

theorem execRefGap_acts {s t : State} (e : execRefGap s = .next t) : Acts C s t := by
  cases e
  split
  · exact .trans (.modTb fun h => h) (loseReference_acts _)
  · exact .refl s

theorem flushDue_acts (c : LineId) (s : State) : Acts C s (flushDue c s) := by
  unfold flushDue
  split
  · exact .refl s
  · exact (clearDue_acts c s).trans (cueRequest_acts _ _ _ _)

theorem acceptChange_acts (c : LineId) (active coincident : Bool) (s : State) :
    Acts C s (acceptChange c active coincident s) := by
  have hf : Acts C s ((flushDue c s).modCue c (acceptLevel active s.tb.count s.tb.bitPos)) :=
    (flushDue_acts c s).trans (.modCue (.inr (.inl rfl)))
  unfold acceptChange
  simp only
  split
  · exact hf
  · split
    · exact hf.trans (.modCue_debounce fun _ => rfl)
    · exact hf.trans (cueRequest_acts _ _ _ _)

/-- R121: a sample at which no change is accepted leaves the debounce counter below its limit. -/
theorem sampleLine_acts (c : LineId) (high coincident : Bool) (s : State) :
    Acts C s (sampleLine c high coincident s) := by
  unfold sampleLine
  simp only
  split
  · exact .refl s
  next hm =>
    split
    · exact acceptChange_acts _ _ _ s
    next ha =>
      refine .modCue ?_
      unfold debounceStep
      split
      next hd =>
        refine .inr (.inr ?_)
        refine Classical.byContradiction fun hn => ?_
        exact ha (by simpa [accepts, hm, bne_iff_ne.1 hd] using hn)
      · exact .inr (.inl rfl)

theorem execCueChangeAccepted_acts {c : LineId} {high coincident : Bool} {s t : State}
    (e : execCueChangeAccepted c high coincident s = .next t) : Acts C s t := by
  cases e
  split
  · exact sampleLine_acts _ _ _ s
  · exact .refl s

theorem execLinkByteReceived_acts {l : LinkId} {b : RxByte} {s t : State}
    (e : execLinkByteReceived l b s = .next t) : Acts C s t := by
  cases e
  have h : Acts C s (s.modLink l (LinkState.receive (s.linkCfg l) b)) := .modLink (LinkState.receive_kept _ _)
  split
  · exact h.tail (.fault _ _)
  · exact h

theorem execLinkDisable_acts {l : LinkId} {s t : State} (e : execLinkDisable l s = .next t) : Acts C s t := by
  cases e
  split
  · exact .modLink LinkState.turnOff_kept
  · exact .refl s

/-! ### Boundaries, strobes, bit periods, resets -/

/-- A row that is a boundary where its condition holds and changes nothing where it does not (log 3). -/
theorem boundaryIf_acts {b : Prop} [Decidable b] {o : Order} {s t : State} (h : ∀ e ∈ s.queue.entries, C e.cmd)
    (e : (.next (if b then boundary o s else s) : Host.Outcome State Fault Refusal) = .next t) : Acts C s t := by
  cases e
  split
  · exact boundary_acts o h
  · exact .refl s

theorem execEpochStrobe_acts {s t : State} (h : ∀ e ∈ s.queue.entries, C e.cmd) (e : execEpochStrobe s = .next t) :
    Acts C s t := by
  cases e
  split
  · split
    · exact strobeFirstBit_acts h
    · split
      · exact strobeCut_acts h
      · exact strobeLastBit_acts s
  · exact .refl s

theorem execBitPeriodEnd_acts {s t : State} (e : execBitPeriodEnd s = .next t) : Acts C s t := by
  cases e
  split
  next hb =>
    refine .trans (.modTb fun h => ⟨?_, h.2.1, h.2.2.1, ?_⟩) (beginBits_acts _ _)
    · simp only [Timebase.stepBit]; omega
    · have := h.2.2.2
      simp only [Timebase.stepBit]; omega
  · exact .refl s

theorem execRestartBegin_acts {s t : State} (e : execRestartBegin s = .next t) : Acts C s t := by
  cases e
  split
  · exact .one (.reset s)
  · exact .refl s

/-! ### Every step -/

/-- Every command is a run of elementary acts, where `C` holds of what passes the owners' checks and of every entry
queued. -/
theorem exec_acts (hC : ∀ (c : Cmd) ps x adj, c.ownerCheck ps = .ok (x, adj) → C x) {i : Instr} {s t : State}
    (h : ∀ e ∈ s.queue.entries, C e.cmd) (e : exec i s = .next t) : Acts C s t := by
  cases i with
  | powerOn rate1 rate0 => cases e; exact .one (.powerOn s rate1 rate0)
  | pinReset => cases e; exact .one (.reset s)
  | restartBegin => exact execRestartBegin_acts e
  | cellBoundary =>
    obtain rfl : boundary .free s = t := Host.Outcome.next.inj e
    exact boundary_acts .free h
  | lockAcquisition | holdoverExpiry | leadEnd | trailEnd | claimHoldExpiry | claimWaitExpiry | tokenGain =>
    exact boundaryIf_acts h e
  | epochStrobe => exact execEpochStrobe_acts h e
  | bitPeriodEnd => exact execBitPeriodEnd_acts e
  | refEdge => exact execRefEdge_acts e
  | refGap => exact execRefGap_acts e
  | cueSample c high coincident => cases e; exact sampleLine_acts c high coincident s
  | cueChangeAccepted => exact execCueChangeAccepted_acts e
  | linkByteReceived => exact execLinkByteReceived_acts e
  | linkByteSent => cases e; exact .modLink LinkState.finishByte_kept
  | linkRateChange => cases e; exact .modLink LinkState.applyRate_kept
  | linkDisable => exact execLinkDisable_acts e
  | storeSaveComplete => exact execStoreSaveComplete_acts e
  | unknownCommand => exact execUnknownCommand_acts e
  | status => exact checkedRow_acts (fun _ _ _ u _ => .refl u) e
  | clearFaults => exact checkedRow_acts (fun _ _ _ u _ => .one (.faultsCleared u)) e
  | setSite | setGroupset | setRoute | setDefaultRoute | setMonitor =>
    exact checkedRow_acts (fun _ _ _ u _ => .one (.settings u _ (.other _ _ _ _ _ _))) e
  | setCue =>
    exact checkedRow_acts (fun _ x _ u hx => setCue_acts x.1 (cueOf_ok (checkSetCue_ok hx)) u) e
  | setAlert => exact checkedRow_acts (fun _ m _ u _ => .one (.alertMask u m)) e
  | setEpoch => exact checkedRow_acts (fun _ v _ u _ => .one (.tb u { u.tb with arm := some v } fun h => h)) e
  | readRecord => exact checkedRow_acts (fun _ x _ u _ => readRecordAct_acts x u) e
  | readCounters => exact checkedRow_acts (fun _ x _ u _ => readCountersAct_acts x u) e
  | setTiming => exact checkedRow_acts (fun _ m _ u _ => setTiming_acts m u) e
  | revoke => exact checkedRow_acts (fun _ k _ u _ => applyRevoke_acts k u) e
  | cancelTimed l => exact checkedRow_acts (fun _ tag _ u _ => applyCancelTimed_acts l tag u) e
  | setOutput => exact partRow_acts setOutputAct_acts (fun _ u => .refl u) e
  | setLink l => exact partRow_acts (fun _ u => checkedAct_acts fun _ _ _ => .refl u) (setLinkAfter_acts l) e
  | storeSave => exact partRow_acts saveAct_acts (fun _ u => .refl u) e
  | reload l => exact partRow_acts reloadAct_acts (reloadAfter_acts l) e
  | restart l => exact partRow_acts restartAct_acts (restartAfter_acts l) e
  | label => exact routedRow_isActs (hC .label) e
  | text => exact routedRow_isActs (hC .text) e
  | freqlist => exact routedRow_isActs (hC .freqlist) e
  | neighbour => exact routedRow_isActs (hC .neighbour) e
  | neighbourFlags => exact routedRow_isActs (hC .neighbourFlags) e
  | optoutBegin => exact routedRow_isActs (hC .optoutBegin) e
  | optoutEnd => exact routedRow_isActs (hC .optoutEnd) e
  | setInterval => exact routedRow_isActs (hC .setInterval) e
  | claim => exact routedRow_isActs (hC .claim) e
  | release => exact routedRow_isActs (hC .release) e
  | tmsgAdd => exact routedRow_isActs (hC .tmsgAdd) e
  | tmsgCancel => exact routedRow_isActs (hC .tmsgCancel) e

/-- A step is a run of elementary acts on the state with the front command taken off. -/
theorem step_acts (hC : ∀ (c : Cmd) ps x adj, c.ownerCheck ps = .ok (x, adj) → C x) {s t : State}
    (h : ∀ e ∈ s.queue.entries, C e.cmd) (e : step s = .next t) : ∃ rest, Acts C { s with pending := rest } t := by
  unfold step at e
  split at e
  · cases e
    exact ⟨s.pending, middle_acts s⟩
  next c rest _ => exact ⟨rest, exec_acts hC h e⟩

/-- What every elementary act preserves, every step preserves; of the timed commands themselves nothing is asked. -/
theorem step_induct {P : State → Prop} (hP : ∀ s t, Act (fun _ => True) s t → P s → P t)
    (hp : ∀ s rest, P s → P { s with pending := rest }) {s t : State} (h : P s) (e : step s = .next t) : P t := by
  obtain ⟨rest, ha⟩ := step_acts (C := fun _ => True) (fun _ _ _ _ _ => trivial) (fun _ _ => trivial) e
  exact ha.induct hP (hp s rest h)

end Sys2Proof.Machine

/-! PROOFS. What every step keeps (O57, O60): ALERT, the keys, and what the sequencers name. Each is preserved by every
elementary act, and so by every step. -/

namespace Sys2Proof.Machine

/-! ### ALERT (R169) -/

theorem loadedStore_alert (image : List Byte) (origin : ContentOrigin) (valid : Bool) (mask : BitVec 5)
    (rate1 rate0 : Bool) :
    (loadedStore image origin valid mask rate1 rate0).alert =
      alertLevel (loadedStore image origin valid mask rate1 rate0).faults mask := rfl

theorem powerOnState_alertFollows (rate1 rate0 : Bool) (s : State) : (powerOnState rate1 rate0 s).alertFollows := by
  unfold powerOnState
  split <;> rfl

theorem act_alertFollows {C : TimedCmd → Prop} {s t : State} (a : Act C s t) (h : s.alertFollows) :
    t.alertFollows := by
  cases a with
  | powerOn rate1 rate0 => exact powerOnState_alertFollows rate1 rate0 s
  | reset => rfl
  | fault | faultsCleared | alertMask | reload => rfl
  | settings g hg =>
    have e : g.alertMask = s.settings.alertMask := by cases hg <;> rfl
    unfold State.alertFollows at h ⊢
    rw [e]
    exact h
  | draws | tb | lanes | monitor | outs | neighbour | prevAn | claimEnters | claimEnds | claimsMove | claimCounters
  | recordEnters | recordReplaced | recordLeaves | recordsMove | recordSent | poolCounters | entryQueued | entriesLeave
  | queueRecords | cues | links | tokens | router | saveBegins | saveEnds => exact h

/-- Settles O57: every act that touches a flag or the mask makes ALERT follow, and no other touches ALERT. -/
theorem stepsKeepAlert : Obligations.StepsKeepAlert := by
  unfold Obligations.StepsKeepAlert
  intro s t h e
  exact step_induct (P := State.alertFollows) (fun _ _ => act_alertFollows) (fun _ _ hs => hs) h e

/-! ### Keys (R75, R90) -/

theorem claimHeld_eq_none {s : State} {k : ClaimKey} : claimHeld s k = none ↔ k ∉ s.claims.table.map Claim.key := by
  simp [claimHeld]

/-- R79, R80: a send moves no key, and at most one record leaves. -/
theorem sendFirst_keys (c : Count) (p : OutId) (rs : List PoolRecord) :
    ((sendFirst c p rs).map PoolRecord.key).Sublist (rs.map PoolRecord.key) := by
  induction rs with
  | nil => exact .refl _
  | cons r rs ih =>
    unfold sendFirst
    split
    · split
      · exact List.sublist_cons_self _ _
      · exact .refl _
    · exact ih.cons_cons _

/-- A record replaced by one with its key. -/
theorem map_key_set {rs : List PoolRecord} {i : Nat} {x : PoolRecord} (h : ∀ r, rs[i]? = some r → r.key = x.key) :
    (rs.set i x).map PoolRecord.key = rs.map PoolRecord.key := by
  rw [List.map_set]
  apply List.ext_getElem?
  intro j
  rw [List.getElem?_set, List.getElem?_map]
  split
  next e =>
    subst e
    split
    next hi =>
      rw [List.length_map] at hi
      simp [List.getElem?_eq_getElem hi, h _ (List.getElem?_eq_getElem hi)]
    next hi =>
      rw [List.length_map] at hi
      simp [List.getElem?_eq_none (Nat.not_lt.1 hi)]
  · rfl

theorem claimKeys_map {f : Claim → Claim} (hf : ∀ c, SameClaim c (f c)) (cs : List Claim) :
    (cs.map f).map Claim.key = cs.map Claim.key := by
  rw [List.map_map]
  exact List.map_congr_left fun c _ => (hf c).key

theorem recordKeys_map {f : PoolRecord → PoolRecord} (hf : ∀ r, SameRecord r (f r)) (rs : List PoolRecord) :
    (rs.map f).map PoolRecord.key = rs.map PoolRecord.key := by
  rw [List.map_map]
  exact List.map_congr_left fun r _ => (hf r).key

theorem act_keysDistinct {C : TimedCmd → Prop} {s t : State} (a : Act C s t) (h : s.keysDistinct) :
    t.keysDistinct := by
  obtain ⟨hc, hp⟩ := h
  cases a with
  | powerOn rate1 rate0 =>
    unfold powerOnState
    split <;> exact ⟨List.nodup_nil, List.nodup_nil⟩
  | reset => exact ⟨List.nodup_nil, List.nodup_nil⟩
  | claimEnters m ht hl hf free room hn =>
    refine ⟨?_, hp⟩
    have hsub := hl.map Claim.key
    rw [claimKeys_map hf] at hsub
    simp only [ht, List.map_append, List.map_cons, List.map_nil]
    refine List.nodup_append.2 ⟨hsub.nodup hc, List.pairwise_singleton .., ?_⟩
    rintro a ha b hb rfl
    rw [List.mem_singleton] at hb
    have hm := hsub.subset ha
    rw [hb] at hm
    exact claimHeld_eq_none.1 free hm
  | claimEnds => exact ⟨(List.filter_sublist.map _).nodup hc, hp⟩
  | claimsMove f _ hf =>
    refine ⟨?_, hp⟩
    simp only [claimKeys_map hf]
    exact hc
  | recordEnters m count _ free room =>
    refine ⟨hc, ?_⟩
    simp only [State.modPool, List.map_append, List.map_cons, List.map_nil]
    refine List.nodup_append.2 ⟨hp, List.pairwise_singleton .., ?_⟩
    rintro a ha b hb rfl
    obtain ⟨r, hr, rfl⟩ := List.mem_map.1 ha
    exact free r hr (List.mem_singleton.1 hb)
  | recordReplaced m count _ i hi =>
    refine ⟨hc, ?_⟩
    simp only [State.modPool]
    rw [map_key_set (fun r hr => hi r hr)]
    exact hp
  | recordLeaves i => exact ⟨hc, ((List.eraseIdx_sublist _ _).map _).nodup hp⟩
  | recordsMove f hf =>
    refine ⟨hc, ?_⟩
    simp only [State.modPool, recordKeys_map hf]
    exact hp
  | recordSent c p => exact ⟨hc, (sendFirst_keys c p _).nodup hp⟩
  | draws | tb | lanes | monitor | outs | neighbour | prevAn | claimCounters | poolCounters | entryQueued | entriesLeave
  | queueRecords | cues | links | tokens | router | fault | faultsCleared | alertMask | saveBegins | saveEnds | settings
  | reload => exact ⟨hc, hp⟩

/-! ### What the sequencers name (R107 to R110, R114) -/

theorem resetLanes_namesFollow (p : OutId) :
    ((Table.replicate 4 resetLane).get p).seq.namesByPhase := by
  rw [Table.get_replicate]
  exact ⟨fun _ => .inl rfl, fun _ => rfl⟩

theorem laneAct_namesByPhase {cfg : OutSettings} {ln ln' : Lane} (a : LaneAct cfg ln ln')
    (h : ln.seq.namesByPhase) : ln'.seq.namesByPhase := by
  cases a with
  | start => exact ⟨fun _ => .inl rfl, fun _ => rfl⟩
  | leave => exact ⟨fun _ => .inl rfl, fun _ => rfl⟩
  | sequence chosen => exact Sequencer.boundary_namesByPhase cfg chosen _ h
  | restamp f =>
    unfold Sequencer.namesByPhase at h ⊢
    rw [← h]
    exact Option.map_eq_none_iff
  | view held => exact (Sequencer.writeView_namesByPhase held _).2 h
  | cell | burst | tally | sched => exact h

theorem act_namesFollow {C : TimedCmd → Prop} {s t : State} (a : Act C s t) (h : s.namesFollow) : t.namesFollow := by
  cases a with
  | powerOn rate1 rate0 =>
    unfold powerOnState
    split <;> exact resetLanes_namesFollow
  | reset => exact resetLanes_namesFollow
  | lanes t ht => exact fun p => laneAct_namesByPhase (ht p) (h p)
  | draws | tb | monitor | outs | neighbour | prevAn | claimEnters | claimEnds | claimsMove | claimCounters
  | recordEnters | recordReplaced | recordLeaves | recordsMove | recordSent | poolCounters | entryQueued | entriesLeave
  | queueRecords | cues | links | tokens | router | fault | faultsCleared | alertMask | saveBegins | saveEnds | settings
  | reload => exact h

/-- Settles O60: a claim enters under a key no claim holds, a record under a key no record has, and every transition
of a sequencer takes up or drops its claim with its phase. -/
theorem stepsKeepKeysAndNames : Obligations.StepsKeepKeysAndNames := by
  unfold Obligations.StepsKeepKeysAndNames
  constructor
  · intro s t h e
    exact step_induct (P := State.keysDistinct) (fun _ _ => act_keysDistinct) (fun _ _ hs => hs) h e
  · intro s t h e
    exact step_induct (P := State.namesFollow) (fun _ _ => act_namesFollow) (fun _ _ hs => hs) h e

end Sys2Proof.Machine

/-! SUPPORT. What a valid image holds is within its ranges (R178). -/

namespace Sys2Proof.Machine

theorem collect_some {n : Nat} {α : Type} {d : α} {f : Fin n → Option α} {t : Table n α} (h : collect d f = some t)
    (i : Fin n) : f i = some (t.get i) := by
  unfold collect at h
  simp only at h
  split at h
  next ha =>
    cases h
    rw [Table.get_map, Table.get_tabulate]
    obtain ⟨x, hx⟩ := Option.isSome_iff_exists.1 (List.all_eq_true.1 ha (f i) (Table.mem_items.2 ⟨i, Table.get_tabulate f i⟩))
    rw [hx]
    rfl
  · cases h

theorem exact_some {α : Type} {c : Checked α} {x : α} (h : exact c = some x) : c = .ok (x, false) := by
  unfold exact at h
  split at h <;> cases h
  rfl

theorem readOutput_inRange {bs : List Byte} {x : OutSettings} (h : readOutput bs = some x) : x.inRange := by
  unfold readOutput at h
  split at h
  · cases h
  next iv hiv =>
    split at h
    · obtain ⟨hi, hn, hl, ht, hb, hb'⟩ := outputOf_ok (exact_some h)
      refine ⟨hn, hl, ht, hb, hb', fun i => ?_⟩
      have := collect_some hiv i
      unfold readInterval at this
      simp only [Option.ite_none_right_eq_some, Option.some.injEq] at this
      rw [hi, ← this.2]
      exact this.1
    · cases h

theorem readCue_inRange {bs : List Byte} {x : CueSettings} (h : readCue bs = some x) : x.inRange := by
  unfold readCue at h
  split at h
  · exact cueOf_ok (exact_some h)
  · cases h

theorem readLink_inRange {bs : List Byte} {x : LinkSettings} (h : readLink bs = some x) : x.inRange := by
  unfold readLink at h
  split at h
  · exact linkOf_ok (exact_some h)
  · cases h

theorem readSettings_inRange {body : List Byte} {g : Settings} (h : readSettings body = some g) : g.inRange := by
  unfold readSettings at h
  split at h
  next ho hc hl _ _ _ =>
    split at h
    · cases h
      exact ⟨fun p => readOutput_inRange (collect_some ho p), fun c => readCue_inRange (collect_some hc c),
        fun l => readLink_inRange (collect_some hl l)⟩
    · cases h
  · cases h

/-! ### Content -/

/-- The default content within its ranges. -/
structure SavedContent.proper (c : SavedContent) : Prop where
  label : ∀ p v, ((c.labels.get p).get v).proper
  text : ∀ p v, properText ((c.texts.get p).get v)
  freqs : ∀ p, freqsInRange (c.freqs.get p)
  neighbour : ∀ slot r, c.neighbours.get slot = some r → r.proper

theorem readChars_some {n k : Nat} {bs chars : List Byte} (h : readChars n k bs = some chars) (hb : bs.length = k) :
    chars.length = n ∧ n ≤ k ∧ chars.all printable = true := by
  unfold readChars at h
  simp only [Option.ite_none_right_eq_some, Option.some.injEq] at h
  obtain ⟨⟨hn, hp, _⟩, rfl⟩ := h
  exact ⟨by simp; omega, hn, hp⟩

section
variable {bs : List Byte}

theorem readLabel_proper {l : Label} (hb : bs.length = 81) (h : readLabel bs = some l) : l.proper := by
  unfold readLabel at h
  simp only [Option.ite_none_right_eq_some, Option.map_eq_some_iff] at h
  obtain ⟨⟨hn, hc⟩, chars, hr, rfl⟩ := h
  obtain ⟨hlen, hk, hp⟩ := readChars_some hr (by simp [slice, hb])
  exact ⟨Nat.le_trans hn (Nat.le_of_eq hlen.symm), Nat.le_trans (Nat.le_of_eq hlen) hk, hp, hc⟩

theorem readText_proper {text : List Byte} (hb : bs.length = 81) (h : readText bs = some text) : properText text := by
  obtain ⟨hlen, hk, hp⟩ := readChars_some h (by simp [slice, hb])
  exact ⟨by omega, hp⟩

theorem readFreqs_inRange {codes : List Nat} (h : readFreqs bs = some codes) : freqsInRange codes := by
  unfold readFreqs at h
  simp only [Option.ite_none_right_eq_some, Option.some.injEq] at h
  obtain ⟨⟨hk, hc, _⟩, rfl⟩ := h
  exact ⟨Nat.le_trans (List.length_take_le _ _) hk, hc⟩

theorem readSlot_proper {r : Neighbour} (hb : bs.length = 17) (h : readSlot bs = some (some r)) : r.proper := by
  unfold readSlot at h
  split at h
  · split at h <;> cases h
  · split at h
    · simp only [Option.map_eq_some_iff, Option.some.injEq] at h
      obtain ⟨r', h, rfl⟩ := h
      unfold readUsedRecord at h
      simp only at h
      split at h
      next hchars _ =>
        obtain ⟨hlen, hk, hp⟩ := readChars_some hchars (by simp [slice, hb])
        simp only [Option.ite_none_right_eq_some, Option.some.injEq] at h
        obtain ⟨⟨hid, hf, _, hm, _⟩, rfl⟩ := h
        exact ⟨hid, hm, hf, by rw [hlen]; exact hk, hp⟩
      · cases h
    · cases h

theorem readContent_proper {c : SavedContent} (hb : bs.length = 1748) (h : readContent bs = some c) : c.proper := by
  unfold readContent at h
  split at h
  next hl ht hf hn =>
    cases h
    refine ⟨fun p v => readLabel_proper ?_ (collect_some (collect_some hl p) v),
      fun p v => readText_proper ?_ (collect_some (collect_some ht p) v),
      fun p => readFreqs_inRange (collect_some hf p), fun slot r e => ?_⟩
    · simp only [variantSlice, slice, List.length_take, List.length_drop, hb]; omega
    · simp only [variantSlice, slice, List.length_take, List.length_drop, hb]; omega
    · refine readSlot_proper ?_ ((collect_some hn slot).trans (congrArg some e))
      simp only [slice, List.length_take, List.length_drop, hb]; omega
  · cases h

/-- A valid image holds settings and content within their ranges. -/
theorem readImage_proper {g : Settings} {c : SavedContent} (h : readImage bs = some (g, c)) :
    g.inRange ∧ c.proper := by
  unfold readImage at h
  simp only at h
  split at h
  · cases h
  next hlen =>
    split at h
    · cases h
    · split at h
      · cases h
      · split at h
        · cases h
        · split at h
          next hg hc =>
            cases h
            refine ⟨readSettings_inRange hg, readContent_proper ?_ hc⟩
            simp only [slice, List.length_take, List.length_drop, imageBodyLength] at hlen ⊢
            omega
          · cases h

end

/-! ### The built-in values -/

theorem builtinSettings_inRange (r : LineRate) : (builtinSettings r).inRange := by
  refine ⟨fun p => ?_, fun c => ?_, fun l => ?_⟩
  · have e : (builtinSettings r).outputs.get p = builtinOutput := Table.get_replicate ..
    rw [e]
    refine ⟨by decide, by decide, by decide, by decide, by decide, by decide⟩
  · have e : (builtinSettings r).cues.get c = builtinCue := Table.get_replicate ..
    rw [e]
    exact ⟨by decide, by decide, by decide, by decide, by decide⟩
  · have e : (builtinSettings r).links.get l = builtinLink r := Table.get_replicate ..
    rw [e]
    exact ⟨Nat.le_of_lt (by simp [builtinLink]), by simp [builtinLink], by simp [builtinLink], by simp [builtinLink],
      by simp [builtinLink]⟩

theorem builtinContent_proper : builtinContent.proper := by
  refine ⟨fun p v => ?_, fun p v => ?_, fun p => ?_, fun slot r e => ?_⟩
  · have e : (builtinContent.labels.get p).get v = builtinLabel := by simp [builtinContent]
    rw [e]
    exact ⟨by decide, by decide, by decide, by decide⟩
  · have e : (builtinContent.texts.get p).get v = [] := by simp [builtinContent]
    rw [e]
    exact ⟨by decide, rfl⟩
  · have e : builtinContent.freqs.get p = [] := by simp [builtinContent]
    rw [e]
    exact ⟨by decide, rfl⟩
  · have e' : builtinContent.neighbours.get slot = none := by simp [builtinContent]
    rw [e'] at e
    cases e

theorem loadedSettings_inRange (s : State) : (loadedSettings s).inRange := by
  unfold loadedSettings
  split
  next h => exact (readImage_proper h).1
  · exact builtinSettings_inRange _

/-- A power-on loads settings within their ranges, whatever the store holds. -/
theorem powerOnState_settings (rate1 rate0 : Bool) (s : State) : (powerOnState rate1 rate0 s).settings.inRange := by
  unfold powerOnState
  split
  next h => exact (readImage_proper h).1
  · exact builtinSettings_inRange _

end Sys2Proof.Machine

/-! PROOFS. Sizes and counters (O56). -/

namespace Sys2Proof.Machine

/-! ### The store image (R178) -/

theorem flatMap_length {α : Type} {f : α → List Byte} {k : Nat} (hf : ∀ a, (f a).length = k) (as : List α) :
    (as.flatMap f).length = k * as.length := by
  induction as with
  | nil => rfl
  | cons a as ih => rw [List.flatMap_cons, List.length_append, hf, ih, List.length_cons, Nat.mul_succ]; omega

theorem tableBytes_length {n : Nat} {α : Type} {f : α → List Byte} {k : Nat} (hf : ∀ a, (f a).length = k)
    (t : Table n α) : (tableBytes f t).length = k * n := by
  rw [tableBytes, flatMap_length hf, t.size_eq]

theorem siteBytes_length (x : SiteSlot) : (siteBytes x).length = 3 := rfl

theorem groupSetBytes_length (g : BitVec 256) : (groupSetBytes g).length = 32 := by simp [groupSetBytes]

theorem termBytes_length (t : RouteTerm) : (termBytes t).length = 3 := rfl

theorem routeBytes_length (e : RouteEntry) : (routeBytes e).length = 14 := by
  simp [routeBytes, tableBytes_length termBytes_length]

theorem outputBytes_length (o : OutSettings) : (outputBytes o).length = 22 := by
  simp [outputBytes, tableBytes_length (bytesOf_length 2)]

theorem cueBytes_length (c : CueSettings) : (cueBytes c).length = 14 := by simp [cueBytes]

theorem linkBytes_length (k : LinkSettings) : (linkBytes k).length = 9 := by simp [linkBytes]

theorem settingsBytes_length (g : Settings) : (settingsBytes g).length = 768 := by
  simp [settingsBytes, tableBytes_length siteBytes_length, tableBytes_length groupSetBytes_length,
    tableBytes_length routeBytes_length, tableBytes_length outputBytes_length, tableBytes_length cueBytes_length,
    tableBytes_length linkBytes_length]

theorem variantBytes_length (l : Label) (text : List Byte) : (variantBytes l text).length = 81 := by
  simp [variantBytes, padTo_length]

theorem freqsBytes_length (codes : List Nat) : (freqsBytes codes).length = 49 := by
  simp [freqsBytes, codesBytes_length]

theorem neighbourBytes_length (r : Neighbour) : (neighbourBytes r).length = 16 := by
  simp [neighbourBytes, padTo_length]

theorem slotBytes_length (r : Option Neighbour) : (slotBytes r).length = 17 := by
  cases r <;> simp [slotBytes, neighbourBytes_length]

theorem contentBytes_length (c : SavedContent) : (contentBytes c).length = 980 := by
  simp [contentBytes, outputs, variantBytes_length, tableBytes_length freqsBytes_length,
    tableBytes_length slotBytes_length]

/-- The body of an image has its length whatever it holds. -/
theorem imageBody_length (g : Settings) (c : SavedContent) : (imageBody g c).length = 1748 := by
  rw [imageBody, List.length_append, settingsBytes_length, contentBytes_length]

theorem snapshot_length (s : State) : (snapshot s).length = 1754 := imageBytes_length (imageBody_length _ _)

/-! ### Sizes -/

theorem resetLink_size (cfg : LinkSettings) : (resetLink cfg).withinSize :=
  ⟨Nat.le_refl _, Nat.zero_le _, Nat.zero_le _⟩

theorem retainLink_size (cfg : LinkSettings) (k : LinkState) : (retainLink cfg k).withinSize := by
  unfold retainLink
  split
  · exact resetLink_size cfg
  · exact (LinkState.nextByte_kept (.of_eq rfl rfl rfl rfl rfl)).size (resetLink_size cfg)

theorem resetTimebase_size (start : Start) (count : Count) : (resetTimebase start count).withinSize :=
  ⟨Nat.zero_le _, Nat.zero_lt_succ _, Nat.zero_lt_succ _, Nat.zero_le _⟩

theorem resetScheduler_size : resetScheduler.withinSize := by
  intro i
  simp [resetScheduler]

/-- Every reset empties what has a size, but for the image, which it leaves. -/
theorem resetBlocks_size {g : Settings} {tb : Timebase} {content : Content} {store : StoreCtl}
    {links : Table 4 LinkState} {s : State} (ht : tb.withinSize) (hs : store.withinSize)
    (hl : ∀ l, (links.get l).withinSize) : (resetBlocks g tb content store links s).withinSize := by
  refine ⟨Nat.zero_le _, Nat.zero_le _, Nat.zero_le _, ht, fun p => ?_, hs, hl⟩
  have e : (resetBlocks g tb content store links s).lane p = resetLane := Table.get_replicate ..
  rw [e]
  exact resetScheduler_size

theorem loadedStore_size {image : List Byte} (h : image.length ≤ 8192) (origin : ContentOrigin) (valid : Bool)
    (mask : BitVec 5) (rate1 rate0 : Bool) : (loadedStore image origin valid mask rate1 rate0).withinSize :=
  ⟨h, fun _ e => nomatch e⟩

theorem powerOnState_size (rate1 rate0 : Bool) {s : State} (h : s.withinSize) :
    (powerOnState rate1 rate0 s).withinSize := by
  obtain ⟨_, _, _, _, _, ⟨hi, _⟩, _⟩ := h
  unfold powerOnState
  split <;> refine resetBlocks_size (resetTimebase_size _ _) (loadedStore_size hi ..) fun l => ?_ <;>
    · rw [Table.get_map]
      exact resetLink_size _

theorem retainedReset_size {s : State} (h : s.withinSize) : (retainedReset s).withinSize := by
  obtain ⟨_, _, _, _, _, ⟨hi, _⟩, _⟩ := h
  refine resetBlocks_size (resetTimebase_size _ _) (loadedStore_size hi ..) fun l => ?_
  rw [Table.get_tabulate]
  exact retainLink_size _ _

theorem laneAct_size {cfg : OutSettings} {ln ln' : Lane} (a : LaneAct cfg ln ln') (h : ln.sched.withinSize) :
    ln'.sched.withinSize := by
  cases a with
  | start =>
    intro i
    refine ⟨?_, (h i).2⟩
    simp [Scheduler.startRun]
  | sched k hk => exact hk h
  | cell | leave | sequence | restamp | view | burst | tally => exact h

theorem sendFirst_length (c : Count) (p : OutId) (rs : List PoolRecord) : (sendFirst c p rs).length ≤ rs.length := by
  have := (sendFirst_keys c p rs).length_le
  simpa using this

theorem insertEntry_length (n : Count) (e : QueueEntry) (es : List QueueEntry) :
    (insertEntry n e es).length = es.length + 1 := by
  induction es with
  | nil => rfl
  | cons d ds ih =>
    unfold insertEntry
    split
    · rfl
    · simp [ih]

theorem act_size {C : TimedCmd → Prop} {s t : State} (a : Act C s t) (h : s.withinSize) : t.withinSize := by
  obtain ⟨hc, hp, hq, ht, hn, hs, hl⟩ := id h
  cases a with
  | powerOn rate1 rate0 => exact powerOnState_size rate1 rate0 h
  | reset => exact retainedReset_size h
  | tb t ht' => exact ⟨hc, hp, hq, ht' ht, hn, hs, hl⟩
  | lanes t a => exact ⟨hc, hp, hq, ht, fun p => laneAct_size (a p) (hn p), hs, hl⟩
  | claimEnters m hm hsub hf free room _ =>
    refine ⟨?_, hp, hq, ht, hn, hs, hl⟩
    simp only [hm, List.length_append, List.length_cons, List.length_nil]
    omega
  | claimEnds => exact ⟨Nat.le_trans (List.length_filter_le _ _) hc, hp, hq, ht, hn, hs, hl⟩
  | claimsMove f => exact ⟨by simpa using hc, hp, hq, ht, hn, hs, hl⟩
  | recordEnters m count _ _ room =>
    refine ⟨hc, ?_, hq, ht, hn, hs, hl⟩
    simp only [State.modPool, List.length_append, List.length_cons, List.length_nil]
    omega
  | recordReplaced => exact ⟨hc, by simpa [State.modPool] using hp, hq, ht, hn, hs, hl⟩
  | recordLeaves i => exact ⟨hc, Nat.le_trans (List.length_eraseIdx_le _ _) hp, hq, ht, hn, hs, hl⟩
  | recordsMove f => exact ⟨hc, by simpa [State.modPool] using hp, hq, ht, hn, hs, hl⟩
  | recordSent c p => exact ⟨hc, Nat.le_trans (sendFirst_length c p _) hp, hq, ht, hn, hs, hl⟩
  | entryQueued n e _ room =>
    refine ⟨hc, hp, ?_, ht, hn, hs, hl⟩
    simp only [State.setEntries, insertEntry_length]
    omega
  | entriesLeave es hsub => exact ⟨hc, hp, Nat.le_trans hsub.length_le hq, ht, hn, hs, hl⟩
  | links t a => exact ⟨hc, hp, hq, ht, hn, hs, fun l => (a l).size (hl l)⟩
  | tokens =>
    refine ⟨hc, hp, hq, ht, hn, hs, fun l => ?_⟩
    rw [gainTokens_link]
    exact gainToken_size _ (hl l)
  | saveBegins =>
    refine ⟨hc, hp, hq, ht, hn, ⟨Nat.zero_le _, ?_⟩, hl⟩
    rintro image ⟨⟩
    rw [snapshot_length]
    decide
  | saveEnds image hi =>
    refine ⟨hc, hp, hq, ht, hn, ⟨?_, fun _ e => nomatch e⟩, hl⟩
    obtain rfl | hi := hi
    · exact hs.1
    · exact hs.2 image hi
  | draws | monitor | outs | neighbour | prevAn | claimCounters | poolCounters | queueRecords | cues | router | fault
  | faultsCleared | alertMask | settings | reload => exact ⟨hc, hp, hq, ht, hn, hs, hl⟩

/-! ### Counters that settings start or end (R104, R111, R119, R158) -/

/-- Of the settings' ranges, what bounds the counters they start or end. -/
structure Settings.boundCounters (g : Settings) : Prop where
  output : ∀ p, (g.outputs.get p).lead ≤ 200 ∧ (g.outputs.get p).trail ≤ 200 ∧ (g.outputs.get p).burst ≤ 8
  debounce : ∀ c, (g.cues.get c).debounce ≤ 255
  interval : ∀ l, (g.links.get l).interval ≤ 255

theorem Settings.inRange.boundCounters {g : Settings} (h : g.inRange) : g.boundCounters := by
  obtain ⟨ho, hc, hl⟩ := h
  refine ⟨fun p => ?_, fun c => (hc c).2.1, fun l => (hl l).2.2.2.2⟩
  obtain ⟨_, h1, h2, _, h3, _⟩ := ho p
  exact ⟨h1, h2, h3⟩

/-- The lead, trail and burst counters of a sequencer within the ranges of the settings that start them. -/
def Sequencer.countersWithin (q : Sequencer) : Prop := q.lead ≤ 200 ∧ q.trail ≤ 200 ∧ q.burst ≤ 8

theorem Sequencer.transition_countersWithin {cfg : OutSettings} (hl : cfg.lead ≤ 200) (ht : cfg.trail ≤ 200)
    (chosen : Option ClaimRef) {q : Sequencer} (h : q.countersWithin) : (q.transition cfg chosen).countersWithin := by
  obtain ⟨h1, h2, h3⟩ := h
  unfold transition
  split
  · exact ⟨hl, h2, h3⟩
  · exact ⟨h1, h2, h3⟩
  · exact ⟨Nat.le_trans (Nat.sub_le _ _) h1, h2, h3⟩
  · exact ⟨Nat.zero_le _, h2, h3⟩
  · exact ⟨h1, h2, h3⟩
  · exact ⟨h1, ht, h3⟩
  · exact ⟨h1, Nat.zero_le _, h3⟩
  · exact ⟨h1, Nat.le_trans (Nat.sub_le _ _) h2, h3⟩

theorem Sequencer.setBurst_countersWithin {cfg : OutSettings} (hb : cfg.burst ≤ 8) (before : Sequencer) {q : Sequencer}
    (h : q.countersWithin) : (setBurst cfg before q).countersWithin := by
  unfold setBurst
  split
  · exact ⟨h.1, h.2.1, hb⟩
  · exact h

theorem Sequencer.boundary_countersWithin {cfg : OutSettings}
    (hc : cfg.lead ≤ 200 ∧ cfg.trail ≤ 200 ∧ cfg.burst ≤ 8) (chosen : Option ClaimRef) {q : Sequencer}
    (h : q.countersWithin) : (q.boundary cfg chosen).countersWithin := by
  obtain ⟨hl, ht, hb⟩ := hc
  have hq : (if cfg.tc then q.transition cfg chosen else q.countDrop.silence).countersWithin := by
    split
    · exact transition_countersWithin hl ht chosen h
    · exact ⟨Nat.zero_le _, Nat.zero_le _, h.2.2⟩
  exact setBurst_countersWithin hb q hq

theorem laneAct_countersWithin {cfg : OutSettings} (hc : cfg.lead ≤ 200 ∧ cfg.trail ≤ 200 ∧ cfg.burst ≤ 8)
    {ln ln' : Lane} (a : LaneAct cfg ln ln') (h : ln.seq.countersWithin) : ln'.seq.countersWithin := by
  cases a with
  | start | leave => exact ⟨Nat.zero_le _, Nat.zero_le _, Nat.zero_le _⟩
  | sequence chosen => exact Sequencer.boundary_countersWithin hc chosen h
  | view held =>
    obtain ⟨v, e⟩ := writeView_keeps held ln.seq
    simp only [Lane.modSeq, e]
    exact h
  | burst n hn => exact ⟨h.1, h.2.1, Nat.le_trans hn h.2.2⟩
  | cell | restamp | tally | sched => exact h

/-- Settings as one command changes them bound the counters as before. -/
theorem settingsAct_boundCounters {C : TimedCmd → Prop} {g g' : Settings} (a : SettingsAct C g g')
    (h : g.boundCounters) : g'.boundCounters := by
  obtain ⟨ho, hd, hi⟩ := h
  cases a with
  | other => exact ⟨ho, hd, hi⟩
  | output _ _ hl ht hb =>
    refine ⟨fun p => ?_, hd, hi⟩
    rw [Table.get_set]
    split
    · exact ⟨hl, ht, hb.2⟩
    · exact ho p
  | cue c hx =>
    refine ⟨ho, fun d => ?_, hi⟩
    rw [Table.get_set]
    split
    · exact hx.2.1
    · exact hd d
  | link l hx =>
    refine ⟨ho, hd, fun k => ?_⟩
    rw [Table.get_set]
    split
    · exact hx.2.2.2.2
    · exact hi k
  | interval m _ =>
    refine ⟨fun p => ?_, hd, hi⟩
    rw [Table.get_tabulate]
    split <;> exact ho p

/-- The counters within their ranges, and the settings that bound them. -/
def State.countersBound (s : State) : Prop := s.settings.boundCounters ∧ s.countersFollow

theorem nextByte_tokenCount (k : LinkState) : k.nextByte.tokenCount = k.tokenCount :=
  (LinkState.nextByte_kept (.refl k)).tokenCount

theorem resetBlocks_countersFollow {g : Settings} {tb : Timebase} {content : Content} {store : StoreCtl}
    {links : Table 4 LinkState} {s : State} (hl : ∀ l, (links.get l).tokenCount = 0) :
    (resetBlocks g tb content store links s).countersFollow := by
  refine ⟨fun p => ?_, fun c => ?_, fun l => Nat.lt_of_le_of_lt (Nat.le_of_eq (hl l)) (by decide)⟩
  · have e : (resetBlocks g tb content store links s).lane p = resetLane := Table.get_replicate ..
    rw [e]
    decide
  · have e : (resetBlocks g tb content store links s).cue c = resetCueLine := Table.get_replicate ..
    rw [e]
    decide

theorem powerOnState_countersFollow (rate1 rate0 : Bool) (s : State) : (powerOnState rate1 rate0 s).countersFollow := by
  unfold powerOnState
  split <;> exact resetBlocks_countersFollow fun l => by rw [Table.get_map]; rfl

theorem retainedReset_countersFollow (s : State) : (retainedReset s).countersFollow := by
  refine resetBlocks_countersFollow fun l => ?_
  rw [Table.get_tabulate]
  unfold retainLink
  split
  · rfl
  · exact nextByte_tokenCount _

theorem act_countersBound {C : TimedCmd → Prop} {s t : State} (a : Act C s t) (h : s.countersBound) :
    t.countersBound := by
  obtain ⟨hb, hf⟩ := h
  obtain ⟨hq, hc, hl⟩ := id hf
  cases a with
  | powerOn rate1 rate0 =>
    exact ⟨(powerOnState_settings rate1 rate0 s).boundCounters, powerOnState_countersFollow rate1 rate0 s⟩
  | reset => exact ⟨(loadedSettings_inRange s).boundCounters, retainedReset_countersFollow s⟩
  | lanes t a => exact ⟨hb, fun p => laneAct_countersWithin (hb.output p) (a p) (hq p), hc, hl⟩
  | cues t a =>
    refine ⟨hb, hq, fun c => ?_, hl⟩
    have hd := hb.debounce c
    have he := hc c
    obtain h | h | h := a c
    · exact Nat.lt_of_le_of_lt (Nat.le_of_eq h) he
    · exact Nat.lt_of_le_of_lt (Nat.le_of_eq h) (by decide)
    · exact Nat.lt_of_lt_of_le h hd
  | links t a => exact ⟨hb, hq, hc, fun l => Nat.lt_of_le_of_lt (Nat.le_of_eq (a l).tokenCount) (hl l)⟩
  | tokens =>
    refine ⟨hb, hq, hc, fun l => ?_⟩
    rw [gainTokens_link]
    obtain h | h := gainToken_tokenCount (s.linkCfg l) (s.link l)
    · exact Nat.lt_of_le_of_lt (Nat.le_of_eq h) (by decide)
    · exact Nat.lt_of_lt_of_le h (hb.interval l)
  | settings g a => exact ⟨settingsAct_boundCounters a hb, hf⟩
  | alertMask m => exact ⟨⟨hb.output, hb.debounce, hb.interval⟩, hf⟩
  | reload g c image hi => exact ⟨(readImage_proper hi).1.boundCounters, hf⟩
  | draws | tb | monitor | outs | neighbour | prevAn | claimEnters | claimEnds | claimsMove | claimCounters
  | recordEnters | recordReplaced | recordLeaves | recordsMove | recordSent | poolCounters | entryQueued | entriesLeave
  | queueRecords | router | fault | faultsCleared | saveBegins | saveEnds => exact ⟨hb, hf⟩

/-- Settles O56: every act that lets something into a table or a buffer finds room for it, and every counter that a
setting starts or ends is bounded by that setting. -/
theorem stepsStayWithinSize : Obligations.StepsStayWithinSize := by
  unfold Obligations.StepsStayWithinSize
  constructor
  · intro s t h e
    exact step_induct (P := State.withinSize) (fun _ _ => act_size) (fun _ _ hs => hs) h e
  · intro s t hg h e
    have hs : s.countersBound := ⟨hg.boundCounters, h⟩
    exact (step_induct (P := State.countersBound) (fun _ _ => act_countersBound) (fun _ _ hs => hs) hs e).2

end Sys2Proof.Machine

/-! PROOFS. Every value stays within its range (O59). -/

namespace Sys2Proof.Machine

/-! ### The content of one output -/

namespace OutContent

theorem variant_proper {o : OutContent} (h : o.proper) (v : Variant) : (o.variant v).proper := by
  cases v
  · exact h.1
  · exact h.2.1

theorem modVariant_proper {o : OutContent} (h : o.proper) (v : Variant) {f : VariantContent → VariantContent}
    (hf : (f (o.variant v)).proper) : (o.modVariant v f).proper := by
  obtain ⟨hn, hr, hq⟩ := h
  cases v
  · exact ⟨hf, hr, hq⟩
  · exact ⟨hn, hf, hq⟩

/-- What makes a staged text live keeps the content proper. -/
theorem commitText_proper {o : OutContent} (h : o.proper) : o.commitText.proper := by
  unfold commitText
  split
  · obtain ⟨hl, ht, hs, hst⟩ := variant_proper h o.source.variant
    refine modVariant_proper h o.source.variant (f := fun c => { c with
      text := c.stagedText.getD c.text, stagedText := none }) ⟨hl, ?_, hs, (fun _ e => nomatch e)⟩
    cases he : (o.variant o.source.variant).stagedText with
    | none => simpa [he] using ht
    | some chars => simpa [he] using hst chars he
  · exact h

theorem commitFreqs_proper {o : OutContent} (h : o.proper) : o.commitFreqs.proper := by
  unfold commitFreqs
  split
  next codes he =>
    split
    · obtain ⟨hn, hr, _, hs⟩ := h
      exact ⟨hn, hr, (hs codes he).1, (fun _ e => nomatch e)⟩
    · exact h
  · exact h

theorem commitLabel_proper {o : OutContent} (h : o.proper) : o.commitLabel.proper := by
  unfold commitLabel
  split
  · obtain ⟨hl, ht, hs, hst⟩ := variant_proper h o.source.variant
    refine modVariant_proper h o.source.variant (f := fun c => { c with
      label := (o.variant o.source.variant).staged.getD c.label, staged := none })
      ⟨?_, ht, (fun _ e => nomatch e), hst⟩
    cases he : (o.variant o.source.variant).staged with
    | none => simpa using hl
    | some l => simpa using hs l he
  · exact h

end OutContent

theorem outAct_proper {o o' : OutContent} (a : OutAct TimedCmd.proper o o') (h : o.proper) : o'.proper := by
  cases a with
  | stageLabel hc =>
    obtain ⟨hl, ht, _, hst⟩ := OutContent.variant_proper h ‹Variant›
    refine OutContent.modVariant_proper h _ (f := fun c => { c with staged := some ‹Label› }) ⟨hl, ht, ?_, hst⟩
    rintro l ⟨⟩
    exact hc
  | stageText hc =>
    obtain ⟨hl, ht, hs, _⟩ := OutContent.variant_proper h ‹Variant›
    refine OutContent.modVariant_proper h _ (f := fun c => { c with stagedText := some ‹List Byte› }) ⟨hl, ht, hs, ?_⟩
    rintro l ⟨⟩
    exact hc
  | stageFreqs hc =>
    obtain ⟨hn, hr, hq, _⟩ := h
    refine ⟨hn, hr, hq, ?_⟩
    rintro codes ⟨⟩
    exact hc
  | commitTexts => exact OutContent.commitFreqs_proper (OutContent.commitText_proper h)
  | commitLabel => exact OutContent.commitLabel_proper h
  | source | cycle | advanceLabel | advanceText | advanceFreqs | startRun => exact h

/-! ### Settings, claims, records, entries -/

theorem settingsAct_inRange {g g' : Settings} (a : SettingsAct TimedCmd.proper g g') (h : g.inRange) : g'.inRange := by
  obtain ⟨ho, hc, hl⟩ := h
  cases a with
  | other => exact ⟨ho, hc, hl⟩
  | output hi hn hlead ht hb =>
    refine ⟨fun p => ?_, hc, hl⟩
    rw [Table.get_set]
    split
    · refine ⟨hn, hlead, ht, hb.1, hb.2, fun i => ?_⟩
      rw [hi]
      exact (ho _).2.2.2.2.2 i
    · exact ho p
  | cue c hx =>
    refine ⟨ho, fun d => ?_, hl⟩
    rw [Table.get_set]
    split
    · exact hx
    · exact hc d
  | link l hx =>
    refine ⟨ho, hc, fun k => ?_⟩
    rw [Table.get_set]
    split
    · exact hx
    · exact hl k
  | interval m hv =>
    refine ⟨fun p => ?_, hc, hl⟩
    rw [Table.get_tabulate]
    split
    · obtain ⟨hn, hlead, ht, hb, hb', hi⟩ := ho p
      refine ⟨hn, hlead, ht, hb, hb', fun i => ?_⟩
      rw [Table.get_set]
      split
      · exact hv
      · exact hi i
    · exact ho p

theorem newcomer_proper {g : Settings} {n : Newcomer} (h : NewcomerFrom TimedCmd.proper g n) (hg : g.inRange)
    (stamp : Counter) : (n.claim stamp).proper := by
  cases h with
  | command h => exact h
  | @template c hp hh hw =>
    obtain ⟨_, _, h1, h2, h3⟩ := hg.2.1 c
    exact ⟨Nat.le_trans (Nat.le_of_eq hp) h1, Nat.le_trans (Nat.le_of_eq hh) h2, Nat.le_trans (Nat.le_of_eq hw) h3⟩

theorem SameClaim.proper {c d : Claim} (h : SameClaim c d) (hc : c.proper) : d.proper :=
  ⟨Nat.le_trans (Nat.le_of_eq h.priority) hc.1, Nat.le_trans (Nat.le_of_eq h.holdLimit) hc.2.1,
    Nat.le_trans (Nat.le_of_eq h.waitLimit) hc.2.2⟩

theorem SameRecord.proper {r r' : PoolRecord} (h : SameRecord r r') (hr : r.proper) : r'.proper := by
  unfold PoolRecord.proper at hr ⊢
  rw [h.key, h.spacing, h.repeats]
  exact hr

theorem newRecord_proper {key : Word} {content : BitVec 48} {reps spacing : Nat}
    (h : (TimedCmd.tmsgAdd key content reps spacing).proper) (m : Mask) (count : Count) :
    (newRecord key content reps spacing m count).proper := by
  obtain ⟨hk, _, hr, hs, hs'⟩ := h
  refine ⟨hk, hs, hs', fun p => ?_⟩
  simp only [newRecord, Table.get_tabulate]
  split
  · exact hr
  · exact Nat.zero_le _

theorem sendRecord_proper (c : Count) (p : OutId) {r : PoolRecord} (h : r.proper) : (sendRecord c p r).proper := by
  obtain ⟨hk, hs, hs', hr⟩ := h
  refine ⟨hk, hs, hs', fun q => ?_⟩
  simp only [sendRecord, Table.get_modify]
  have := hr q
  split <;> omega

theorem sendFirst_proper (c : Count) (p : OutId) {rs : List PoolRecord} (h : ∀ r ∈ rs, r.proper) :
    ∀ r ∈ sendFirst c p rs, r.proper := by
  induction rs with
  | nil => exact h
  | cons x xs ih =>
    have hx := h x List.mem_cons_self
    have hxs : ∀ r ∈ xs, r.proper := fun r hr => h r (List.mem_cons_of_mem _ hr)
    unfold sendFirst
    split
    · split
      · exact hxs
      · exact List.forall_mem_cons.2 ⟨sendRecord_proper c p hx, hxs⟩
    · exact List.forall_mem_cons.2 ⟨hx, ih hxs⟩

theorem mem_insertEntry {n : Count} {e d : QueueEntry} {es : List QueueEntry} (h : d ∈ insertEntry n e es) :
    d = e ∨ d ∈ es := by
  induction es with
  | nil => exact .inl (List.mem_singleton.1 h)
  | cons x xs ih =>
    unfold insertEntry at h
    split at h
    · simpa using h
    · obtain rfl | h := List.mem_cons.1 h
      · exact .inr List.mem_cons_self
      · exact (ih h).imp_right (List.mem_cons_of_mem _)

/-! ### Every act -/

theorem freshVariant_proper {l : Label} {text : List Byte} (hl : l.proper) (ht : properText text) :
    (freshVariant l text).proper := ⟨hl, ht, (fun _ e => nomatch e), (fun _ e => nomatch e)⟩

theorem freshContent_proper {c : SavedContent} (h : c.proper) : (freshContent c).proper := by
  refine ⟨fun p => ?_, h.neighbour⟩
  have e : (freshContent c).outs.get p = freshOutContent c p := Table.get_tabulate ..
  rw [e]
  exact ⟨freshVariant_proper (h.label p 0) (h.text p 0), freshVariant_proper (h.label p 1) (h.text p 1), h.freqs p,
    (fun _ e => nomatch e)⟩

theorem retainVariant_proper {v : VariantContent} (h : v.proper) : (retainVariant v).proper :=
  ⟨h.1, h.2.1, (fun _ e => nomatch e), (fun _ e => nomatch e)⟩

theorem retainContent_proper {c : Content} (h : c.proper) : (retainContent c).proper := by
  refine ⟨fun p => ?_, h.2⟩
  have e : (retainContent c).outs.get p = retainOut (c.outs.get p) := Table.get_map ..
  obtain ⟨hn, hr, hf, _⟩ := h.1 p
  rw [e]
  exact ⟨retainVariant_proper hn, retainVariant_proper hr, hf, (fun _ e => nomatch e)⟩

theorem resetBlocks_inRange {g : Settings} {tb : Timebase} {content : Content} {store : StoreCtl}
    {links : Table 4 LinkState} {s : State} (hg : g.inRange) (hc : content.proper) :
    (resetBlocks g tb content store links s).inRange :=
  ⟨hg, hc, (fun _ h => nomatch h), (fun _ h => nomatch h), (fun _ h => nomatch h)⟩

theorem powerOnState_content (rate1 rate0 : Bool) (s : State) :
    ∃ c, c.proper ∧ (powerOnState rate1 rate0 s).content = freshContent c := by
  unfold powerOnState
  split
  next h => exact ⟨_, (readImage_proper h).2, rfl⟩
  · exact ⟨_, builtinContent_proper, rfl⟩

theorem powerOnState_inRange (rate1 rate0 : Bool) (s : State) : (powerOnState rate1 rate0 s).inRange := by
  unfold powerOnState
  split
  next h => exact resetBlocks_inRange (readImage_proper h).1 (freshContent_proper (readImage_proper h).2)
  · exact resetBlocks_inRange (builtinSettings_inRange _) (freshContent_proper builtinContent_proper)

theorem slotAct_proper {old r : Option Neighbour} (a : SlotAct TimedCmd.proper old r)
    (h : ∀ x, old = some x → x.proper) : ∀ x, r = some x → x.proper := by
  cases a with
  | free => exact (fun _ e => nomatch e)
  | write hc hne =>
    rintro x ⟨⟩
    obtain ⟨hid, hf, hlen, hp⟩ := hc
    exact ⟨fun h0 => hne (hid h0), hne, hf, hlen, hp⟩
  | @flags y f he =>
    rintro x ⟨⟩
    exact h y he

theorem act_inRange {s t : State} (a : Act TimedCmd.proper s t) (h : s.inRange) : t.inRange := by
  obtain ⟨hg, hc, hq, hm, hp⟩ := id h
  cases a with
  | powerOn rate1 rate0 => exact powerOnState_inRange rate1 rate0 s
  | reset => exact resetBlocks_inRange (loadedSettings_inRange s) (retainContent_proper hc)
  | outs t a => exact ⟨hg, ⟨fun p => outAct_proper (a p) (hc.1 p), hc.2⟩, hq, hm, hp⟩
  | neighbour slot r a =>
    refine ⟨hg, ⟨hc.1, fun i x e => ?_⟩, hq, hm, hp⟩
    have e : (s.content.neighbours.set slot r).get i = some x := e
    rw [Table.get_set] at e
    split at e
    · exact slotAct_proper a (hc.2 slot) x e
    · exact hc.2 i x e
  | claimEnters m ht hl hf free room hn =>
    refine ⟨hg, hc, hq, fun c hcm => ?_, hp⟩
    simp only [ht, List.mem_append, List.mem_singleton] at hcm
    obtain hcm | rfl := hcm
    · obtain ⟨d, hd, rfl⟩ := List.mem_map.1 (hl.subset hcm)
      exact (hf d).proper (hm d hd)
    · exact newcomer_proper hn hg _
  | claimEnds c reason count => exact ⟨hg, hc, hq, fun d hd => hm d (List.mem_filter.1 hd).1, hp⟩
  | claimsMove f next hf =>
    refine ⟨hg, hc, hq, fun c hcm => ?_, hp⟩
    obtain ⟨d, hd, rfl⟩ := List.mem_map.1 hcm
    exact (hf d).proper (hm d hd)
  | recordEnters m count hr _ _ =>
    refine ⟨hg, hc, hq, hm, fun r hrm => ?_⟩
    obtain hrm | hrm := List.mem_append.1 hrm
    · exact hp r hrm
    · rw [List.mem_singleton.1 hrm]
      exact newRecord_proper hr m count
  | recordReplaced m count hr i hi =>
    refine ⟨hg, hc, hq, hm, fun r hrm => ?_⟩
    obtain hrm | rfl := List.mem_or_eq_of_mem_set hrm
    · exact hp r hrm
    · exact newRecord_proper hr m count
  | recordLeaves i => exact ⟨hg, hc, hq, hm, fun r hr => hp r (List.mem_of_mem_eraseIdx hr)⟩
  | recordsMove f hf =>
    refine ⟨hg, hc, hq, hm, fun r hrm => ?_⟩
    obtain ⟨d, hd, rfl⟩ := List.mem_map.1 hrm
    exact (hf d).proper (hp d hd)
  | recordSent c p => exact ⟨hg, hc, hq, hm, sendFirst_proper c p hp⟩
  | entryQueued n e he room =>
    refine ⟨hg, hc, fun d hd => ?_, hm, hp⟩
    obtain rfl | hd := mem_insertEntry hd
    · exact he
    · exact hq d hd
  | entriesLeave es hsub => exact ⟨hg, hc, fun e he => hq e (hsub.subset he), hm, hp⟩
  | settings g a => exact ⟨settingsAct_inRange a hg, hc, hq, hm, hp⟩
  | reload g c image hi => exact ⟨(readImage_proper hi).1, hc, hq, hm, hp⟩
  | draws | tb | lanes | monitor | prevAn | claimCounters | poolCounters | queueRecords | cues | links | tokens | router
  | fault | faultsCleared | alertMask | saveBegins | saveEnds => exact ⟨hg, hc, hq, hm, hp⟩

/-! ### Positions (R43, R45, R46) -/

namespace OutContent

theorem labelTotal_eq (o : OutContent) : o.labelTotal = (o.shownLabel.chars.length + 5) / 6 := rfl

theorem textTotal_eq (o : OutContent) : o.textTotal = (o.shownText.length + 5) / 6 := rfl

theorem freqTotal_eq (o : OutContent) : o.freqTotal = (o.freqs.length + 3) / 4 := rfl

/-- A label has a segment 0 (R39). -/
theorem labelTotal_pos {o : OutContent} (h : o.proper) : 0 < o.labelTotal := by
  have hl := (variant_proper h o.labelShown).1.1
  have e : (o.variant o.labelShown).label = o.shownLabel := rfl
  rw [e] at hl
  rw [labelTotal_eq]
  omega

/-- Positions at 0 lie within any totals. -/
theorem positionsWithin_of_zero {o : OutContent} (h : o.proper) (hl : o.labelPos = 0) (ht : o.textPos = 0)
    (hf : o.freqPos = 0) : o.positionsWithin := by
  refine ⟨?_, .inl ht, .inl hf⟩
  have := labelTotal_pos h
  rw [hl, ← labelTotal_eq]
  exact this

/-- What the positions rest on: the labels shown, the text shown and the live list. -/
theorem positionsWithin_of_eq {o o' : OutContent} (h : o.positionsWithin) (hs : o'.shownLabel = o.shownLabel)
    (ht : o'.shownText = o.shownText) (hf : o'.freqs = o.freqs) (h1 : o'.labelPos = o.labelPos)
    (h2 : o'.textPos = o.textPos) (h3 : o'.freqPos = o.freqPos) : o'.positionsWithin := by
  unfold positionsWithin at h ⊢
  rw [hs, ht, hf, h1, h2, h3]
  exact h

theorem stageLabel_shown (v : Variant) (l : Label) (o : OutContent) :
    (o.stageLabel v l).shownLabel = o.shownLabel ∧ (o.stageLabel v l).shownText = o.shownText := by
  unfold shownLabel shownText stageLabel supersede
  cases v <;> cases hl : o.labelShown <;> cases ht : o.textShown <;> simp [modVariant, variant, hl, ht]

theorem stageText_shown (v : Variant) (chars : List Byte) (o : OutContent) :
    (o.stageText v chars).shownLabel = o.shownLabel ∧ (o.stageText v chars).shownText = o.shownText := by
  unfold shownLabel shownText stageText supersede
  cases v <;> cases hl : o.labelShown <;> cases ht : o.textShown <;> simp [modVariant, variant, hl, ht]

/-- A text commit leaves the labels. -/
theorem commitText_label (o : OutContent) : o.commitText.shownLabel = o.shownLabel := by
  unfold commitText
  split
  · unfold shownLabel
    cases o.source.variant <;> cases hl : o.labelShown <;> simp [modVariant, variant, hl]
  · rfl

/-- A text commit is made at position 0 only (R44). -/
theorem commitText_positions {o : OutContent} (h : o.positionsWithin) : o.commitText.positionsWithin := by
  have hl := commitText_label o
  unfold commitText at hl ⊢
  split
  next hc =>
    rw [if_pos hc] at hl
    obtain ⟨h1, _, h3⟩ := h
    refine ⟨?_, .inl ?_, ?_⟩
    · rw [hl]
      cases hv : o.source.variant <;> simpa [modVariant, hv] using h1
    · cases hv : o.source.variant <;> simpa [modVariant, hv] using hc.1
    · cases hv : o.source.variant <;> simpa [modVariant, hv] using h3
  · exact h

/-- A new list becomes live at chunk 0 only (R46). -/
theorem commitFreqs_positions {o : OutContent} (h : o.positionsWithin) : o.commitFreqs.positionsWithin := by
  unfold commitFreqs
  split
  · split
    next h0 => exact ⟨h.1, h.2.1, .inl h0⟩
    · exact h
  · exact h

theorem commitLabel_text (o : OutContent) : o.commitLabel.shownText = o.shownText := by
  have h := commitLabel_face o
  unfold shownText
  rw [h.textShown]
  cases o.textShown
  · exact h.textN
  · exact h.textR

theorem commitLabel_pos (o : OutContent) : o.commitLabel.labelPos = o.labelPos ∧ o.commitLabel.textPos = o.textPos ∧
    o.commitLabel.freqPos = o.freqPos := by
  unfold commitLabel
  split
  · cases o.source.variant <;> exact ⟨rfl, rfl, rfl⟩
  · exact ⟨rfl, rfl, rfl⟩

/-- A label is committed at segment 0 only (R42). -/
theorem commitLabel_positions {o : OutContent} (hp : o.proper) (h : o.positionsWithin) :
    o.commitLabel.positionsWithin := by
  obtain ⟨h1, h2, h3⟩ := h
  obtain ⟨e1, e2, e3⟩ := commitLabel_pos o
  refine ⟨?_, ?_, ?_⟩
  · by_cases h0 : o.labelPos = 0
    · have := labelTotal_pos (commitLabel_proper hp)
      rw [e1, h0, ← labelTotal_eq]
      exact this
    · have e : o.commitLabel = o := by unfold commitLabel; rw [if_neg h0]
      rw [e]
      exact h1
  · rw [e2, commitLabel_text]
    exact h2
  · rw [e3, (commitLabel_face o).freqs]
    exact h3

end OutContent

theorem outAct_positions {o o' : OutContent} (a : OutAct TimedCmd.proper o o') (hp : o.proper)
    (h : o.positionsWithin) : o'.positionsWithin := by
  obtain ⟨h1, h2, h3⟩ := id h
  cases a with
  | stageLabel =>
    obtain ⟨hl, ht⟩ := OutContent.stageLabel_shown ‹Variant› ‹Label› o
    refine OutContent.positionsWithin_of_eq h hl ht ?_ ?_ ?_ ?_ <;>
      (unfold OutContent.stageLabel OutContent.modVariant; cases ‹Variant› <;> rfl)
  | stageText =>
    obtain ⟨hl, ht⟩ := OutContent.stageText_shown ‹Variant› ‹List Byte› o
    refine OutContent.positionsWithin_of_eq h hl ht ?_ ?_ ?_ ?_ <;>
      (unfold OutContent.stageText OutContent.modVariant; cases ‹Variant› <;> rfl)
  | stageFreqs => exact h
  | source => exact h
  | cycle => exact h
  | commitTexts => exact OutContent.commitFreqs_positions (OutContent.commitText_positions h)
  | commitLabel => exact OutContent.commitLabel_positions hp h
  | advanceLabel => exact ⟨Nat.mod_lt _ (OutContent.labelTotal_pos hp), h2, h3⟩
  | advanceText hne =>
    have hpos : 0 < o.textTotal := by
      have := List.length_pos_iff.2 hne
      rw [OutContent.textTotal_eq]
      omega
    exact ⟨h1, .inr (Nat.mod_lt _ hpos), h3⟩
  | advanceFreqs hne =>
    have hpos : 0 < o.freqTotal := by
      have := List.length_pos_iff.2 hne
      rw [OutContent.freqTotal_eq]
      omega
    exact ⟨h1, h2, .inr (Nat.mod_lt _ hpos)⟩
  | startRun => exact OutContent.positionsWithin_of_zero (o := o.startRun) hp rfl rfl rfl

theorem act_positions {s t : State} (a : Act TimedCmd.proper s t) (hr : s.inRange) (h : s.positionsWithin) :
    t.positionsWithin := by
  have ht := act_inRange a hr
  cases a with
  | powerOn rate1 rate0 =>
    intro p
    obtain ⟨c, _, e⟩ := powerOnState_content rate1 rate0 s
    have ep : (powerOnState rate1 rate0 s).out p = freshOutContent c p := by
      unfold State.out
      rw [e]
      exact Table.get_tabulate ..
    refine OutContent.positionsWithin_of_zero (ht.2.1.1 p) ?_ ?_ ?_ <;>
      exact (congrArg _ ep).trans rfl
  | reset =>
    intro p
    have ep : (retainedReset s).out p = retainOut (s.out p) := Table.get_map ..
    refine OutContent.positionsWithin_of_zero (ht.2.1.1 p) ?_ ?_ ?_ <;>
      exact (congrArg _ ep).trans rfl
  | outs t a => exact fun p => outAct_positions (a p) (hr.2.1.1 p) (h p)
  | draws | tb | lanes | monitor | neighbour | prevAn | claimEnters | claimEnds | claimsMove | claimCounters
  | recordEnters | recordReplaced | recordLeaves | recordsMove | recordSent | poolCounters | entryQueued | entriesLeave
  | queueRecords | cues | links | tokens | router | fault | faultsCleared | alertMask | saveBegins | saveEnds | settings
  | reload => exact h

/-- Settles O59: what passes an owner's checks is proper, so every act on a proper state leaves one; and every act
that moves a position or what it runs through leaves the position within. -/
theorem stepsKeepValuesInRange : Obligations.StepsKeepValuesInRange := by
  unfold Obligations.StepsKeepValuesInRange
  constructor
  · intro s t h e
    obtain ⟨rest, ha⟩ := step_acts (C := TimedCmd.proper) (fun _ _ _ _ => ownerCheck_proper) h.2.2.1 e
    exact ha.induct (P := State.inRange) (fun _ _ => act_inRange) h
  · intro s t h hpos e
    obtain ⟨rest, ha⟩ := step_acts (C := TimedCmd.proper) (fun _ _ _ _ => ownerCheck_proper) h.2.2.1 e
    exact (ha.induct (P := fun u => u.inRange ∧ u.positionsWithin)
      (fun _ _ a hu => ⟨act_inRange a hu.1, act_positions a hu.1 hu.2⟩) ⟨h, hpos⟩).2

end Sys2Proof.Machine

/-! PROOFS. The queue of commands and the resets (R165 to R168, R17, R35, R54). -/

namespace Sys2Proof.Machine

/-! ### The queue of commands -/

/-- Settles O25: by the equation of `step` at a queue with a front. -/
theorem frontCommandRuns : Obligations.FrontCommandRuns := by
  intro s c rest h
  unfold step
  rw [h]

/-- No meaning of the model answers a fault or a refusal. -/
theorem exec_isNext (c : Instr) (s : State) : ∃ t, exec c s = .next t := by
  cases c <;> exact ⟨_, rfl⟩

/-- An elementary act leaves the queue of commands. -/
theorem act_pending {C : TimedCmd → Prop} {s t : State} (a : Act C s t) : t.pending = s.pending := by
  cases a with
  | powerOn rate1 rate0 =>
    unfold powerOnState
    split <;> rfl
  | _ => rfl

/-- Settles O26: every command is a run of elementary acts, none of which touches the queue of commands. -/
theorem everyCommandCompletes : Obligations.EveryCommandCompletes := by
  intro c s
  obtain ⟨t, e⟩ := exec_isNext c s
  have acts : Acts (fun _ => True) s t := exec_acts (fun _ _ _ _ _ => trivial) (fun _ _ => trivial) e
  exact ⟨t, e, acts.induct (P := fun u => u.pending = s.pending) (fun _ _ a h => (act_pending a).trans h) rfl⟩

/-! ### What a reset loads -/

theorem powerOnState_valid {rate1 rate0 : Bool} {s : State} {g : Settings} {c : SavedContent}
    (h : readImage s.store.image = some (g, c)) : powerOnState rate1 rate0 s =
      resetBlocks g (resetTimebase .afterPowerOn 0) (freshContent c)
        (loadedStore s.store.image .store true g.alertMask rate1 rate0) (g.links.map resetLink) s := by
  simp only [powerOnState, resetImage, h]

theorem powerOnState_invalid {rate1 rate0 : Bool} {s : State} (h : readImage s.store.image = none) :
    powerOnState rate1 rate0 s =
      resetBlocks (builtinSettings (strapRate rate1 rate0)) (resetTimebase .afterPowerOn 0)
        (freshContent builtinContent) (loadedStore s.store.image .defaults false 31 rate1 rate0)
        ((builtinSettings (strapRate rate1 rate0)).links.map resetLink) s := by
  simp only [powerOnState, resetImage, h]
  rfl

theorem loadedSettings_valid {s : State} {g : Settings} {c : SavedContent}
    (h : readImage s.store.image = some (g, c)) : loadedSettings s = g := by
  simp only [loadedSettings, resetImage, h]

theorem loadedSettings_invalid {s : State} (h : readImage s.store.image = none) :
    loadedSettings s = builtinSettings (strapRate s.store.rate1 s.store.rate0) := by
  simp only [loadedSettings, resetImage, h]

/-- A valid image leaves no flag set, so that ALERT is not asserted. -/
theorem loadedStore_valid (image : List Byte) (origin : ContentOrigin) (mask : BitVec 5) (rate1 rate0 : Bool) :
    (loadedStore image origin true mask rate1 rate0).faults = 0 ∧
      (loadedStore image origin true mask rate1 rate0).alert = false := by
  simp [loadedStore, alertLevel]

/-- The built-in settings come with CONFIG_DEFAULTS, which their mask lets through to ALERT. -/
theorem loadedStore_builtin (image : List Byte) (origin : ContentOrigin) (rate1 rate0 : Bool) :
    (loadedStore image origin false 31 rate1 rate0).faults = 1 ∧
      (loadedStore image origin false 31 rate1 rate0).alert = true := by
  simp [loadedStore, alertLevel, FaultFlag.bit]

/-- A disable of a link that sends nothing leaves it with the closing GO, begun or due, or with nothing. -/
theorem turnOff_silent {k : LinkState} (ht : k.tx = none) (hk : k.ctrl = []) :
    (k.turnOff.tx = none ∧ k.turnOff.ctrl = if k.holdOut then [0xC1] else []) ∨
      (k.holdOut = true ∧ k.turnOff.tx = some (.ctrl 0xC1) ∧ k.turnOff.ctrl = []) := by
  have tx : k.silenced.tx = none := (LinkState.cutByte_none k).2 ht
  have ctrl : k.silenced.ctrl = if k.holdOut then [0xC1] else [] := by
    simp only [LinkState.silenced, hk]; rfl
  rcases LinkState.nextByte_noReplies
    (k := { k.silenced with restartAt := k.restartAt.map (LinkState.Mark.dropReply k.silenced.ctrlLeft) }) rfl with e | e
  · exact .inl ⟨(congrArg LinkState.tx e).trans tx, (congrArg LinkState.ctrl e).trans ctrl⟩
  · obtain ⟨c, cs, _, hc, e⟩ := e
    have hc : c :: cs = if k.holdOut then [0xC1] else [] := hc.symm.trans ctrl
    cases hh : k.holdOut with
    | false => simp [hh] at hc
    | true =>
      simp only [hh, if_true, List.cons.injEq] at hc
      obtain ⟨rfl, rfl⟩ := hc
      exact .inr ⟨rfl, congrArg LinkState.tx e, congrArg LinkState.ctrl e⟩

/-- A link the loaded settings leave disabled, with nothing due on it, sends the GO that a HOLD is owed. -/
theorem retainLink_disabled {cfg : LinkSettings} {k : LinkState} (hc : cfg.enable = false) (ht : k.tx = none)
    (hk : k.ctrl = []) : (retainLink cfg k).tx = if k.holdOut then some (.ctrl 0xC1) else none := by
  simp only [retainLink, hc, Bool.false_eq_true, if_false]
  rcases turnOff_silent ht hk with ⟨tx, ctrl⟩ | ⟨hold, tx, ctrl⟩
  · rw [tx, ctrl]
    cases k.holdOut <;> rfl
  · rw [tx, ctrl, hold]
    rfl

/-- An enabled link sends GO first. -/
theorem resetLink_enabled {cfg : LinkSettings} (h : cfg.enable = true) :
    (resetLink cfg).tx = some (.ctrl 0xC1) ∧ (resetLink cfg).ctrl = [] := by
  simp [resetLink, h, goByte]

/-- Settles O27: the four loads of a power-on and a pin reset, and the closing GO of a link left disabled. -/
theorem resetsLoadSettingsAndContent : Obligations.ResetsLoadSettingsAndContent := by
  constructor
  · intro rate1 rate0 s
    refine ⟨_, rfl, ?_⟩
    cases h : readImage s.store.image with
    | some gc =>
      obtain ⟨g, c⟩ := gc
      rw [powerOnState_valid h]
      obtain ⟨faults, alert⟩ := loadedStore_valid s.store.image .store g.alertMask rate1 rate0
      refine ⟨fun g' c' e => ?_, fun e => by simp at e, rfl, rfl, rfl, rfl, rfl⟩
      cases e
      exact ⟨rfl, rfl, faults, alert, rfl⟩
    | none =>
      rw [powerOnState_invalid h]
      obtain ⟨faults, alert⟩ := loadedStore_builtin s.store.image .defaults rate1 rate0
      refine ⟨fun g' c' e => by simp at e, fun _ => ⟨?_, rfl, faults, alert, rfl⟩, rfl, rfl, rfl, rfl, rfl⟩
      cases rate1 <;> cases rate0 <;> rfl
  · intro s
    refine ⟨retainedReset s, rfl, fun g c h => ?_, fun h => ?_, rfl, rfl, rfl, rfl, rfl, fun p => ?_, fun l => ?_, rfl, rfl⟩
    · have load : (resetImage s).isSome = true := by rw [resetImage, h]; rfl
      have settings := loadedSettings_valid h
      simp only [retainedReset, resetBlocks, load, settings]
      exact ⟨trivial, loadedStore_valid ..⟩
    · have load : (resetImage s).isSome = false := by rw [resetImage, h]; rfl
      have settings := loadedSettings_invalid h
      simp only [retainedReset, resetBlocks, load, settings]
      exact ⟨trivial, loadedStore_builtin ..⟩
    · have out : (retainedReset s).out p = retainOut (s.out p) := Table.get_map ..
      rw [out]
      exact ⟨rfl, rfl, rfl, rfl, rfl, rfl, rfl, rfl, rfl, rfl, rfl, rfl, rfl, rfl, rfl, rfl, rfl, rfl, rfl, rfl, rfl, rfl⟩
    · intro hc ht hk
      have link : (retainedReset s).link l = retainLink ((retainedReset s).linkCfg l) (s.link l) := Table.get_tabulate ..
      rw [link]
      exact retainLink_disabled hc ht hk

/-! ### What every reset clears -/

/-- A link after a reset: its transmitter apart, it is as `resetLink` leaves it, and an enabled one sends GO first. -/
def ResetLike (cfg : LinkSettings) (k : LinkState) : Prop :=
  k = { resetLink cfg with tx := k.tx, ctrl := k.ctrl } ∧
    (cfg.enable = true → k.tx = some (.ctrl 0xC1) ∧ k.ctrl = [])

theorem resetLink_resetLike (cfg : LinkSettings) : ResetLike cfg (resetLink cfg) := ⟨rfl, resetLink_enabled⟩

theorem retainLink_resetLike (cfg : LinkSettings) (k : LinkState) : ResetLike cfg (retainLink cfg k) := by
  unfold retainLink
  cases h : cfg.enable with
  | true => exact resetLink_resetLike cfg
  | false => exact ⟨LinkState.nextByte_eq _, fun e => by simp [h] at e⟩

/-- Every reset is `resetBlocks` over a timebase and links as a reset leaves them. -/
theorem reset_is_resetBlocks {s t : State}
    (h : (∃ r1 r0, exec (.powerOn r1 r0) s = .next t) ∨ exec .pinReset s = .next t) :
    ∃ g start count content store links, t = resetBlocks g (resetTimebase start count) content store links s ∧
      (∀ l, ResetLike (g.links.get l) (links.get l)) ∧ (∀ p, (content.outs.get p).counters = resetContentCounters) ∧
      store.saving = none := by
  have fresh (c : SavedContent) (p : OutId) : ((freshContent c).outs.get p).counters = resetContentCounters :=
    congrArg OutContent.counters (Table.get_tabulate _ p)
  have powered (links : Table 4 LinkSettings) (l : LinkId) : ResetLike (links.get l) ((links.map resetLink).get l) := by
    rw [Table.get_map]; exact resetLink_resetLike _
  rcases h with ⟨r1, r0, e⟩ | e
  · cases e
    cases h : readImage s.store.image with
    | some gc => exact ⟨_, _, _, _, _, _, powerOnState_valid h, powered _, fresh _, rfl⟩
    | none => exact ⟨_, _, _, _, _, _, powerOnState_invalid h, powered _, fresh _, rfl⟩
  · cases e
    refine ⟨_, _, _, _, _, _, rfl, fun l => ?_, fun p => congrArg OutContent.counters (Table.get_map retainOut _ p), rfl⟩
    rw [Table.get_tabulate]
    exact retainLink_resetLike _ _

/-- Settles O28: each block after a reset is its reset value, read field by field. -/
theorem everyResetClearsTheWorkingState : Obligations.EveryResetClearsTheWorkingState := by
  intro s t h
  obtain ⟨g, start, count, content, store, links, rfl, reset, counters, saving⟩ := reset_is_resetBlocks h
  refine ⟨fun p => ?_, rfl, rfl, rfl, rfl, rfl, rfl, rfl, rfl, rfl, rfl, rfl, rfl, rfl, rfl, rfl, rfl,
    fun o => Table.get_replicate .., rfl, rfl, fun i => Table.get_replicate .., rfl, rfl, rfl,
    fun l => Table.get_replicate .., rfl, fun c => ?_, fun l => ?_, fun i => Table.get_replicate .., rfl, rfl, saving⟩
  · have lane : (resetBlocks g (resetTimebase start count) content store links s).lane p = resetLane :=
      Table.get_replicate ..
    rw [lane]
    exact ⟨rfl, rfl, rfl, rfl, fun k => Table.get_replicate .., rfl, rfl, rfl, rfl, rfl, rfl, rfl, rfl, rfl,
      fun k => Table.get_replicate .., fun k => Table.get_replicate .., fun k => Table.get_replicate .., rfl, rfl, rfl,
      rfl, rfl, counters p⟩
  · have cue : (resetBlocks g (resetTimebase start count) content store links s).cue c = resetCueLine :=
      Table.get_replicate ..
    rw [cue]
    exact ⟨rfl, rfl, rfl, rfl, rfl, rfl⟩
  · obtain ⟨e, go⟩ := reset l
    have link : (resetBlocks g (resetTimebase start count) content store links s).link l = links.get l := rfl
    have cfg : (resetBlocks g (resetTimebase start count) content store links s).linkCfg l = g.links.get l := rfl
    rw [link, cfg]
    refine ⟨?_, ?_, ?_, ?_, ?_, ?_, ?_, ?_, ?_, ?_, ?_, ?_, ?_, ?_, go⟩ <;> rw [e] <;> rfl

/-! ### The part after reset -/

theorem reset_link (l : LinkId) : State.reset.link l = resetLink (builtinLink .r9600) := Table.get_replicate ..

theorem reset_lane (p : OutId) : State.reset.lane p = resetLane := Table.get_replicate ..

/-- A power-on with an empty store is the state after reset. -/
theorem powerOn_reset : exec (.powerOn false false) State.reset = .next State.reset := by
  have empty : readImage State.reset.store.image = none := by
    simp [readImage, State.reset, imageBodyLength]
  have outs : freshContent builtinContent = State.reset.content := rfl
  show Host.Outcome.next (powerOnState false false State.reset) = _
  rw [powerOnState_invalid empty]
  have links : ((builtinSettings (strapRate false false)).links.map resetLink) = State.reset.links := by
    apply Table.eq_of_get
    intro l
    rw [Table.get_map]
    exact (congrArg resetLink (Table.get_replicate _ l)).trans (Table.get_replicate _ l).symm
  rw [links]
  rfl

theorem reset_withinSize : State.reset.withinSize := by
  refine ⟨by decide, by decide, by decide, resetTimebase_size _ _, fun p => ?_, ⟨by decide, ?_⟩, fun l => ?_⟩
  · rw [reset_lane]; exact resetScheduler_size
  · intro image h; cases h
  · rw [reset_link]; exact resetLink_size _

theorem reset_pinsFollow : State.reset.pinsFollow := by
  refine ⟨fun p => ?_, rfl, rfl⟩
  rw [reset_lane]
  exact ⟨⟨rfl, fun _ => ⟨rfl, rfl, rfl, rfl⟩⟩, fun h => by cases h⟩

theorem reset_inRange : State.reset.inRange :=
  ⟨builtinSettings_inRange _, freshContent_proper builtinContent_proper, by simp [State.reset, resetQueue],
    by simp [State.reset, resetClaims], by simp [State.reset, resetPool]⟩

/-- Settles O55: the power-on loads what `State.reset` writes out, and each property holds of it. -/
theorem resetIsAPowerOnWithEveryProperty : Obligations.ResetIsAPowerOnWithEveryProperty := by
  refine ⟨powerOn_reset, reset_withinSize, ?_, rfl, reset_pinsFollow, reset_inRange, fun p => ?_, ?_, fun p => ?_⟩
  · refine ⟨fun p => ?_, fun c => ?_, fun l => ?_⟩
    · rw [reset_lane]; decide
    · have cue : State.reset.cue c = resetCueLine := Table.get_replicate ..
      rw [cue]; decide
    · rw [reset_link]; decide
  · obtain ⟨_, ⟨proper, _⟩, _⟩ := reset_inRange
    have out : State.reset.out p = freshOutContent builtinContent p := Table.get_tabulate ..
    refine OutContent.positionsWithin_of_zero (proper p) ?_ ?_ ?_ <;> exact out ▸ rfl
  · exact ⟨List.nodup_nil, List.nodup_nil⟩
  · rw [reset_lane]
    simp [Sequencer.namesByPhase, resetLane, resetSequencer]

end Sys2Proof.Machine

/-! SUPPORT. The rows of the part commands: an OK answer whose act leaves the links, and what the acts write. -/

namespace Sys2Proof.Machine

/-- A part command whose owner answers OK and acts on what the take has left, with an act that commutes with the reply. -/
theorem checkedRow_gives {α : Type} {c : Cmd} {check : List Byte → Checked α} {act : α → State → Answer} {l : LinkId}
    {s : State} {body data : List Byte} {x : α} {adj : Bool} (F : State → State)
    (hF : ∀ u f, (F u).modLink l f = F (u.modLink l f)) (h : PartFrame s l c body)
    (hc : check (body.drop 5) = .ok (x, adj)) (ha : act x (takeFrame l s) = .give data (F (takeFrame l s))) :
    partRow c (checkedAct check act) noAfter l s = .next (F (answered l c .ok adj data s)) := by
  rw [checkedRow_ok h hc ha, hF, answered_of_keeps]
  rfl

theorem alertLevel_eq (faults mask : BitVec 5) : alertLevel faults mask = decide (faults &&& mask ≠ 0) := by
  rw [Bool.eq_iff_iff]; simp [alertLevel]

theorem checkNone_nil : checkNone [] = .ok ((), false) := rfl

/-- A two-byte number is 0 exactly as a word. -/
theorem ofNat_two_eq_zero (a b : Byte) : BitVec.ofNat 16 (natOf [a, b]) = 0 ↔ natOf [a, b] = 0 := by
  have := natOf_two_lt a b
  constructor
  · intro h
    have := congrArg BitVec.toNat h
    simp only [BitVec.toNat_ofNat, BitVec.ofNat_eq_ofNat, Nat.zero_mod] at this
    omega
  · intro h; rw [h]; rfl

/-! ### The table of a route's terms -/

/-- The three bytes of a term spell the term whose tests they name. -/
theorem termOf_eq_some {flags slot set : Byte} {t : RouteTerm} (enable : t.enable = flags.getLsbD 7)
    (combiner : t.combiner = if flags.getLsbD 4 then .or else .and)
    (noAddress : flags.getLsbD 6 = false → t.addressTest = none)
    (address : flags.getLsbD 6 = true → ∃ i, t.addressTest = some i ∧ i.val = slot.toNat)
    (noGroup : flags.getLsbD 5 = false → t.groupTest = none)
    (group : flags.getLsbD 5 = true → ∃ i, t.groupTest = some i ∧ i.val = set.toNat) :
    termOf [flags, slot, set] = some t := by
  have addressTest : (if flags.getLsbD 6 then (index? 16 slot.toNat).map some else some none) = some t.addressTest := by
    cases h : flags.getLsbD 6 with
    | false => rw [noAddress h]; rfl
    | true =>
      obtain ⟨i, test, e⟩ := address h
      rw [test, index?_of e.symm]; rfl
  have groupTest : (if flags.getLsbD 5 then (index? 8 set.toNat).map some else some none) = some t.groupTest := by
    cases h : flags.getLsbD 5 with
    | false => rw [noGroup h]; rfl
    | true =>
      obtain ⟨i, test, e⟩ := group h
      rw [test, index?_of e.symm]; rfl
  obtain ⟨e, a, g, c⟩ := t
  simp only at enable combiner addressTest groupTest
  simp only [termOf, byteAt, List.getD_cons_zero, List.getD_cons_succ, addressTest, groupTest, enable, combiner]

/-- A slot or a group set above its range, in a test that is present, spells no term. -/
theorem termOf_eq_none {flags slot set : Byte}
    (h : (flags.getLsbD 6 = true ∧ 16 ≤ slot.toNat) ∨ (flags.getLsbD 5 = true ∧ 8 ≤ set.toNat)) :
    termOf [flags, slot, set] = none := by
  rcases h with ⟨test, above⟩ | ⟨test, above⟩
  · simp only [termOf, byteAt, List.getD_cons_zero, List.getD_cons_succ, test, index?_none above]
    rfl
  · simp only [termOf, byteAt, List.getD_cons_zero, List.getD_cons_succ, test, index?_none above]
    split <;> simp_all

theorem routeOf_eq_ok {e m : Byte} {flags slots sets : Fin 4 → Byte} {terms : Table 4 RouteTerm}
    (h : ∀ j, termOf [flags j, slots j, sets j] = some (terms.get j)) :
    routeOf [e, m, flags 0, slots 0, sets 0, flags 1, slots 1, sets 1, flags 2, slots 2, sets 2, flags 3, slots 3,
      sets 3] = pass { enable := e != 0, dest := m.setWidth 4, terms := terms } false := by
  have table : (⟨[terms.get 0, terms.get 1, terms.get 2, terms.get 3], rfl⟩ : Table 4 RouteTerm) = terms := by
    apply Table.eq_of_get
    intro i
    match i with
    | 0 | 1 | 2 | 3 => rfl
  show (match termOf [flags 0, slots 0, sets 0], termOf [flags 1, slots 1, sets 1], termOf [flags 2, slots 2, sets 2],
    termOf [flags 3, slots 3, sets 3] with
    | some t0, some t1, some t2, some t3 => _
    | _, _, _, _ => _) = _
  rw [h, h, h, h]
  exact congrArg (fun t => pass ({ enable := e != 0, dest := m.setWidth 4, terms := t } : RouteEntry) false) table

theorem routeOf_eq_bad {e m : Byte} {flags slots sets : Fin 4 → Byte} {j : Fin 4}
    (h : termOf [flags j, slots j, sets j] = none) :
    routeOf [e, m, flags 0, slots 0, sets 0, flags 1, slots 1, sets 1, flags 2, slots 2, sets 2, flags 3, slots 3,
      sets 3] = bad := by
  show (match termOf [flags 0, slots 0, sets 0], termOf [flags 1, slots 1, sets 1], termOf [flags 2, slots 2, sets 2],
    termOf [flags 3, slots 3, sets 3] with
    | some t0, some t1, some t2, some t3 => _
    | _, _, _, _ => _) = _
  match j with
  | 0 => rw [h]
  | 1 => rw [h]; split <;> simp_all
  | 2 => rw [h]; split <;> simp_all
  | 3 => rw [h]; split <;> simp_all

end Sys2Proof.Machine

/-! PROOFS. The part commands that write settings, the timebase and the fault flags (R151 to R156, R162 to R169). -/

namespace Sys2Proof.Machine

/-! ### The routing settings -/

theorem exec_setSite {s : State} {l : LinkId} {body : List Byte} {i a1 a0 e : Byte} (h : PartFrame s l .setSite body)
    (hb : body.drop 5 = [i, a1, a0, e]) {slot : Fin 16} (hi : i.toNat = slot.val) :
    exec (.setSite l) s = .next (setSite slot { address := BitVec.ofNat 16 (natOf [a1, a0]), enable := e != 0 }
      (answered l .setSite .ok false [] s)) := by
  refine checkedRow_gives (setSite slot _) (fun _ _ => rfl) h (x := (slot, _)) ?_ rfl
  rw [hb]
  show (match index? 16 i.toNat with
    | none => bad
    | some i => _) = _
  rw [index?_of hi]
  rfl

theorem checkSetSite_bad {i a1 a0 e : Byte} (h : 16 ≤ i.toNat) : checkSetSite [i, a1, a0, e] = bad := by
  show (match index? 16 i.toNat with
    | none => bad
    | some i => _) = _
  rw [index?_none h]

/-- The membership the ranges of a SET_GROUPSET spell. -/
def membersOf (ranges : List (Byte × Byte)) : BitVec 256 :=
  (ranges.map fun r => (r.1.toNat, r.2.toNat)).foldl (fun acc r => acc ||| rangeBits r.1 r.2) 0

theorem membersOf_getLsbD (ranges : List (Byte × Byte)) {code : Nat} (h : code < 256) :
    (membersOf ranges).getLsbD code = true ↔ ∃ r, r ∈ ranges ∧ r.1.toNat ≤ code ∧ code ≤ r.2.toNat := by
  have within : ∀ r, r ∈ ranges.map (fun r => (r.1.toNat, r.2.toNat)) → r.2 < 256 := by
    intro r hr
    obtain ⟨x, _, rfl⟩ := List.mem_map.1 hr
    exact x.2.isLt
  rw [membersOf, unionBits_getLsbD _ _ _ h within]
  simp

theorem checkSetGroupset_eq {i k : Byte} {ranges : List (Byte × Byte)} (hk : ranges.length = k.toNat) :
    checkSetGroupset (i :: k :: ranges.flatMap fun r => [r.1, r.2]) =
      if 16 < k.toNat then bad
      else match index? 8 i.toNat with
        | none => bad
        | some set =>
          if ranges.any fun r => decide (r.2.toNat < r.1.toNat) then bad else pass (set, membersOf ranges) false := by
  have length : (i :: k :: ranges.flatMap fun r => [r.1, r.2]).length = 2 + 2 * k.toNat := by
    rw [List.length_cons, List.length_cons, pairs_length, hk]; omega
  have received : receivedRanges (i :: k :: ranges.flatMap fun r => [r.1, r.2]) k.toNat =
      ranges.map fun r => (r.1.toNat, r.2.toNat) := by rw [← hk, receivedRanges_eq]
  unfold checkSetGroupset
  simp only [byteAt, List.getD_cons_zero, List.getD_cons_succ, received, length, ne_eq, not_true, if_false, List.any_map]
  rfl

theorem exec_setGroupset {s : State} {l : LinkId} {body : List Byte} {i k : Byte} {ranges : List (Byte × Byte)}
    (h : PartFrame s l .setGroupset body) (hk : ranges.length = k.toNat)
    (hb : body.drop 5 = i :: k :: ranges.flatMap fun r => [r.1, r.2]) {set : SetId} (hi : i.toNat = set.val)
    (few : k.toNat ≤ 16) (inOrder : ∀ r, r ∈ ranges → r.1.toNat ≤ r.2.toNat) :
    exec (.setGroupset l) s =
      .next (setGroupset set (membersOf ranges) (answered l .setGroupset .ok false [] s)) := by
  refine checkedRow_gives (setGroupset set (membersOf ranges)) (fun _ _ => rfl) h (x := (set, membersOf ranges)) ?_ rfl
  have ordered : (ranges.any fun r => decide (r.2.toNat < r.1.toNat)) = false := by
    rw [List.any_eq_false]
    intro r hr
    simpa using inOrder r hr
  rw [hb, checkSetGroupset_eq hk, if_neg (by omega), index?_of hi, ordered]
  rfl

theorem checkSetGroupset_bad {i k : Byte} {ranges : List (Byte × Byte)} (hk : ranges.length = k.toNat)
    (h : 8 ≤ i.toNat ∨ 16 < k.toNat ∨ ∃ r, r ∈ ranges ∧ r.2.toNat < r.1.toNat) :
    checkSetGroupset (i :: k :: ranges.flatMap fun r => [r.1, r.2]) = bad := by
  rw [checkSetGroupset_eq hk]
  split
  · rfl
  next few =>
    rcases h with set | many | ⟨r, hr, reversed⟩
    · rw [index?_none set]
    · exact absurd many few
    · have any : (ranges.any fun r => decide (r.2.toNat < r.1.toNat)) = true :=
        List.any_eq_true.2 ⟨r, hr, by simpa using reversed⟩
      rw [any]
      split <;> rfl

theorem checkSetRoute_eq (i : Byte) {bs : List Byte} (h : bs.length = 14) : checkSetRoute (i :: bs) =
    match index? 16 i.toNat, routeOf bs with
    | some i, .ok (e, _) => pass (i, e) false
    | _, _ => bad := by
  have length : (i :: bs).length = 15 := by rw [List.length_cons, h]
  unfold checkSetRoute
  rw [if_neg (by omega)]
  rfl

/-- Settles O1: each row is its owner's check of the bytes given, then one setting written. -/
theorem routingSettingsAreWritten : Obligations.RoutingSettingsAreWritten := by
  refine ⟨fun s l body i a1 a0 e h hb => ⟨fun slot hi => exec_setSite h hb hi, fun hi => ?_⟩,
    fun s l body i k ranges h hk hb => ⟨fun set hi few ordered => ?_, fun hi => ?_⟩,
    fun s l body i e m flags slots sets h hb => ⟨fun entry terms hi ht => ?_, fun hi => ?_⟩,
    fun s l body m h hb => ?_⟩
  · exact checkedRow_bad h (by rw [hb]; exact checkSetSite_bad hi)
  · exact ⟨membersOf ranges, exec_setGroupset h hk hb hi few ordered, fun code hc => membersOf_getLsbD ranges hc⟩
  · exact checkedRow_bad h (by rw [hb]; exact checkSetGroupset_bad hk hi)
  · refine checkedRow_gives (setRoute entry _) (fun _ _ => rfl) h (x := (entry, _)) ?_ rfl
    have route := routeOf_eq_ok (e := e) (m := m) (flags := flags) (slots := slots) (sets := sets) (terms := terms)
      fun j => by
        obtain ⟨enable, combiner, noAddress, address, noGroup, group⟩ := ht j
        exact termOf_eq_some enable combiner noAddress address noGroup group
    rw [hb, checkSetRoute_eq i rfl, index?_of hi, route]
    rfl
  · refine checkedRow_bad h ?_
    rw [hb, checkSetRoute_eq i rfl]
    rcases hi with entry | terms
    · rw [index?_none entry]; rfl
    · obtain ⟨j, hj⟩ : ∃ j, termOf [flags j, slots j, sets j] = none := by
        rcases terms with ⟨j, h1, h2⟩ | ⟨j, h1, h2⟩
        · exact ⟨j, termOf_eq_none (.inl ⟨h1, h2⟩)⟩
        · exact ⟨j, termOf_eq_none (.inr ⟨h1, h2⟩)⟩
      rw [routeOf_eq_bad hj]
      cases index? 16 i.toNat <;> rfl
  · exact checkedRow_gives (setDefaultRoute (m.setWidth 4)) (fun _ _ => rfl) h (x := m.setWidth 4) (by rw [hb]; rfl) rfl

/-! ### SET_OUTPUT -/

/-- The output settings the 11 bytes of a SET_OUTPUT leave. -/
def outputSettings (intervals : Table 6 Nat) (flags n1 n0 r1 r0 aN aR lead trail burst : Byte) : OutSettings :=
  { enable := flags.getLsbD 0, tc := flags.getLsbD 1, netId := BitVec.ofNat 16 (natOf [n1, n0])
    regId := BitVec.ofNat 16 (natOf [r1, r0]), accNet := index7 aN.toNat, accReg := index7 aR.toNat
    lead := min lead.toNat 200, trail := min trail.toNat 200, burst := clamp 1 8 burst.toNat, intervals := intervals }

/-- Some field of a SET_OUTPUT lies outside its range. -/
def outputAdjusted (aN aR lead trail burst : Byte) : Bool :=
  decide (7 < aN.toNat) || decide (7 < aR.toNat) || decide (200 < lead.toNat) || decide (200 < trail.toNat) ||
    decide (burst.toNat = 0) || decide (8 < burst.toNat)

theorem outputOf_eq (intervals : Table 6 Nat) (flags n1 n0 r1 r0 aN aR lead trail burst : Byte) :
    outputOf intervals [flags, n1, n0, r1, r0, aN, aR, lead, trail, burst] =
      if natOf [n1, n0] = 0 then bad
      else pass (outputSettings intervals flags n1 n0 r1 r0 aN aR lead trail burst)
        (outputAdjusted aN aR lead trail burst) := by
  have adjusted : outputAdjusted aN aR lead trail burst = (decide (7 < aN.toNat) || decide (7 < aR.toNat) ||
      decide (200 < lead.toNat) || decide (200 < trail.toNat) || clamp 1 8 burst.toNat != burst.toNat) := by
    rw [clamp_ne]
    simp only [outputAdjusted, Nat.lt_one_iff, Bool.or_assoc]
  simp only [← ofNat_two_eq_zero, adjusted]
  rfl

theorem checkSetOutput_eq (intervals : OutId → Table 6 Nat) (i : Byte) {bs : List Byte} (h : bs.length = 10) :
    checkSetOutput intervals (i :: bs) =
      match index? 4 i.toNat with
      | none => bad
      | some p =>
        match outputOf (intervals p) bs with
        | .error e => .error e
        | .ok (cfg, adjusted) => pass (p, cfg) adjusted := by
  have length : (i :: bs).length = 11 := by rw [List.length_cons, h]
  unfold checkSetOutput
  rw [if_neg (by omega)]
  rfl

/-- A SET_OUTPUT that names regional identity 0 asks a REGIONAL output for NETWORK, any other leaves the content. -/
theorem regionalCleared_eq (r1 r0 : Byte) : regionalCleared (BitVec.ofNat 16 (natOf [r1, r0])) = fun o =>
    if natOf [r1, r0] = 0 ∧ o.source = .regional then { o with requested := .network } else o := by
  funext o
  simp only [regionalCleared, ofNat_two_eq_zero]

theorem setOutput_eq (p : OutId) (s : State) (intervals : Table 6 Nat) (flags n1 n0 r1 r0 aN aR lead trail burst : Byte) :
    setOutput p (outputSettings intervals flags n1 n0 r1 r0 aN aR lead trail burst) s =
      { s with
        settings := { s.settings with
          outputs := s.settings.outputs.set p (outputSettings intervals flags n1 n0 r1 r0 aN aR lead trail burst) }
        content := { s.content with
          outs := s.content.outs.modify p fun o =>
            if natOf [r1, r0] = 0 ∧ o.source = .regional then { o with requested := .network } else o } } := by
  unfold setOutput
  rw [show (outputSettings intervals flags n1 n0 r1 r0 aN aR lead trail burst).regId = BitVec.ofNat 16 (natOf [r1, r0])
    from rfl, regionalCleared_eq]
  rfl

theorem checkSetOutput_passes (intervals : OutId → Table 6 Nat) {i n1 n0 : Byte} {p : OutId} (hi : i.toNat = p.val)
    (hn : natOf [n1, n0] ≠ 0) (flags r1 r0 aN aR lead trail burst : Byte) :
    checkSetOutput intervals [i, flags, n1, n0, r1, r0, aN, aR, lead, trail, burst] =
      .ok ((p, outputSettings (intervals p) flags n1 n0 r1 r0 aN aR lead trail burst),
        outputAdjusted aN aR lead trail burst) := by
  rw [checkSetOutput_eq _ i rfl, index?_of hi]
  simp only [outputOf_eq, if_neg hn]
  rfl

theorem checkSetOutput_bad (intervals : OutId → Table 6 Nat) {i n1 n0 : Byte} (h : 4 ≤ i.toNat ∨ natOf [n1, n0] = 0)
    (flags r1 r0 aN aR lead trail burst : Byte) :
    checkSetOutput intervals [i, flags, n1, n0, r1, r0, aN, aR, lead, trail, burst] = bad := by
  rw [checkSetOutput_eq _ i rfl]
  rcases h with above | zero
  · rw [index?_none above]
  · simp only [outputOf_eq, if_pos zero]
    cases index? 4 i.toNat <;> rfl

theorem exec_setOutput {s : State} {l : LinkId} {body : List Byte} {p : OutId} {x : OutSettings} {adj : Bool}
    (h : PartFrame s l .setOutput body)
    (hc : checkSetOutput (fun p => (s.outCfg p).intervals) (body.drop 5) = .ok ((p, x), adj)) :
    exec (.setOutput l) s = .next (setOutput p x (answered l .setOutput .ok adj [] s)) := by
  have act : setOutputAct (body.drop 5) (takeFrame l s) =
      { status := .ok, adjusted := adj, data := [], state := setOutput p x (takeFrame l s) } := checkedAct_ok hc
  rw [← answered_of_keeps]
  exact partRow_ok h act

theorem exec_setOutput_bad {s : State} {l : LinkId} {body : List Byte} (h : PartFrame s l .setOutput body)
    (hc : checkSetOutput (fun p => (s.outCfg p).intervals) (body.drop 5) = .error .badParam) :
    exec (.setOutput l) s = .next (refused l .setOutput .badParam s) := by
  have act : setOutputAct (body.drop 5) (takeFrame l s) = .refuse .badParam (takeFrame l s) := checkedAct_error hc
  exact partRow_refused h rfl act

/-- Settles O2: the owner's check leaves the settings of `outputSettings`, which the row writes. -/
theorem setOutputWritesTheFields : Obligations.SetOutputWritesTheFields := by
  intro s l body i flags n1 n0 r1 r0 aN aR lead trail burst h hb
  refine ⟨fun p hi hn => ?_, fun hi => ?_⟩
  · refine ⟨outputSettings (s.outCfg p).intervals flags n1 n0 r1 r0 aN aR lead trail burst, ?_, rfl, rfl, rfl, rfl, rfl,
      rfl, rfl, rfl, clamp_eq (by decide), rfl⟩
    have passes := checkSetOutput_passes (fun p => (s.outCfg p).intervals) hi hn flags r1 r0 aN aR lead trail burst
    rw [exec_setOutput h (by rw [hb]; exact passes), setOutput_eq]
    rfl
  · exact exec_setOutput_bad h (by rw [hb]; exact checkSetOutput_bad _ hi flags r1 r0 aN aR lead trail burst)

/-! ### SET_CUE -/

/-- The settings the 15 bytes of a SET_CUE leave a line. -/
def cueSettings (m : CueMode) (po : Polarity) (cl : ClaimClass) (d1 d0 prio group target h2 h1 h0 w2 w1 w0 : Byte) :
    CueSettings :=
  { mode := m, polarity := po, debounce := clamp 1 255 (natOf [d1, d0]), cls := cl, priority := min prio.toNat 7
    group := group, target := target.setWidth 4, holdLimit := min (natOf [h2, h1, h0]) 72000
    waitLimit := min (natOf [w2, w1, w0]) 72000 }

theorem checkSetCue_eq (i : Byte) {bs : List Byte} (h : bs.length = 14) :
    checkSetCue (i :: bs) =
      match index? 8 i.toNat with
      | none => bad
      | some c =>
        match cueOf bs with
        | .error e => .error e
        | .ok (cfg, adjusted) => pass (c, cfg) adjusted := by
  have length : (i :: bs).length = 15 := by rw [List.length_cons, h]
  unfold checkSetCue
  rw [if_neg (by omega)]
  rfl

theorem cueOf_eq (m : CueMode) (po : Polarity) (cl : ClaimClass) (d1 d0 prio group target h2 h1 h0 w2 w1 w0 : Byte) :
    cueOf [m.code, po.code, d1, d0, cl.code, prio, group, target, h2, h1, h0, w2, w1, w0] =
      pass (cueSettings m po cl d1 d0 prio group target h2 h1 h0 w2 w1 w0)
        (decide (natOf [d1, d0] = 0) || decide (255 < natOf [d1, d0]) || decide (7 < prio.toNat) ||
          decide (72000 < natOf [h2, h1, h0]) || decide (72000 < natOf [w2, w1, w0])) := by
  have adjusted : (clamp 1 255 (natOf [d1, d0]) != natOf [d1, d0]) =
      (decide (natOf [d1, d0] = 0) || decide (255 < natOf [d1, d0])) := by
    rw [clamp_ne]; simp only [Nat.lt_one_iff]
  unfold cueOf
  simp only [byteAt, List.getD_cons_zero, List.getD_cons_succ, cueModeOf_code, polarityOf_code, classOf_code, natAt,
    List.drop_succ_cons, List.drop_zero, List.take_succ_cons, List.take_zero, adjusted]
  rfl

theorem cueModeOf_none {b : Byte} (h : 2 < b.toNat) : cueModeOf b = none := by
  unfold cueModeOf
  rw [if_neg, if_neg, if_neg] <;> rintro rfl <;> exact absurd h (by decide)

theorem polarityOf_none {b : Byte} (h : 1 < b.toNat) : polarityOf b = none := by
  unfold polarityOf
  rw [if_neg, if_neg] <;> rintro rfl <;> exact absurd h (by decide)

theorem cueOf_bad {mode pol cls : Byte} {bs cs : List Byte}
    (h : 2 < mode.toNat ∨ 1 < pol.toNat ∨ cls.toNat = 0 ∨ 4 < cls.toNat) (hb : bs.length = 2) :
    cueOf (mode :: pol :: bs ++ cls :: cs) = bad := by
  obtain ⟨b1, b0, rfl⟩ := two_elements hb
  show (match cueModeOf mode, polarityOf pol, classOf cls with
    | some mode, some polarity, some cls => _
    | _, _, _ => bad) = _
  rcases h with h | h | h
  · rw [cueModeOf_none h]
  · rw [polarityOf_none h]
    cases cueModeOf mode <;> rfl
  · have none : classOf cls = none := classOf_none (by
      rcases h with h | h
      · exact .inl (BitVec.eq_of_toNat_eq (by simpa using h))
      · exact .inr h)
    rw [none]
    cases cueModeOf mode <;> cases polarityOf pol <;> rfl

/-- Settles O3: the owner's check leaves the settings of `cueSettings`, which the row writes. -/
theorem setCueWritesTheLine : Obligations.SetCueWritesTheLine := by
  intro s l body i mode pol d1 d0 cls prio group target h2 h1 h0 w2 w1 w0 h hb
  refine ⟨fun c m po cl hi hm hp hc => ?_, fun hi => ?_⟩
  · refine ⟨cueSettings m po cl d1 d0 prio group target h2 h1 h0 w2 w1 w0, ?_, rfl, rfl, clamp_eq (by decide), rfl, rfl,
      rfl, rfl, rfl, rfl⟩
    refine checkedRow_gives (setCue c (cueSettings m po cl d1 d0 prio group target h2 h1 h0 w2 w1 w0)) (fun _ _ => rfl) h
      (x := (c, _)) ?_ rfl
    subst hm hp hc
    rw [hb, checkSetCue_eq i rfl, index?_of hi, cueOf_eq]
    rfl
  · refine checkedRow_bad h ?_
    rw [hb, checkSetCue_eq i rfl]
    rcases hi with above | undefined
    · rw [index?_none above]; rfl
    · rw [show [mode, pol, d1, d0, cls, prio, group, target, h2, h1, h0, w2, w1, w0] =
        mode :: pol :: [d1, d0] ++ cls :: [prio, group, target, h2, h1, h0, w2, w1, w0] from rfl, cueOf_bad undefined rfl]
      cases index? 8 i.toNat <;> rfl

/-! ### SET_TIMING, SET_MONITOR, SET_EPOCH, SET_ALERT, CLEAR_FAULTS -/

theorem exec_setTiming {s : State} {l : LinkId} {body : List Byte} (m : TimingMode) (h : PartFrame s l .setTiming body)
    (hb : body.drop 5 = [m.code]) :
    exec (.setTiming l) s = .next (setTiming m (answered l .setTiming .ok false [] s)) := by
  refine checkedRow_gives (setTiming m) (fun u f => ?_) h (x := m) (by rw [hb]; cases m <;> rfl) rfl
  by_cases hm : u.settings.mode = m <;> simp [setTiming, hm]
  rfl

theorem setTiming_same {m : TimingMode} {s : State} (h : s.settings.mode = m) : setTiming m s = s := if_pos h

theorem setTiming_other {m : TimingMode} {s : State} (h : s.settings.mode ≠ m) :
    setTiming m s = (s.modTb Timebase.changeMode).modSettings fun g => { g with mode := m } := if_neg h

theorem exec_setMonitor {s : State} {l : LinkId} {body : List Byte} {sel : Byte} {m : Option OutId}
    (h : PartFrame s l .setMonitor body) (hb : body.drop 5 = [sel]) (hm : outOrNone sel = some m) :
    exec (.setMonitor l) s = .next (setMonitor m (answered l .setMonitor .ok false [] s)) := by
  refine checkedRow_gives (setMonitor m) (fun _ _ => rfl) h (x := m) ?_ rfl
  rw [hb]
  show (match outOrNone sel with
    | none => bad
    | some m => pass m false) = _
  rw [hm]
  rfl

theorem checkSetTiming_bad {v : Byte} (h : 1 < v.toNat) : checkSetTiming [v] = bad := by
  have undefined : timingModeOf v = none := by
    unfold timingModeOf
    rw [if_neg, if_neg] <;> rintro rfl <;> exact absurd h (by decide)
  show (match timingModeOf v with
    | none => bad
    | some m => pass m false) = _
  rw [undefined]

theorem checkSetMonitor_bad {sel : Byte} (h : 4 ≤ sel.toNat) (hf : sel ≠ 0xFF) : checkSetMonitor [sel] = bad := by
  show (match outOrNone sel with
    | none => bad
    | some m => pass m false) = _
  rw [outOrNone_none h hf]

theorem outOrNone_of {sel : Byte} {p : OutId} (h : sel.toNat = p.val) : outOrNone sel = some (some p) := by
  have e : sel = outOrNoneByte (some p) :=
    BitVec.eq_of_toNat_eq (by rw [h]; exact (toNat_ofNat_of_lt (by omega)).symm)
  rw [e, outOrNone_byte]

theorem checkSetEpoch_eq (v2 v1 v0 : Byte) : checkSetEpoch [v2, v1, v0] =
    if natOf [v2, v1, v0] % 1024 ≠ 0 then bad else pass (BitVec.ofNat 24 (natOf [v2, v1, v0])) false := rfl

theorem setAlertMask_eq (m : BitVec 5) (s : State) : s.setAlertMask m =
    { s with settings := { s.settings with alertMask := m }
             store := { s.store with alert := decide (s.store.faults &&& m ≠ 0) } } := by
  rw [← alertLevel_eq]; rfl

/-- With every flag cleared ALERT is not asserted, whatever the mask. -/
theorem clearFaultFlags_eq (s : State) : s.clearFaultFlags =
    { s with store := { s.store with faults := 0, alert := false } } := by
  have clear : alertLevel 0 s.settings.alertMask = false := by simp [alertLevel]
  rw [← clear]; rfl

/-- Settles O5: the five rows by their checks; a mode that differs goes through `changeMode`. -/
theorem timingMonitorEpochAndAlertAreSet : Obligations.TimingMonitorEpochAndAlertAreSet := by
  refine ⟨⟨fun s l body v h hb => ⟨fun m hv => ?_, fun hv => ?_⟩, fun s l body sel h hb => ⟨fun hs => ?_, fun p hs => ?_,
      fun hs => ?_⟩⟩, fun s l body v2 v1 v0 h hb => ⟨fun hv => ?_, fun hv => ?_⟩, fun s l body m h hb => ?_,
      fun s l body h hb => ?_⟩
  · subst hv
    refine ⟨_, exec_setTiming m h hb, ?_⟩
    by_cases hm : s.settings.mode = m
    · rw [setTiming_same (s := answered l .setTiming .ok false [] s) hm]
      exact ⟨by rw [← hm]; rfl, fun _ => rfl, fun other => absurd hm other⟩
    · rw [setTiming_other (s := answered l .setTiming .ok false [] s) hm]
      exact ⟨rfl, fun same => absurd same hm, fun _ => ⟨rfl, rfl, rfl, rfl, rfl, rfl, rfl, rfl, rfl, rfl, rfl⟩⟩
  · exact checkedRow_bad h (hb ▸ checkSetTiming_bad hv)
  · exact exec_setMonitor h hb (hs ▸ rfl)
  · exact exec_setMonitor h hb (outOrNone_of hs)
  · obtain ⟨above, named⟩ := hs
    exact checkedRow_bad h (hb ▸ checkSetMonitor_bad above named)
  · refine checkedRow_gives (armEpoch _) (fun _ _ => rfl) h (x := BitVec.ofNat 24 (natOf [v2, v1, v0])) ?_ rfl
    rw [hb, checkSetEpoch_eq, if_neg (Classical.not_not.2 hv)]
    rfl
  · exact checkedRow_bad h (by rw [hb, checkSetEpoch_eq, if_pos hv]; rfl)
  · exact (checkedRow_gives (State.setAlertMask (m.setWidth 5)) (fun _ _ => rfl) h (x := m.setWidth 5)
      (by rw [hb]; rfl) rfl).trans (congrArg Host.Outcome.next (setAlertMask_eq _ _))
  · exact (checkedRow_gives State.clearFaultFlags (fun _ _ => rfl) h (x := ()) (by rw [hb]; rfl) rfl).trans
      (congrArg Host.Outcome.next (clearFaultFlags_eq _))

end Sys2Proof.Machine

/-! PROOFS. The part commands of the store, of claims and of the queue (R95, R96, R138, R166 to R168). -/

namespace Sys2Proof.Machine

/-! ### STORE_SAVE -/

theorem isSaving_eq (s : State) : isSaving s = decide (s.store.saving ≠ none) := by
  unfold isSaving
  cases s.store.saving <;> rfl

theorem raiseFault_saveFailed (s : State) : State.raiseFault .saveFailed s =
    { s with store := { s.store with
        faults := s.store.faults ||| 8
        alert := decide ((s.store.faults ||| 8) &&& s.settings.alertMask ≠ 0) } } := by
  rw [← alertLevel_eq]; rfl

/-- A part command without parameters that answers BUSY while a save is under way. -/
theorem savingRow_busy {c : Cmd} {act : State → Answer} {after : List Byte → State → State} {l : LinkId} {s : State}
    {body : List Byte} (h : PartFrame s l c body) (hb : body.drop 5 = []) (saving : s.store.saving ≠ none) :
    partRow c (checkedAct checkNone fun _ s => if isSaving s then .refuse .busy s else act s) after l s =
      .next (refused l c .busy s) := by
  refine checkedRow_refused h rfl (x := ()) (adj := false) (by rw [hb]; rfl) ?_
  have busy : isSaving (takeFrame l s) = true := (isSaving_eq s).trans (decide_eq_true saving)
  rw [busy]
  rfl

/-- The same, with no save under way and an act that answers OK. -/
theorem savingRow_idle {c : Cmd} {act : State → Answer} {after : List Byte → State → State} {l : LinkId} {s t : State}
    {body data : List Byte} (h : PartFrame s l c body) (hb : body.drop 5 = []) (idle : s.store.saving = none)
    (ha : act (takeFrame l s) = .give data t) :
    partRow c (checkedAct checkNone fun _ s => if isSaving s then .refuse .busy s else act s) after l s =
      .next (after (body.drop 5) (t.modLink l (LinkState.placeReply (replyOf c .ok false data)))) := by
  refine checkedRow_ok h (x := ()) (adj := false) (by rw [hb]; rfl) ?_
  have notBusy : isSaving (takeFrame l s) = false := (isSaving_eq s).trans (decide_eq_false (Classical.not_not.2 idle))
  rw [notBusy]
  exact ha

/-- Settles O6: the row by `savingRow_busy` and `savingRow_idle`, the completion by its two cases. -/
theorem storeSaveTakesTheSnapshot : Obligations.StoreSaveTakesTheSnapshot := by
  refine ⟨fun s l body h hb => ⟨fun saving => savingRow_busy h hb saving, fun idle => ?_⟩, fun s image h => ?_⟩
  · have row : exec (.storeSave l) s = .next ((beginSave (takeFrame l s)).modLink l
        (LinkState.placeReply (replyOf .storeSave .ok false []))) := savingRow_idle h hb idle rfl
    have kept : (beginSave (takeFrame l s)).modLink l (LinkState.placeReply (replyOf .storeSave .ok false [])) =
        beginSave ((takeFrame l s).modLink l (LinkState.placeReply (replyOf .storeSave .ok false []))) := rfl
    rw [row, kept, answered_of_keeps]
    rfl
  · have row (verified : Bool) : exec (.storeSaveComplete verified) s = .next (
        if verified then { s with store := { s.store with image := image, saving := none } }
        else State.raiseFault .saveFailed { s with store := { s.store with saving := none } }) := by
      show execStoreSaveComplete verified s = _
      rw [execStoreSaveComplete, h]
    exact ⟨row true, (row false).trans (congrArg Host.Outcome.next (raiseFault_saveFailed _))⟩

/-! ### RELOAD -/

theorem replaceSettings_eq (l : LinkId) (g : Settings) (s : State) : replaceSettings l g s =
    { s with
      settings := g
      tb := if s.settings.mode = g.mode then s.tb
        else { s.tb with lock := .free, qual := 0, holdover := 0, markNext := none, judged := false, refWatch := .noEdge }
      cues := .tabulate fun c =>
        if (s.cueCfg c).mode = (g.cues.get c).mode ∧ (s.cueCfg c).polarity = (g.cues.get c).polarity then s.cue c
        else { s.cue c with active := false, debounce := 0, pending := false, capture := none, due := none }
      links := .tabulate fun k => (s.link k).reconfigure (l == k) (s.linkCfg k) (g.links.get k)
      store := { s.store with alert := decide (s.store.faults &&& g.alertMask ≠ 0) } } := by
  rw [← alertLevel_eq]; rfl

/-- Settles O8: BUSY by `savingRow_busy`; otherwise the reply, then `replaceSettings` where the image is valid. -/
theorem reloadReplacesTheSettings : Obligations.ReloadReplacesTheSettings := by
  intro s l body h hb
  have row (idle : s.store.saving = none) (data : List Byte)
      (ha : (match readImage s.store.image with
        | some _ => Answer.give [0] (takeFrame l s)
        | none => .give [1] (takeFrame l s)) = .give data (takeFrame l s)) :
      exec (.reload l) s = .next (reloadAfter l (body.drop 5) (answered l .reload .ok false data s)) := by
    rw [← answered_of_keeps]
    exact savingRow_idle (after := reloadAfter l) h hb idle ha
  refine ⟨fun saving => savingRow_busy h hb saving, fun idle invalid => ?_, fun g c idle valid => ?_⟩
  · rw [row idle [1] (by rw [invalid])]
    have image : readImage (answered l .reload .ok false [1] s).store.image = none := invalid
    simp only [reloadAfter, image]
  · rw [row idle [0] (by rw [valid])]
    have image : readImage (answered l .reload .ok false [0] s).store.image = some (g, c) := valid
    simp only [reloadAfter, image, replaceSettings_eq]
    rfl

/-! ### RESTART -/

theorem restartDue_iff (s : State) : restartDue s = true ↔
    (∃ l, (s.link l).restartAt ≠ none) ∧ (∀ l m, (s.link l).restartAt = some m → m = ⟨0, 0⟩) ∧ s.store.saving = none := by
  have pending : (s.links.items.any fun k => k.restartAt.isSome) = true ↔ ∃ l, (s.link l).restartAt ≠ none := by
    simp only [List.any_eq_true, Table.mem_items, Option.isSome_iff_ne_none]
    constructor
    · rintro ⟨_, ⟨l, rfl⟩, h⟩
      exact ⟨l, h⟩
    · rintro ⟨l, h⟩
      exact ⟨_, ⟨l, rfl⟩, h⟩
  have sent : (s.links.items.all fun k => k.restartAt.all fun m => m == ⟨0, 0⟩) = true ↔
      ∀ l m, (s.link l).restartAt = some m → m = ⟨0, 0⟩ := by
    simp only [List.all_eq_true, Table.mem_items, Option.all_eq_true, beq_iff_eq]
    constructor
    · intro h l m hm
      exact h _ ⟨l, rfl⟩ m hm
    · rintro h _ ⟨l, rfl⟩ m hm
      exact h l m hm
  simp only [restartDue, Bool.and_eq_true, pending, sent, isSaving_eq, and_assoc]
  simp

/-- Settles O9: BUSY by `savingRow_busy`; the begin by `restartDue_iff`. -/
theorem restartWaitsAndBegins : Obligations.RestartWaitsAndBegins := by
  refine ⟨fun s l body h hb => ⟨fun saving => savingRow_busy h hb saving, fun idle => ?_⟩, fun s => ⟨?_, fun h => ?_⟩⟩
  · have row : exec (.restart l) s = .next (restartAfter l (body.drop 5) ((takeFrame l s).modLink l
        (LinkState.placeReply (replyOf .restart .ok false [])))) :=
      savingRow_idle (after := restartAfter l) h hb idle rfl
    rw [row, answered_of_keeps]
    have place (m : Option Mark) : (m.map (·.ctrl)).getD 0 = (match m with
        | none => 0
        | some m => m.ctrl) := by cases m <;> rfl
    exact congrArg (fun f => Host.Outcome.next (State.modLink l f _)) (funext fun k => congrArg
      (fun n => { k with restartAt := some { reply := k.replyBytes, ctrl := n } }) (place k.restartAt))
  · intro pending sent idle
    have due := (restartDue_iff s).2 ⟨pending, sent, idle⟩
    show execRestartBegin s = execPinReset s
    rw [execRestartBegin, due]
    rfl
  · have notDue : restartDue s = false := by
      rw [Bool.eq_false_iff, ne_eq, restartDue_iff]
      rintro ⟨⟨l, some⟩, sent, idle⟩
      rcases h with h | ⟨k, m, hm, h⟩ | h
      · exact some (h l)
      · exact h (sent k m hm)
      · exact h idle
    show execRestartBegin s = _
    rw [execRestartBegin, notDue]
    rfl

/-! ### REVOKE, RELEASE, CANCEL_TIMED -/

theorem originOf_code (o : Origin) : originOf (originCode o) = some o := by
  cases o with
  | link l => revert l; decide
  | cue c => revert c; decide

theorem originOf_none {b : Byte} (h : 12 ≤ b.toNat) : originOf b = none := by
  unfold originOf
  rw [dif_neg (by omega), dif_neg (by omega)]

/-- What `find?` finds under a key has that key. -/
theorem claimHeld_key {s : State} {k : ClaimKey} {c : Claim} (h : claimHeld s k = some c) : c.key = k := by
  simpa using List.find?_some h

theorem claimHeld_none {s : State} {k : ClaimKey} (h : ∀ d, d ∈ s.claims.table → d.key ≠ k) : claimHeld s k = none := by
  rw [claimHeld, List.find?_eq_none]
  intro d hd
  simpa using h d hd

theorem endClaim_of_held {s : State} {k : ClaimKey} {c : Claim} (h : claimHeld s k = some c) (reason : EndReason)
    (count : Count) (u : State) : endClaim c reason count u =
      { u with claims := { u.claims with
          table := u.claims.table.filter fun d => d.key != k
          lastEnded := u.claims.lastEnded.set (originIndex k.origin)
            (some { number := k.number, cls := c.cls, reason := reason, count := count, onAir := c.holdUsed })
          counters := { u.claims.counters with ended := u.claims.counters.ended.modify reason.index satInc } } } := by
  rw [← claimHeld_key h]; rfl

theorem checkRevoke_passes (o : Origin) (n : Byte) : checkRevoke [originCode o, n] = .ok (⟨o, n⟩, false) := by
  show (match originOf (originCode o) with
    | none => bad
    | some o => pass _ false) = _
  rw [originOf_code]
  rfl

theorem checkRevoke_bad {o : Byte} (h : 12 ≤ o.toNat) (n : Byte) : checkRevoke [o, n] = bad := by
  show (match originOf o with
    | none => bad
    | some o => pass _ false) = _
  rw [originOf_none h]

/-- Settles O10: each owner by whether the key, or the tag, names something held. -/
theorem claimsAndEntriesAreWithdrawn : Obligations.ClaimsAndEntriesAreWithdrawn := by
  refine ⟨fun s l body o n h hb => ⟨fun origin c ho held => ?_, fun origin ho free => ?_, fun ho => ?_⟩,
    fun s l body m n h ht hb => ⟨fun c held => ?_, fun free => ?_⟩,
    fun s l body tag h hb => ⟨fun n hn pos => ?_, fun none => ?_⟩⟩
  · subst ho
    have act : applyRevoke ⟨origin, n⟩ (takeFrame l s) = .done (endClaim c .revoked s.tb.count (takeFrame l s)) := by
      have held : claimHeld (takeFrame l s) ⟨origin, n⟩ = some c := held
      simp only [applyRevoke, held]
      rfl
    have held : claimHeld s ⟨origin, n⟩ = some c := held
    have row : exec (.revoke l) s = .next (endClaim c .revoked s.tb.count (answered l .revoke .ok false [] s)) :=
      checkedRow_gives (endClaim c .revoked s.tb.count) (fun _ _ => rfl) h (by rw [hb]; exact checkRevoke_passes _ _) act
    rw [row, endClaim_of_held held]
    rfl
  · subst ho
    refine checkedRow_refused h rfl (by rw [hb]; exact checkRevoke_passes _ _) ?_
    have free : claimHeld (takeFrame l s) ⟨origin, n⟩ = none := claimHeld_none free
    simp only [applyRevoke, free]
  · exact checkedRow_bad h (by rw [hb]; exact checkRevoke_bad ho n)
  · have held : claimHeld s ⟨.link l, n⟩ = some c := held
    have act : applyCmd (.release n) m l s.tb.count (reached l body s) =
        .give [] (endClaim c .released s.tb.count (reached l body s)) := by
      have held : claimHeld (reached l body s) ⟨.link l, n⟩ = some c := held
      simp only [applyCmd, applyRelease, held]
      rfl
    have row : exec (.release l) s = .next (endClaim c .released s.tb.count (routed l .release body .ok false [] s)) :=
      routedRow_acts (endClaim c .released s.tb.count) (fun _ _ => rfl) h ht (by rw [hb]; rfl) act
    rw [row, endClaim_of_held held]
    rfl
  · refine routedRow_denied h rfl ht (x := .release n) (adj := false) (by rw [hb]; rfl) ?_
    have free : claimHeld (reached l body s) ⟨.link l, n⟩ = none := claimHeld_none free
    simp only [applyCmd, applyRelease, free]
  · refine checkedRow_gives (fun u => (u.setEntries (u.queue.entries.filter fun e => !cancels l tag e)).modQueueCounters
      fun k => { k with cancelled := satAdd k.cancelled n }) (fun _ _ => rfl) h (x := tag) (by rw [hb]; rfl) ?_
    have count : ((takeFrame l s).queue.entries.filter (cancels l tag)).length = n := hn
    simp only [applyCancelTimed, count]
    rw [if_neg (by omega)]
  · refine checkedRow_refused h rfl (x := tag) (adj := false) (by rw [hb]; rfl) ?_
    have empty : (takeFrame l s).queue.entries.filter (cancels l tag) = [] := by
      rw [List.filter_eq_nil_iff]
      intro e he
      have := none e he
      simpa [cancels] using this
    simp only [applyCancelTimed, empty]
    rfl

end Sys2Proof.Machine

/-! PROOFS. What new settings do to a link (R143, R144, R149, R164). -/

namespace Sys2Proof.Machine

namespace LinkState

/-! ### HOLD and GO bytes still to be sent -/

/-- The choice of the next byte leaves as many HOLD and GO bytes to be sent. -/
theorem nextByte_ctrlLeft (k : LinkState) : k.nextByte.ctrlLeft = k.ctrlLeft := by
  unfold nextByte
  split
  · rfl
  next ht =>
    split
    · rfl
    · split
      next c cs hc => simp [ctrlLeft, ht, hc]
      · repeat' split
        all_goals simp [ctrlLeft, ht]

theorem sendCtrl_ctrlLeft (b : Byte) (k : LinkState) : (k.sendCtrl b).ctrlLeft = k.ctrlLeft + 1 := by
  rw [sendCtrl, nextByte_ctrlLeft]
  simp only [ctrlLeft, List.length_append, List.length_cons, List.length_nil]
  omega

theorem sendCtrl_eq (b : Byte) (k : LinkState) :
    k.sendCtrl b = { k with tx := (k.sendCtrl b).tx, ctrl := (k.sendCtrl b).ctrl } :=
  nextByte_eq { k with ctrl := k.ctrl ++ [b] }

/-! ### The three parts of a change -/

theorem changeRate_eq (old new : LinkSettings) (k : LinkState) : changeRate old new k =
    { k with rateChanges := if old.rate = new.rate then k.rateChanges
             else k.rateChanges ++ [{ after := { reply := k.replyBytes, ctrl := k.ctrlLeft }, rate := new.rate }] } := by
  unfold changeRate
  split <;> rfl

variable {old new : LinkSettings} {k : LinkState}

theorem changeLevels_off (h : k.on = false) : changeLevels old new k = k := by
  simp [changeLevels, h]

/-- The levels differ, as the change of levels tests it. -/
theorem changeLevels_differ (on : k.on = true) (h : old.pause ≠ new.pause ∨ old.resume ≠ new.resume) :
    changeLevels old new k = goCheck new (holdCheck new k) := by
  have differ : (old.pause != new.pause || old.resume != new.resume) = true := by simpa using h
  rw [changeLevels, on, differ]
  rfl

theorem changeLevels_hold (on : k.on = true) (h : old.pause ≠ new.pause ∨ old.resume ≠ new.resume)
    (range : new.resume < new.pause) (none : k.holdOut = false) (full : new.pause ≤ k.occupancy) :
    changeLevels old new k = sendCtrl holdByte { k with holdOut := true } := by
  have occupancy : (sendCtrl holdByte { k with holdOut := true }).occupancy = k.occupancy := by
    rw [sendCtrl_eq]; rfl
  have above : ¬ k.occupancy ≤ new.resume := by omega
  rw [changeLevels_differ on h, holdCheck, none, decide_eq_true full, goCheck, Bool.not_false, Bool.true_and, if_pos rfl,
    occupancy, decide_eq_false above, Bool.and_false]
  rfl

theorem changeLevels_go (on : k.on = true) (h : old.pause ≠ new.pause ∨ old.resume ≠ new.resume)
    (hold : k.holdOut = true) (low : k.occupancy ≤ new.resume) :
    changeLevels old new k = sendCtrl goByte { k with holdOut := false } := by
  have held : holdCheck new k = k := by simp [holdCheck, hold]
  rw [changeLevels_differ on h, held, goCheck, hold, decide_eq_true low]
  rfl

theorem changeLevels_same (h : (old.pause = new.pause ∧ old.resume = new.resume) ∨
    (k.holdOut = false ∧ k.occupancy < new.pause) ∨ (k.holdOut = true ∧ new.resume < k.occupancy)) :
    changeLevels old new k = k := by
  rcases h with ⟨pause, resume⟩ | ⟨hold, low⟩ | ⟨hold, above⟩
  · simp [changeLevels, pause, resume]
  · have held : holdCheck new k = k := by simp [holdCheck, hold, Nat.not_le.2 low]
    simp [changeLevels, held, goCheck, hold]
  · have held : holdCheck new k = k := by simp [holdCheck, hold]
    simp [changeLevels, held, goCheck, Nat.not_le.2 above]

/-- A change of levels changes the HOLD outstanding and the bytes to be sent alone. -/
theorem changeLevels_eq (old new : LinkSettings) (k : LinkState) : changeLevels old new k =
    { k with holdOut := (changeLevels old new k).holdOut, tx := (changeLevels old new k).tx
             ctrl := (changeLevels old new k).ctrl } := by
  have send (b : Byte) (k : LinkState) (x : Bool) : sendCtrl b { k with holdOut := x } =
      { k with holdOut := (sendCtrl b { k with holdOut := x }).holdOut, tx := (sendCtrl b { k with holdOut := x }).tx
               ctrl := (sendCtrl b { k with holdOut := x }).ctrl } := by
    rw [sendCtrl_eq]
  have hold : holdCheck new k = { k with holdOut := (holdCheck new k).holdOut, tx := (holdCheck new k).tx
                                         ctrl := (holdCheck new k).ctrl } := by
    unfold holdCheck
    split
    · exact send _ _ _
    · rfl
  unfold changeLevels
  split
  · unfold goCheck
    split
    · rw [hold]
      exact send goByte _ false
    · exact hold
  · rfl

/-- A link that is on, through a change of its enable that leaves it on. -/
theorem changeEnable_stays (carrying : Bool) (on : k.on = true)
    (h : new.enable = true ∨ old.enable = false ∨ carrying = true) :
    ∃ tx ctrl, changeEnable carrying old new k =
        { k with tx := tx, ctrl := ctrl
                 disableAt := if new.enable then none
                   else if old.enable then some { reply := k.replyBytes, ctrl := 0 } else k.disableAt } ∧
      (changeEnable carrying old new k).ctrlLeft = k.ctrlLeft ∧
      (k.tx ≠ none → (changeEnable carrying old new k).tx = k.tx ∧ (changeEnable carrying old new k).ctrl = k.ctrl) := by
  cases new_on : new.enable with
  | true =>
    have e : changeEnable carrying old new k = nextByte { k with disableAt := none } := by
      simp [changeEnable, new_on, on]
    refine ⟨_, _, e.trans (nextByte_eq _), by rw [e, nextByte_ctrlLeft]; rfl, fun busy => ?_⟩
    rw [e, nextByte_busy (k := { k with disableAt := none }) busy]
    exact ⟨rfl, rfl⟩
  | false =>
    cases old_on : old.enable with
    | true =>
      have carries : carrying = true := by simpa [new_on, old_on] using h
      have e : changeEnable carrying old new k =
          { k with disableAt := some { reply := k.replyBytes, ctrl := 0 } } := by
        simp [changeEnable, new_on, old_on, carries]
      exact ⟨k.tx, k.ctrl, e, by rw [e]; rfl, fun _ => by rw [e]; exact ⟨rfl, rfl⟩⟩
    | false =>
      have e : changeEnable carrying old new k = k := by simp [changeEnable, new_on, old_on]
      exact ⟨k.tx, k.ctrl, e, by rw [e], fun _ => by rw [e]; exact ⟨rfl, rfl⟩⟩

/-- A link switched on, through a change of levels that finds its buffer empty. -/
theorem reconfigure_on (carrying : Bool) {rates : List RateChange} (off : k.on = false) (on : new.enable = true)
    (pause : 0 < new.pause) :
    changeLevels old new (changeEnable carrying old new { k with rateChanges := rates }) =
      turnOn { k with rateChanges := rates } := by
  have e : changeEnable carrying old new { k with rateChanges := rates } = turnOn { k with rateChanges := rates } := by
    simp [changeEnable, off, on]
  have hold : (turnOn { k with rateChanges := rates }).holdOut = false := by rw [turnOn, sendCtrl_eq]
  have empty : (turnOn { k with rateChanges := rates }).occupancy = 0 := by rw [turnOn, sendCtrl_eq]; rfl
  rw [e]
  exact changeLevels_same (.inr (.inl ⟨hold, by rw [empty]; exact pause⟩))

theorem turnOn_eq (k : LinkState) : k.turnOn =
    { k with on := true, recv := .hunt, escape := false, stored := [], waiting := [], holdOut := false
             tx := k.turnOn.tx, ctrl := k.turnOn.ctrl } := sendCtrl_eq goByte _

theorem turnOn_sends (k : LinkState) : k.Sends k.turnOn [0xC1] :=
  sendCtrl_sends goByte { k.clearFrame with on := true, waiting := [], holdOut := false }

/-- A HOLD or GO of changed levels, sent by a link with a byte on the line, waits behind those due before. -/
theorem sendCtrl_waits (b : Byte) (busy : k.tx ≠ none) : (sendCtrl b k).ctrl = k.ctrl ++ [b] :=
  ((sendCtrl_sends b k).1 (.inl busy)).2

/-- The places, once the rate of `k` is to change, are those of `k`. -/
theorem reconfigure_eq (carrying : Bool) (old new : LinkSettings) (k : LinkState) {rates : List RateChange}
    (h : rates = (if old.rate = new.rate then k.rateChanges
      else k.rateChanges ++ [{ after := { reply := k.replyBytes, ctrl := k.ctrlLeft }, rate := new.rate }])) :
    reconfigure carrying old new k =
      changeLevels old new (changeEnable carrying old new { k with rateChanges := rates }) := by
  rw [h, ← changeRate_eq]
  rfl

end LinkState

/-! ### SET_LINK -/

theorem lineRateOf_none {b : Byte} (h : 4 < b.toNat) : lineRateOf b = none := by
  unfold lineRateOf
  rw [if_neg, if_neg, if_neg, if_neg, if_neg] <;> rintro rfl <;> exact absurd h (by decide)

theorem checkSetLink_eq (i : Byte) {bs : List Byte} (h : bs.length = 9) : checkSetLink (i :: bs) =
    match index? 4 i.toNat with
    | none => bad
    | some l =>
      match linkOf bs with
      | .error e => .error e
      | .ok (cfg, adjusted) => pass (l, cfg) adjusted := by
  have length : (i :: bs).length = 10 := by rw [List.length_cons, h]
  unfold checkSetLink
  rw [if_neg (by omega)]
  rfl

/-- Some number of a SET_LINK lies outside its range, where the pause level becomes `pause`. -/
def linkAdjusted (pause : Nat) (p1 p0 r1 r0 t1 t0 : Byte) : Bool :=
  decide (natOf [p1, p0] < 64) || decide (1008 < natOf [p1, p0]) || decide (pause ≤ natOf [r1, r0]) ||
    decide (natOf [t1, t0] = 0) || decide (255 < natOf [t1, t0])

theorem linkOf_passes {enable perms p1 p0 r1 r0 t1 t0 : Byte} {rt : LineRate} {cfg : LinkSettings}
    (he : cfg.enable = (enable != 0)) (hr : cfg.rate = rt) (hp : cfg.perms = perms.setWidth 5)
    (pause : cfg.pause = max 64 (min (natOf [p1, p0]) 1008)) (resume : cfg.resume = min (natOf [r1, r0]) (cfg.pause - 1))
    (interval : cfg.interval = max 1 (min (natOf [t1, t0]) 255)) :
    linkOf [enable, rt.code, perms, p1, p0, r1, r0, t1, t0] =
      .ok (cfg, linkAdjusted cfg.pause p1 p0 r1 r0 t1 t0) := by
  have e : cfg = { enable := enable != 0, rate := rt, perms := perms.setWidth 5, pause := clamp 64 1008 (natOf [p1, p0])
                   resume := min (natOf [r1, r0]) (clamp 64 1008 (natOf [p1, p0]) - 1)
                   interval := clamp 1 255 (natOf [t1, t0]) } := by
    obtain ⟨a, b, c, d, e, f⟩ := cfg
    simp only at he hr hp pause resume interval
    subst he hr hp pause resume interval
    simp only [clamp_eq (show 64 ≤ 1008 by decide), clamp_eq (show 1 ≤ 255 by decide)]
  have adjusted : linkAdjusted (clamp 64 1008 (natOf [p1, p0])) p1 p0 r1 r0 t1 t0 =
      (clamp 64 1008 (natOf [p1, p0]) != natOf [p1, p0] || decide (clamp 64 1008 (natOf [p1, p0]) ≤ natOf [r1, r0]) ||
        clamp 1 255 (natOf [t1, t0]) != natOf [t1, t0]) := by
    simp only [clamp_ne, linkAdjusted, Nat.lt_one_iff, Bool.or_assoc]
  rw [e, adjusted]
  show (match lineRateOf rt.code with
    | none => bad
    | some rate => _) = _
  rw [lineRateOf_code]
  rfl

theorem linkOf_bad {enable rate : Byte} (bs : List Byte) (h : 4 < rate.toNat) : linkOf (enable :: rate :: bs) = bad := by
  show (match lineRateOf rate with
    | none => bad
    | some rate => _) = _
  rw [lineRateOf_none h]

theorem exec_setLink {s : State} {l k : LinkId} {body : List Byte} {cfg : LinkSettings} {adj : Bool}
    (h : PartFrame s l .setLink body) (hc : checkSetLink (body.drop 5) = .ok ((k, cfg), adj)) :
    exec (.setLink l) s = .next (setLink l k cfg (answered l .setLink .ok adj [] s)) := by
  have row : exec (.setLink l) s = .next (setLinkAfter l (body.drop 5) ((takeFrame l s).modLink l
      (LinkState.placeReply (replyOf .setLink .ok adj [])))) :=
    checkedRow_ok (act := fun _ s => .done s) (after := setLinkAfter l) h hc rfl
  rw [row, answered_of_keeps, setLinkAfter, hc]

open LinkState in
/-- Settles O4: the row by its check; the working state by whether the link is switched off, stays off, is switched on,
or stays on. -/
theorem setLinkWritesTheLink : Obligations.SetLinkWritesTheLink := by
  refine ⟨fun s l body i enable rate perms p1 p0 r1 r0 t1 t0 h hb => ⟨?_, fun hi => ?_⟩, ?_⟩
  · intro k rt cfg hi hrt he hr hp pause resume interval
    subst hrt
    have passes : checkSetLink (body.drop 5) = .ok ((k, cfg), linkAdjusted cfg.pause p1 p0 r1 r0 t1 t0) := by
      rw [hb, checkSetLink_eq i rfl, index?_of hi]
      simp only [linkOf_passes he hr hp pause resume interval]
      rfl
    rw [exec_setLink h passes]
    rfl
  · refine checkedRow_bad (act := fun _ s => .done s) (after := setLinkAfter l) h ?_
    rw [hb, checkSetLink_eq i rfl]
    rcases hi with above | undefined
    · rw [index?_none above]; rfl
    · rw [linkOf_bad _ undefined]
      cases index? 4 i.toNat <;> rfl
  · intro carrying old new k t rates ht pause range hr
    rw [reconfigure_eq carrying old new k hr] at ht
    subst ht
    refine ⟨fun was now carries => ?_, fun off now was => ?_, fun off on => ?_, fun on stays => ?_⟩
    · have e : changeEnable carrying old new { k with rateChanges := rates } = turnOff { k with rateChanges := rates } := by
        simp [changeEnable, was, now, carries]
      rw [e, changeLevels_off (turnOff_turnedOff _).off]
      exact turnOff_turnedOff _
    · have e : changeEnable carrying old new { k with rateChanges := rates } = { k with rateChanges := rates } := by
        simp [changeEnable, was, now]
      rw [e]
      exact changeLevels_off off
    · rw [reconfigure_on carrying off on pause]
      obtain ⟨busy, idle⟩ := turnOn_sends { k with rateChanges := rates }
      have left : (turnOn { k with rateChanges := rates }).ctrlLeft = k.ctrlLeft + 1 := sendCtrl_ctrlLeft _ _
      have e := turnOn_eq { k with rateChanges := rates }
      refine ⟨by rw [e], by rw [e], by rw [e], by rw [e], by rw [e], by rw [e], by rw [e], by rw [e], by rw [e],
        by rw [e], by rw [e], by rw [e], by rw [e], by rw [e], left, fun ht => busy (.inl ht), fun ht hc hd hr => ?_⟩
      have notHeld : ¬ (k.disableAt = some ⟨0, 0⟩ ∨ ∃ (rc : RateChange) (rest : List RateChange),
          rates = rc :: rest ∧ rc.after = ⟨0, 0⟩) := by simp [hd, hr]
      exact idle ht hc notHeld
    · obtain ⟨tx, ctrl, e, left, quiet⟩ := changeEnable_stays (old := old) (new := new)
        (k := { k with rateChanges := rates }) carrying on stays
      generalize changeEnable carrying old new { k with rateChanges := rates } = q at e left quiet ⊢
      have kept := changeLevels_eq old new q
      have q_on : q.on = true := by rw [e]; exact on
      have q_hold : q.holdOut = k.holdOut := by rw [e]
      have q_full : q.occupancy = k.occupancy := by rw [e]; rfl
      refine ⟨by rw [kept]; exact q_on, by rw [kept, e], by rw [kept, e], by rw [kept, e], by rw [kept, e],
        by rw [kept, e], by rw [kept, e], by rw [kept, e], by rw [kept, e], by rw [kept, e], by rw [kept, e],
        by rw [kept, e], by rw [kept, e]; rfl, fun none differ full => ?_, fun hold differ low => ?_, fun same => ?_⟩
      · rw [changeLevels_hold q_on differ range (q_hold.trans none) (by omega)]
        refine ⟨by rw [sendCtrl_eq], (sendCtrl_ctrlLeft ..).trans (congrArg (· + 1) left), fun busy => ?_⟩
        obtain ⟨tx, ctrl⟩ := quiet busy
        rw [sendCtrl_waits holdByte (k := { q with holdOut := true }) (by rw [tx]; exact busy)]
        exact congrArg (· ++ [0xC3]) ctrl
      · rw [changeLevels_go q_on differ (q_hold.trans hold) (by omega)]
        refine ⟨by rw [sendCtrl_eq], (sendCtrl_ctrlLeft ..).trans (congrArg (· + 1) left), fun busy => ?_⟩
        obtain ⟨tx, ctrl⟩ := quiet busy
        rw [sendCtrl_waits goByte (k := { q with holdOut := false }) (by rw [tx]; exact busy)]
        exact congrArg (· ++ [0xC1]) ctrl
      · rw [changeLevels_same (by rw [q_hold, q_full]; exact same)]
        exact ⟨q_hold, left, quiet⟩

end Sys2Proof.Machine

/-! SUPPORT. Each field of the store image through its bytes and back (R178). -/

namespace Sys2Proof.Machine

/-! ### Slices -/

theorem slice_append_left {as bs : List Byte} {i k : Nat} (h : i + k ≤ as.length) :
    slice (as ++ bs) i k = slice as i k := by
  unfold slice
  rw [List.drop_append_of_le_length (by omega), List.take_append_of_le_length (by rw [List.length_drop]; omega)]

theorem slice_append_right (as bs : List Byte) (i k : Nat) : slice (as ++ bs) (as.length + i) k = slice bs i k := by
  unfold slice
  rw [← List.drop_drop, List.drop_left]

/-- The bytes within item `i` of a run that gives `w` bytes to each item. -/
theorem slice_flatMap {α : Type} {f : α → List Byte} {w : Nat} (hf : ∀ a, (f a).length = w) {as : List α} {i : Nat}
    {a : α} (ha : as[i]? = some a) {j k : Nat} (h : j + k ≤ w) :
    slice (as.flatMap f) (w * i + j) k = slice (f a) j k := by
  induction as generalizing i with
  | nil => cases ha
  | cons x xs ih =>
    rw [List.flatMap_cons]
    cases i with
    | zero =>
      cases ha
      rw [Nat.mul_zero, Nat.zero_add, slice_append_left (by rw [hf]; exact h)]
    | succ i =>
      have place : w * (i + 1) + j = (f x).length + (w * i + j) := by rw [hf, Nat.mul_succ]; omega
      rw [place, slice_append_right]
      exact ih ha

theorem slice_all {bs : List Byte} {k : Nat} (h : bs.length = k) : slice bs 0 k = bs :=
  List.take_of_length_le (Nat.le_of_eq h)

theorem Table.items_getElem? {n : Nat} {α : Type} (t : Table n α) (i : Fin n) : t.items[i.val]? = some (t.get i) :=
  List.getElem?_eq_getElem _

/-- Item `i` of a table that stands in a body after `start` bytes. -/
theorem slice_table {n w start : Nat} {α : Type} {f : α → List Byte} (hf : ∀ a, (f a).length = w) {t : Table n α}
    {body before after : List Byte} (h : body = before ++ (tableBytes f t ++ after)) (hs : before.length = start)
    (i : Fin n) : slice body (start + w * i.val) w = f (t.get i) := by
  have room : w * i.val + w ≤ (tableBytes f t).length := by
    rw [tableBytes_length hf, ← Nat.mul_succ]
    exact Nat.mul_le_mul_left _ i.isLt
  have item := slice_flatMap hf (Table.items_getElem? t i) (j := 0) (k := w) (by omega)
  rw [h, ← hs, slice_append_right, slice_append_left room]
  exact item.trans (slice_all (hf _))

/-! ### Tables and checks -/

theorem collect_of {n : Nat} {α : Type} {d : α} {f : Fin n → Option α} {t : Table n α}
    (h : ∀ i, f i = some (t.get i)) : collect d f = some t := by
  have all : ((Table.tabulate f).items.all Option.isSome) = true := by
    rw [List.all_eq_true]
    intro x hx
    obtain ⟨i, rfl⟩ := Table.mem_items.1 hx
    rw [Table.get_tabulate, h]
    rfl
  have items : (Table.tabulate f).map (fun x => x.getD d) = t := by
    apply Table.eq_of_get
    intro i
    rw [Table.get_map, Table.get_tabulate, h]
    rfl
  rw [collect, all, if_pos rfl, items]

theorem exact_pass {α : Type} (x : α) : exact (.ok (x, false)) = some x := rfl

theorem flagOf_boolByte (b : Bool) : flagOf (boolByte b) = some b := by cases b <;> rfl

theorem boolByte_ne_zero (b : Bool) : (boolByte b != 0) = b := by cases b <;> rfl

theorem only_maskByte (m : Mask) : only 4 (maskByte m) = true := by revert m; decide

theorem only_five (m : BitVec 5) : only 5 (m.setWidth 8) = true ∧ (m.setWidth 8 : Byte).setWidth 5 = m := by
  revert m; decide

/-- A word through its two bytes. -/
theorem word_bytes (a : Word) : BitVec.ofNat 16 (natOf (bytesOf 2 a.toNat)) = a := by
  rw [natOf_bytesOf_of_lt a.isLt, BitVec.ofNat_toNat, BitVec.setWidth_eq]

/-! ### Settings -/

theorem readSite_bytes (x : SiteSlot) : readSite (siteBytes x) = some x := by
  show (flagOf (boolByte x.enable)).map (fun e =>
    ({ address := BitVec.ofNat 16 (natOf (bytesOf 2 x.address.toNat)), enable := e } : SiteSlot)) = some x
  rw [flagOf_boolByte, word_bytes]
  rfl

theorem readGroupSet_bytes (g : BitVec 256) : readGroupSet (groupSetBytes g) = g := by
  rw [readGroupSet, groupSetBytes, List.reverse_reverse, natOf_bytesOf_of_lt g.isLt, BitVec.ofNat_toNat,
    BitVec.setWidth_eq]

/-- The flags byte of a term. -/
def termFlags (enable address group disjunct : Bool) : Byte :=
  boolByte enable <<< 7 ||| boolByte address <<< 6 ||| boolByte group <<< 5 ||| boolByte disjunct <<< 4

theorem termFlags_bits (a b c d : Bool) : (termFlags a b c d).getLsbD 7 = a ∧ (termFlags a b c d).getLsbD 6 = b ∧
    (termFlags a b c d).getLsbD 5 = c ∧ (termFlags a b c d).getLsbD 4 = d ∧ termFlagsOk (termFlags a b c d) = true := by
  revert a b c d; decide

theorem termOf_bytes (t : RouteTerm) : termOf (termBytes t) = some t := by
  obtain ⟨enable, address, group, disjunct, _⟩ :=
    termFlags_bits t.enable t.addressTest.isSome t.groupTest.isSome (t.combiner == .or)
  refine termOf_eq_some (flags := termFlags t.enable t.addressTest.isSome t.groupTest.isSome (t.combiner == .or))
    enable.symm ?_ (fun h => ?_) (fun h => ?_) (fun h => ?_) (fun h => ?_)
  · rw [disjunct]
    cases t.combiner <;> rfl
  · rw [address] at h
    exact Option.isSome_eq_false_iff.1 h |> Option.isNone_iff_eq_none.1
  · rw [address] at h
    obtain ⟨i, e⟩ := Option.isSome_iff_exists.1 h
    exact ⟨i, e, by rw [e]; exact (toNat_ofNat_of_lt (by omega)).symm⟩
  · rw [group] at h
    exact Option.isSome_eq_false_iff.1 h |> Option.isNone_iff_eq_none.1
  · rw [group] at h
    obtain ⟨i, e⟩ := Option.isSome_iff_exists.1 h
    exact ⟨i, e, by rw [e]; exact (toNat_ofNat_of_lt (by omega)).symm⟩

theorem termBytes_flagsOk (t : RouteTerm) : termFlagsOk (byteAt (termBytes t) 0) = true := by
  obtain ⟨_, _, _, _, ok⟩ := termFlags_bits t.enable t.addressTest.isSome t.groupTest.isSome (t.combiner == .or)
  exact ok

theorem readRoute_bytes (e : RouteEntry) : readRoute (routeBytes e) = some e := by
  obtain ⟨enable, dest, ⟨terms, size⟩⟩ := e
  obtain ⟨t0, t1, t2, t3, rfl⟩ : ∃ a b c d, terms = [a, b, c, d] := by
    match terms, size with
    | [a, b, c, d], _ => exact ⟨a, b, c, d, rfl⟩
  have bytes : routeBytes { enable := enable, dest := dest, terms := ⟨[t0, t1, t2, t3], size⟩ } =
      boolByte enable :: maskByte dest :: (termBytes t0 ++ termBytes t1 ++ termBytes t2 ++ termBytes t3) := by
    simp [routeBytes, tableBytes]
  have route : routeOf (boolByte enable :: maskByte dest :: (termBytes t0 ++ termBytes t1 ++ termBytes t2 ++
      termBytes t3)) = pass { enable := boolByte enable != 0, dest := maskOf (maskByte dest)
                              terms := ⟨[t0, t1, t2, t3], size⟩ } false := by
    show (match termOf (termBytes t0), termOf (termBytes t1), termOf (termBytes t2), termOf (termBytes t3) with
      | some t0, some t1, some t2, some t3 => _
      | _, _, _, _ => _) = _
    simp only [termOf_bytes]
    rfl
  have flagsOk : ([2, 5, 8, 11].all fun i => termFlagsOk (byteAt (boolByte enable :: maskByte dest ::
      (termBytes t0 ++ termBytes t1 ++ termBytes t2 ++ termBytes t3)) i)) = true := by
    show (termFlagsOk (byteAt (termBytes t0) 0) && (termFlagsOk (byteAt (termBytes t1) 0) &&
      (termFlagsOk (byteAt (termBytes t2) 0) && (termFlagsOk (byteAt (termBytes t3) 0) && true)))) = true
    simp only [termBytes_flagsOk, Bool.and_self]
  have flag : flagOf (byteAt (boolByte enable :: maskByte dest :: (termBytes t0 ++ termBytes t1 ++ termBytes t2 ++
      termBytes t3)) 0) = some enable := flagOf_boolByte enable
  have mask : only 4 (byteAt (boolByte enable :: maskByte dest :: (termBytes t0 ++ termBytes t1 ++ termBytes t2 ++
      termBytes t3)) 1) = true := only_maskByte dest
  rw [bytes, readRoute, flagsOk, flag, mask, route, boolByte_ne_zero, maskOf_maskByte]
  rfl

theorem natOf_two_bytes {v : Nat} (h : v < 65536) : natOf (bytesOf 2 v) = v := natOf_bytesOf_of_lt h

theorem natOf_three_bytes {v : Nat} (h : v < 16777216) : natOf (bytesOf 3 v) = v := natOf_bytesOf_of_lt h

theorem outputFlags_bits (a b : Bool) : (boolByte a ||| boolByte b <<< 1).getLsbD 0 = a ∧
    (boolByte a ||| boolByte b <<< 1).getLsbD 1 = b ∧ only 2 (boolByte a ||| boolByte b <<< 1) = true := by
  revert a b; decide

/-- The ten bytes of an output's settings before the intervals. -/
def outputHead (o : OutSettings) : List Byte :=
  [boolByte o.enable ||| boolByte o.tc <<< 1] ++ bytesOf 2 o.netId.toNat ++ bytesOf 2 o.regId.toNat ++
    [BitVec.ofNat 8 o.accNet.val, BitVec.ofNat 8 o.accReg.val, BitVec.ofNat 8 o.lead, BitVec.ofNat 8 o.trail,
      BitVec.ofNat 8 o.burst]

theorem outputOf_head {o : OutSettings} (h : o.inRange) : outputOf o.intervals (outputHead o) = .ok (o, false) := by
  obtain ⟨netId, lead, trail, burst1, burst8, _⟩ := h
  obtain ⟨enable, tc, _⟩ := outputFlags_bits o.enable o.tc
  have word (a : Word) : natOf [BitVec.ofNat 8 (a.toNat / 256 ^ 1), BitVec.ofNat 8 (a.toNat / 256 ^ 0)] = a.toNat :=
    natOf_two_bytes a.isLt
  have nonzero : o.netId.toNat ≠ 0 := fun e => netId (BitVec.eq_of_toNat_eq e)
  have index (i : SetId) : (BitVec.ofNat 8 i.val).toNat = i.val := toNat_ofNat_of_lt (by omega)
  have index7 (i : SetId) : index7 i.val = i := Fin.ext (Nat.min_eq_left (by omega))
  have settings : outputHead o = [boolByte o.enable ||| boolByte o.tc <<< 1, BitVec.ofNat 8 (o.netId.toNat / 256 ^ 1),
      BitVec.ofNat 8 (o.netId.toNat / 256 ^ 0), BitVec.ofNat 8 (o.regId.toNat / 256 ^ 1),
      BitVec.ofNat 8 (o.regId.toNat / 256 ^ 0), BitVec.ofNat 8 o.accNet.val, BitVec.ofNat 8 o.accReg.val,
      BitVec.ofNat 8 o.lead, BitVec.ofNat 8 o.trail, BitVec.ofNat 8 o.burst] := rfl
  rw [settings, outputOf_eq, outputSettings, outputAdjusted, word, word, if_neg nonzero, index, index,
    toNat_ofNat_of_lt (v := o.lead) (by omega), toNat_ofNat_of_lt (v := o.trail) (by omega),
    toNat_ofNat_of_lt (v := o.burst) (by omega), index7, index7, enable, tc, clamp_of_mem burst1 burst8,
    Nat.min_eq_left lead, Nat.min_eq_left trail]
  simp only [pass, show ¬ 7 < o.accNet.val by omega, show ¬ 7 < o.accReg.val by omega, show ¬ 200 < o.lead by omega,
    show ¬ 200 < o.trail by omega, show o.burst ≠ 0 by omega, show ¬ 8 < o.burst by omega, decide_false, Bool.or_self,
    BitVec.ofNat_toNat, BitVec.setWidth_eq]

theorem readOutput_bytes {o : OutSettings} (h : o.inRange) : readOutput (outputBytes o) = some o := by
  obtain ⟨_, _, _, _, _, intervals⟩ := id h
  have bytes : outputBytes o = outputHead o ++ (tableBytes (bytesOf 2) o.intervals ++ []) := by
    rw [List.append_nil]; rfl
  have interval (i : Fin 6) : readInterval (outputBytes o) i = some (o.intervals.get i) := by
    have range := intervals i
    have value : natAt (outputBytes o) (10 + 2 * i.val) 2 = o.intervals.get i :=
      (congrArg natOf (slice_table (bytesOf_length 2) bytes rfl i)).trans (natOf_two_bytes (by omega))
    rw [readInterval, value]
    exact if_pos range
  have head : slice (outputBytes o) 0 10 = outputHead o := rfl
  have flags : only 2 (byteAt (outputBytes o) 0) = true := (outputFlags_bits o.enable o.tc).2.2
  rw [readOutput, collect_of interval]
  simp only [flags, head, outputOf_head h, if_true, exact_pass]

theorem readCue_bytes {c : CueSettings} (h : c.inRange) : readCue (cueBytes c) = some c := by
  obtain ⟨low, high, priority, hold, wait⟩ := h
  have bytes : cueBytes c = [c.mode.code, c.polarity.code, BitVec.ofNat 8 (c.debounce / 256 ^ 1),
      BitVec.ofNat 8 (c.debounce / 256 ^ 0), c.cls.code, BitVec.ofNat 8 c.priority, c.group, maskByte c.target,
      BitVec.ofNat 8 (c.holdLimit / 256 ^ 2), BitVec.ofNat 8 (c.holdLimit / 256 ^ 1),
      BitVec.ofNat 8 (c.holdLimit / 256 ^ 0), BitVec.ofNat 8 (c.waitLimit / 256 ^ 2),
      BitVec.ofNat 8 (c.waitLimit / 256 ^ 1), BitVec.ofNat 8 (c.waitLimit / 256 ^ 0)] := rfl
  have debounce : natOf [BitVec.ofNat 8 (c.debounce / 256 ^ 1), BitVec.ofNat 8 (c.debounce / 256 ^ 0)] = c.debounce :=
    natOf_two_bytes (by omega)
  have hold' : natOf [BitVec.ofNat 8 (c.holdLimit / 256 ^ 2), BitVec.ofNat 8 (c.holdLimit / 256 ^ 1),
      BitVec.ofNat 8 (c.holdLimit / 256 ^ 0)] = c.holdLimit := natOf_three_bytes (by omega)
  have wait' : natOf [BitVec.ofNat 8 (c.waitLimit / 256 ^ 2), BitVec.ofNat 8 (c.waitLimit / 256 ^ 1),
      BitVec.ofNat 8 (c.waitLimit / 256 ^ 0)] = c.waitLimit := natOf_three_bytes (by omega)
  have settings : cueOf (cueBytes c) = .ok (c, false) := by
    rw [bytes, cueOf_eq, cueSettings, debounce, hold', wait', toNat_ofNat_of_lt (by omega), clamp_of_mem low high,
      Nat.min_eq_left priority, Nat.min_eq_left hold, Nat.min_eq_left wait,
      show (maskByte c.target).setWidth 4 = c.target from maskOf_maskByte _]
    simp only [pass, show c.debounce ≠ 0 by omega, show ¬ 255 < c.debounce by omega, show ¬ 7 < c.priority by omega,
      show ¬ 72000 < c.holdLimit by omega, show ¬ 72000 < c.waitLimit by omega, decide_false, Bool.or_self]
  have target : only 4 (byteAt (cueBytes c) 7) = true := only_maskByte c.target
  rw [readCue, target, settings]
  rfl

theorem readLink_bytes {k : LinkSettings} (h : k.inRange) : readLink (linkBytes k) = some k := by
  obtain ⟨low, high, resume, interval1, interval255⟩ := h
  obtain ⟨perms, perms'⟩ := only_five k.perms
  have bytes : linkBytes k = [boolByte k.enable, k.rate.code, k.perms.setWidth 8, BitVec.ofNat 8 (k.pause / 256 ^ 1),
      BitVec.ofNat 8 (k.pause / 256 ^ 0), BitVec.ofNat 8 (k.resume / 256 ^ 1), BitVec.ofNat 8 (k.resume / 256 ^ 0),
      BitVec.ofNat 8 (k.interval / 256 ^ 1), BitVec.ofNat 8 (k.interval / 256 ^ 0)] := rfl
  have number {v : Nat} (hv : v < 65536) : natOf [BitVec.ofNat 8 (v / 256 ^ 1), BitVec.ofNat 8 (v / 256 ^ 0)] = v :=
    natOf_two_bytes hv
  have pause := number (v := k.pause) (by omega)
  have resume' := number (v := k.resume) (by omega)
  have interval := number (v := k.interval) (by omega)
  have settings : linkOf (linkBytes k) = .ok (k, false) := by
    rw [bytes, linkOf_passes (cfg := k) (boolByte_ne_zero _).symm rfl perms'.symm (by rw [pause]; omega)
      (by rw [resume']; omega) (by rw [interval]; omega), linkAdjusted, pause, resume', interval]
    simp only [show ¬ k.pause < 64 by omega, show ¬ 1008 < k.pause by omega, show ¬ k.pause ≤ k.resume by omega,
      show k.interval ≠ 0 by omega, show ¬ 255 < k.interval by omega, decide_false, Bool.or_self]
  have enable : flagOf (byteAt (linkBytes k) 0) = some k.enable := flagOf_boolByte _
  have perms'' : only 5 (byteAt (linkBytes k) 2) = true := perms
  rw [readLink, enable, perms'', settings]
  rfl

/-! ### Characters and content -/

theorem padTo_eq {k : Nat} {chars : List Byte} (h : chars.length ≤ k) :
    padTo k chars = chars ++ List.replicate (k - chars.length) 0x20 := by
  rw [padTo, List.take_append, List.take_of_length_le h, List.take_replicate]
  congr 2
  omega

/-- A string padded to a field of `k` bytes reads back. -/
theorem readChars_pad {k : Nat} {chars : List Byte} (hk : chars.length ≤ k) (h : chars.all printable = true) :
    readChars chars.length k (padTo k chars) = some chars := by
  have spaces : ((List.replicate (k - chars.length) (0x20 : Byte)).all (· == 0x20)) = true := by
    rw [List.all_eq_true]
    intro b hb
    rw [List.eq_of_mem_replicate hb]
    rfl
  rw [readChars, padTo_eq hk, List.take_left, List.drop_left]
  exact if_pos ⟨hk, h, spaces⟩

theorem readLabel_bytes {l : Label} (h : l.proper) (text : List Byte) : readLabel (variantBytes l text) = some l := by
  obtain ⟨low, high, chars, category⟩ := h
  have bytes : variantBytes l text = [BitVec.ofNat 8 l.chars.length] ++ (padTo 18 l.chars ++
      ([BitVec.ofNat 8 l.category, BitVec.ofNat 8 text.length] ++ padTo 60 text)) := by
    simp [variantBytes]
  have count : (byteAt (variantBytes l text) 0).toNat = l.chars.length := toNat_ofNat_of_lt (by omega)
  have field : slice (variantBytes l text) 1 18 = padTo 18 l.chars := by
    rw [bytes]
    exact List.take_left' (padTo_length ..)
  have cat : (byteAt (variantBytes l text) 19).toNat = l.category := by
    have place : byteAt (variantBytes l text) (1 + (18 + 0)) = BitVec.ofNat 8 l.category := by
      have skip := byteAt_append_right (padTo 18 l.chars)
        ([BitVec.ofNat 8 l.category, BitVec.ofNat 8 text.length] ++ padTo 60 text) 0
      rw [padTo_length] at skip
      rw [bytes]
      exact (byteAt_append_right [BitVec.ofNat 8 l.chars.length] _ (18 + 0)).trans skip
    exact (congrArg BitVec.toNat place).trans (toNat_ofNat_of_lt (by omega))
  rw [readLabel, count, cat, field, readChars_pad high chars, if_pos ⟨low, category⟩]
  rfl

theorem readText_bytes (l : Label) {text : List Byte} (h : properText text) :
    readText (variantBytes l text) = some text := by
  obtain ⟨high, chars⟩ := h
  have bytes : variantBytes l text = (BitVec.ofNat 8 l.chars.length :: padTo 18 l.chars ++ [BitVec.ofNat 8 l.category]) ++
      ([BitVec.ofNat 8 text.length] ++ padTo 60 text) := by
    simp [variantBytes]
  have head : (BitVec.ofNat 8 l.chars.length :: padTo 18 l.chars ++ [BitVec.ofNat 8 l.category]).length = 20 := by
    simp [padTo_length]
  have count : (byteAt (variantBytes l text) 20).toNat = text.length := by
    have place := byteAt_append_right (BitVec.ofNat 8 l.chars.length :: padTo 18 l.chars ++ [BitVec.ofNat 8 l.category])
      ([BitVec.ofNat 8 text.length] ++ padTo 60 text) 0
    rw [← bytes, head] at place
    exact (congrArg BitVec.toNat place).trans (toNat_ofNat_of_lt (by omega))
  have field : slice (variantBytes l text) 21 60 = padTo 60 text := by
    have place := slice_append_right (BitVec.ofNat 8 l.chars.length :: padTo 18 l.chars ++ [BitVec.ofNat 8 l.category])
      ([BitVec.ofNat 8 text.length] ++ padTo 60 text) 1 60
    rw [← bytes, head] at place
    exact place.trans (slice_all (padTo_length ..))
  rw [readText, count, field, readChars_pad high chars]

theorem readFreqs_bytes {codes : List Nat} (h : freqsInRange codes) : readFreqs (freqsBytes codes) = some codes := by
  obtain ⟨few, range⟩ := h
  have count : (byteAt (freqsBytes codes) 0).toNat = codes.length := toNat_ofNat_of_lt (by omega)
  have padded : (codes ++ List.replicate 24 0).take 24 = codes ++ List.replicate (24 - codes.length) 0 := by
    rw [List.take_append, List.take_of_length_le few, List.take_replicate]
    congr 2
    omega
  have small : ∀ c ∈ codes ++ List.replicate (24 - codes.length) 0, c < 65536 := by
    intro c hc
    rcases List.mem_append.1 hc with hc | hc
    · have := List.all_eq_true.1 range c hc
      simp [isFreqCode] at this
      omega
    · rw [List.eq_of_mem_replicate hc]; omega
  have read : ((List.range 24).map fun i => natAt (freqsBytes codes) (1 + 2 * i) 2) =
      codes ++ List.replicate (24 - codes.length) 0 := by
    apply List.ext_getElem (by simp; omega)
    intro i hi hi'
    simp only [List.getElem_map, List.getElem_range]
    have bytes : slice (codesBytes (codes ++ List.replicate (24 - codes.length) 0)) (2 * i) 2 = _ :=
      codesBytes_at _ i hi'
    have place : slice (freqsBytes codes) (1 + 2 * i) 2 =
        slice (codesBytes (codes ++ List.replicate (24 - codes.length) 0)) (2 * i) 2 := by
      rw [freqsBytes, padded]
      exact slice_append_right [_] _ _ _
    exact (congrArg natOf (place.trans bytes)).trans (natOf_two_bytes (small _ (List.getElem_mem hi')))
  have rest : ((List.replicate (24 - codes.length) 0).all (· == 0)) = true := by
    rw [List.all_eq_true]
    intro c hc
    rw [List.eq_of_mem_replicate hc]
    rfl
  rw [readFreqs, count, read, List.take_left, List.drop_left]
  exact if_pos ⟨few, range, rest⟩

theorem flags_only (f : Flags3) : only 3 f.code = true := by
  obtain ⟨a, b, c⟩ := f
  revert a b c; decide

/-- The bytes of a used record after its label. -/
def recordTail (r : Neighbour) : List Byte := bytesOf 2 r.freq ++ [maskByte r.carriers, outOrNoneByte r.link, r.ext.code]

theorem usedBytes_eq (r : Neighbour) : (1 : Byte) :: neighbourBytes r =
    [1, BitVec.ofNat 8 (r.identity.toNat / 256 ^ 1), BitVec.ofNat 8 (r.identity.toNat / 256 ^ 0),
      BitVec.ofNat 8 r.label.length] ++ (padTo 8 r.label ++ recordTail r) := by
  simp [neighbourBytes, recordTail, bytesOf]

/-- A byte of a used record after its label. -/
theorem usedBytes_tail (r : Neighbour) (i : Nat) :
    byteAt ((1 : Byte) :: neighbourBytes r) (12 + i) = byteAt (recordTail r) i := by
  have skip := byteAt_append_right (padTo 8 r.label) (recordTail r) i
  rw [padTo_length] at skip
  have place := byteAt_append_right [(1 : Byte), BitVec.ofNat 8 (r.identity.toNat / 256 ^ 1),
    BitVec.ofNat 8 (r.identity.toNat / 256 ^ 0), BitVec.ofNat 8 r.label.length] (padTo 8 r.label ++ recordTail r) (8 + i)
  rw [usedBytes_eq, show 12 + i = 4 + (8 + i) by omega]
  exact place.trans skip

theorem readUsedRecord_bytes {r : Neighbour} (h : r.proper) : readUsedRecord (1 :: neighbourBytes r) = some r := by
  obtain ⟨identity, carriers, freq, short, chars⟩ := h
  have id : BitVec.ofNat 16 (natAt (1 :: neighbourBytes r) 1 2) = r.identity := word_bytes r.identity
  have count : (byteAt (1 :: neighbourBytes r) 3).toNat = r.label.length := toNat_ofNat_of_lt (by omega)
  have field : slice (1 :: neighbourBytes r) 4 8 = padTo 8 r.label := by
    rw [usedBytes_eq]
    exact List.take_left' (padTo_length ..)
  have freq' : natAt (1 :: neighbourBytes r) 12 2 = r.freq := by
    have drop : (padTo 8 r.label ++ recordTail r).drop 8 = recordTail r := List.drop_left' (padTo_length ..)
    have place : ((1 : Byte) :: neighbourBytes r).drop 12 = recordTail r := by
      rw [usedBytes_eq, show 12 = 4 + 8 by rfl, ← List.drop_drop]
      exact drop
    rw [natAt, place]
    exact natOf_two_bytes (by omega)
  have mask : byteAt (1 :: neighbourBytes r) 14 = maskByte r.carriers := usedBytes_tail r 2
  have link : byteAt (1 :: neighbourBytes r) 15 = outOrNoneByte r.link := usedBytes_tail r 3
  have ext : byteAt (1 :: neighbourBytes r) 16 = r.ext.code := usedBytes_tail r 4
  unfold readUsedRecord
  simp only [id, count, field, freq', mask, link, ext, readChars_pad short chars, outOrNone_byte, only_maskByte,
    maskOf_maskByte, flags_only, flags3Of_code]
  rw [if_pos ⟨identity, freq, trivial, carriers, trivial⟩]

theorem readSlot_bytes {x : Option Neighbour} (h : ∀ r, x = some r → r.proper) : readSlot (slotBytes x) = some x := by
  cases x with
  | none => decide
  | some r =>
    show (readUsedRecord (1 :: neighbourBytes r)).map some = some (some r)
    rw [readUsedRecord_bytes (h r rfl)]
    rfl

end Sys2Proof.Machine

/-! PROOFS. The store image holds what was saved: each part of the body in its place (R165, R166, R178). -/

namespace Sys2Proof.Machine

section
variable (g : Settings) (c : SavedContent)

/-! ### The settings in the body -/

theorem body_sites (i : Fin 16) : slice (imageBody g c) (3 * i.val) 3 = siteBytes (g.sites.get i) := by
  have place := slice_table siteBytes_length (t := g.sites) (body := imageBody g c) (before := [])
    (start := 0) (by simp only [imageBody, settingsBytes, List.append_assoc, List.nil_append]; rfl) rfl i
  rwa [Nat.zero_add] at place

theorem body_groupSets (i : Fin 8) :
    slice (imageBody g c) (48 + 32 * i.val) 32 = groupSetBytes (g.groupSets.get i) :=
  slice_table groupSetBytes_length (before := tableBytes siteBytes g.sites)
    (by simp only [imageBody, settingsBytes, List.append_assoc]; rfl) (by simp [tableBytes_length siteBytes_length]) i

theorem body_routes (i : Fin 16) : slice (imageBody g c) (304 + 14 * i.val) 14 = routeBytes (g.routes.get i) :=
  slice_table routeBytes_length (before := tableBytes siteBytes g.sites ++ tableBytes groupSetBytes g.groupSets)
    (by simp only [imageBody, settingsBytes, List.append_assoc]; rfl)
    (by simp [tableBytes_length siteBytes_length, tableBytes_length groupSetBytes_length]) i

/-- The settings before the default destination mask. -/
def routingBytes : List Byte :=
  tableBytes siteBytes g.sites ++ tableBytes groupSetBytes g.groupSets ++ tableBytes routeBytes g.routes

theorem routingBytes_length : (routingBytes g).length = 528 := by
  simp [routingBytes, tableBytes_length siteBytes_length, tableBytes_length groupSetBytes_length,
    tableBytes_length routeBytes_length]

theorem body_defaultMask : byteAt (imageBody g c) 528 = maskByte g.defaultMask := by
  have body : ∃ rest, imageBody g c = routingBytes g ++ (maskByte g.defaultMask :: rest) :=
    ⟨_, by simp only [imageBody, settingsBytes, routingBytes, List.append_assoc, List.cons_append]; rfl⟩
  obtain ⟨rest, body⟩ := body
  have place := byteAt_append_right (routingBytes g) (maskByte g.defaultMask :: rest) 0
  rwa [← body, routingBytes_length] at place

theorem body_outputs (i : Fin 4) : slice (imageBody g c) (529 + 22 * i.val) 22 = outputBytes (g.outputs.get i) :=
  slice_table outputBytes_length (before := routingBytes g ++ [maskByte g.defaultMask])
    (by simp only [imageBody, settingsBytes, routingBytes, List.append_assoc]; rfl) (by simp [routingBytes_length]) i

theorem body_cues (i : Fin 8) : slice (imageBody g c) (617 + 14 * i.val) 14 = cueBytes (g.cues.get i) :=
  slice_table cueBytes_length
    (before := routingBytes g ++ [maskByte g.defaultMask] ++ tableBytes outputBytes g.outputs)
    (by simp only [imageBody, settingsBytes, routingBytes, List.append_assoc]; rfl)
    (by simp [routingBytes_length, tableBytes_length outputBytes_length]) i

/-- The settings before those of the links. -/
def linklessBytes : List Byte :=
  routingBytes g ++ [maskByte g.defaultMask] ++ tableBytes outputBytes g.outputs ++ tableBytes cueBytes g.cues

theorem linklessBytes_length : (linklessBytes g).length = 729 := by
  simp [linklessBytes, routingBytes_length, tableBytes_length outputBytes_length, tableBytes_length cueBytes_length]

theorem body_links (i : Fin 4) : slice (imageBody g c) (729 + 9 * i.val) 9 = linkBytes (g.links.get i) :=
  slice_table linkBytes_length (before := linklessBytes g)
    (by simp only [imageBody, settingsBytes, linklessBytes, routingBytes, List.append_assoc]; rfl)
    (linklessBytes_length g) i

theorem body_tail (j : Nat) (h : j < 3) : byteAt (imageBody g c) (765 + j) =
    byteAt [g.mode.code, outOrNoneByte g.monitor, g.alertMask.setWidth 8] j := by
  have length : (linklessBytes g ++ tableBytes linkBytes g.links).length = 765 := by
    simp [linklessBytes_length, tableBytes_length linkBytes_length]
  have body : imageBody g c = linklessBytes g ++ tableBytes linkBytes g.links ++
      ([g.mode.code, outOrNoneByte g.monitor, g.alertMask.setWidth 8] ++ contentBytes c) := by
    simp only [imageBody, settingsBytes, linklessBytes, routingBytes, List.append_assoc]
  rw [body, ← length, byteAt_append_right, byteAt_append_left h]

/-! ### The content in the body -/

/-- The bytes of one output's labels and texts. -/
def variantsBytes (p : OutId) : List Byte :=
  variantBytes ((c.labels.get p).get 0) ((c.texts.get p).get 0) ++
    variantBytes ((c.labels.get p).get 1) ((c.texts.get p).get 1)

theorem variantsBytes_length (p : OutId) : (variantsBytes c p).length = 162 := by
  simp [variantsBytes, variantBytes_length]

theorem variants_slice (p : OutId) (v : Fin 2) : slice (variantsBytes c p) (81 * v.val) 81 =
    variantBytes ((c.labels.get p).get v) ((c.texts.get p).get v) := by
  have length (v : Fin 2) := variantBytes_length ((c.labels.get p).get v) ((c.texts.get p).get v)
  match v with
  | 0 =>
    have first := slice_append_left (as := variantBytes ((c.labels.get p).get 0) ((c.texts.get p).get 0))
      (bs := variantBytes ((c.labels.get p).get 1) ((c.texts.get p).get 1)) (i := 0) (k := 81)
      (Nat.le_of_eq (length 0).symm)
    exact first.trans (slice_all (length 0))
  | 1 =>
    have second := slice_append_right (variantBytes ((c.labels.get p).get 0) ((c.texts.get p).get 0))
      (variantBytes ((c.labels.get p).get 1) ((c.texts.get p).get 1)) 0 81
    rw [length] at second
    exact second.trans (slice_all (length 1))

theorem imageBody_content (i k : Nat) : slice (imageBody g c) (768 + i) k = slice (contentBytes c) i k := by
  have place := slice_append_right (settingsBytes g) (contentBytes c) i k
  rwa [settingsBytes_length] at place

theorem body_variant (p : OutId) (v : Fin 2) : variantSlice (imageBody g c) p v =
    variantBytes ((c.labels.get p).get v) ((c.texts.get p).get v) := by
  have length : (outputs.flatMap (variantsBytes c)).length = 648 := by
    rw [flatMap_length (variantsBytes_length c)]; rfl
  have content : contentBytes c = outputs.flatMap (variantsBytes c) ++
      (tableBytes freqsBytes c.freqs ++ tableBytes slotBytes c.neighbours) := List.append_assoc ..
  have item := slice_flatMap (variantsBytes_length c) (outputs_getElem? p) (j := 81 * v.val) (k := 81) (by omega)
  rw [variantSlice, imageBody_content, content, slice_append_left (by omega),
    show 81 * (2 * p.val + v.val) = 162 * p.val + 81 * v.val by omega, item, variants_slice]

theorem body_freqs (p : OutId) : slice (imageBody g c) (1416 + 49 * p.val) 49 = freqsBytes (c.freqs.get p) := by
  have length : (outputs.flatMap (variantsBytes c)).length = 648 := by
    rw [flatMap_length (variantsBytes_length c)]; rfl
  have place := slice_table freqsBytes_length (t := c.freqs) (body := contentBytes c)
    (before := outputs.flatMap (variantsBytes c)) (after := tableBytes slotBytes c.neighbours)
    (List.append_assoc ..) length p
  rw [show 1416 + 49 * p.val = 768 + (648 + 49 * p.val) by omega, imageBody_content, place]

theorem body_slots (i : SlotId) : slice (imageBody g c) (1612 + 17 * i.val) 17 = slotBytes (c.neighbours.get i) := by
  have length : (outputs.flatMap (variantsBytes c) ++ tableBytes freqsBytes c.freqs).length = 844 := by
    rw [List.length_append, flatMap_length (variantsBytes_length c), tableBytes_length freqsBytes_length]; rfl
  have place := slice_table slotBytes_length (t := c.neighbours) (body := contentBytes c)
    (before := outputs.flatMap (variantsBytes c) ++ tableBytes freqsBytes c.freqs) (after := [])
    (by rw [List.append_nil]; rfl) length i
  rw [show 1612 + 17 * i.val = 768 + (844 + 17 * i.val) by omega, imageBody_content, place]

end

/-! ### What a load reads -/

theorem readSettings_body {g : Settings} (h : g.inRange) (c : SavedContent) :
    readSettings (imageBody g c) = some g := by
  obtain ⟨outputs, cues, links⟩ := h
  have sites (d) : collect d (fun i : Fin 16 => readSite (slice (imageBody g c) (3 * i.val) 3)) = some g.sites :=
    collect_of fun i => by rw [body_sites, readSite_bytes]
  have routes (d) : collect d (fun i : Fin 16 => readRoute (slice (imageBody g c) (304 + 14 * i.val) 14)) = some g.routes :=
    collect_of fun i => by rw [body_routes, readRoute_bytes]
  have outs (d) : collect d (fun i : Fin 4 => readOutput (slice (imageBody g c) (529 + 22 * i.val) 22)) = some g.outputs :=
    collect_of fun i => by rw [body_outputs, readOutput_bytes (outputs i)]
  have lines (d) : collect d (fun i : Fin 8 => readCue (slice (imageBody g c) (617 + 14 * i.val) 14)) = some g.cues :=
    collect_of fun i => by rw [body_cues, readCue_bytes (cues i)]
  have ports (d) : collect d (fun i : Fin 4 => readLink (slice (imageBody g c) (729 + 9 * i.val) 9)) = some g.links :=
    collect_of fun i => by rw [body_links, readLink_bytes (links i)]
  have sets : (Table.tabulate fun i : Fin 8 => readGroupSet (slice (imageBody g c) (48 + 32 * i.val) 32)) =
      g.groupSets := by
    apply Table.eq_of_get
    intro i
    rw [Table.get_tabulate, body_groupSets, readGroupSet_bytes]
  have mode : byteAt (imageBody g c) 765 = g.mode.code := body_tail g c 0 (by decide)
  have monitor : byteAt (imageBody g c) 766 = outOrNoneByte g.monitor := body_tail g c 1 (by decide)
  have alert : readAlert (byteAt (imageBody g c) 767) = some g.alertMask := by
    obtain ⟨fits, mask⟩ := only_five g.alertMask
    rw [show byteAt (imageBody g c) 767 = g.alertMask.setWidth 8 from body_tail g c 2 (by decide), readAlert, fits, mask]
    rfl
  unfold readSettings
  rw [sites, routes, outs, lines, ports, sets, mode, monitor, alert, timingModeOf_code, outOrNone_byte, body_defaultMask,
    only_maskByte, maskOf_maskByte]
  rfl

theorem readContent_body (g : Settings) {c : SavedContent} (h : c.proper) :
    readContent (imageBody g c) = some c := by
  obtain ⟨label, text, freqs, neighbour⟩ := h
  have labels (d) : collect d (fun p : OutId => collect builtinLabel fun v : Fin 2 =>
      readLabel (variantSlice (imageBody g c) p v)) = some c.labels :=
    collect_of fun p => collect_of fun v => by rw [body_variant, readLabel_bytes (label p v)]
  have texts (d) : collect d (fun p : OutId => collect [] fun v : Fin 2 =>
      readText (variantSlice (imageBody g c) p v)) = some c.texts :=
    collect_of fun p => collect_of fun v => by rw [body_variant, readText_bytes _ (text p v)]
  have lists (d) : collect d (fun p : OutId => readFreqs (slice (imageBody g c) (1416 + 49 * p.val) 49)) = some c.freqs :=
    collect_of fun p => by rw [body_freqs, readFreqs_bytes (freqs p)]
  have slots (d) : collect d (fun i : SlotId => readSlot (slice (imageBody g c) (1612 + 17 * i.val) 17)) =
      some c.neighbours :=
    collect_of fun i => by rw [body_slots, readSlot_bytes (neighbour i)]
  unfold readContent
  rw [labels, texts, lists, slots]

/-- The live content of a part whose values are in range is what an image can hold. -/
theorem savedContent_proper {c : Content} (h : c.proper) : (savedContent c).proper := by
  obtain ⟨outs, neighbours⟩ := h
  have labels (p : OutId) : (savedContent c).labels.get p = ⟨[(c.outs.get p).varN.label, (c.outs.get p).varR.label], rfl⟩ :=
    Table.get_map ..
  have texts (p : OutId) : (savedContent c).texts.get p = ⟨[(c.outs.get p).varN.text, (c.outs.get p).varR.text], rfl⟩ :=
    Table.get_map ..
  refine ⟨fun p v => ?_, fun p v => ?_, fun p => ?_, neighbours⟩
  · obtain ⟨⟨n, _⟩, ⟨r, _⟩, _⟩ := outs p
    rw [labels]
    match v with
    | 0 => exact n
    | 1 => exact r
  · obtain ⟨⟨_, n, _⟩, ⟨_, r, _⟩, _⟩ := outs p
    rw [texts]
    match v with
    | 0 => exact n
    | 1 => exact r
  · obtain ⟨_, _, freqs, _⟩ := outs p
    rw [show (savedContent c).freqs.get p = (c.outs.get p).freqs from Table.get_map ..]
    exact freqs

/-- Settles O7: the header and check word by `readImage_imageBytes`, the body part by part. -/
theorem anImageHoldsWhatWasSaved : Obligations.AnImageHoldsWhatWasSaved := by
  intro s h
  obtain ⟨settings, content, _⟩ := h
  refine ⟨snapshot_length s, ?_⟩
  rw [snapshot, readImage_imageBytes (imageBody_length _ _), readSettings_body settings,
    readContent_body _ (savedContent_proper content)]

end Sys2Proof.Machine

/-! PROOFS. What is refused before an owner sees it, and parameters of the wrong length (R152, R157, R176). -/

namespace Sys2Proof.Machine

/-! ### Commands, codes and classes -/

theorem cmdOf_none {b : Byte} (h : ∀ c : Cmd, b ≠ c.code) : cmdOf b = none := by
  rw [cmdOf, List.find?_eq_none]
  intro c _
  simpa using (h c).symm

theorem waitingFrame_eq {s : State} {l : LinkId} {body : List Byte} {accepts : Byte → Bool}
    (h : (s.link l).waiting.head? = some body) (ha : accepts (byteAt body 0) = true) :
    waitingFrame accepts l s = some body := by
  obtain ⟨rest, e⟩ := List.head?_eq_some_iff.1 h
  rw [waitingFrame, e]
  exact if_pos ha

/-- Every part command has the one row, with its own owner and what follows its reply. -/
theorem exec_row_of_isPart {c : Cmd} (hc : c.isRouted = false) (l : LinkId) (s : State) :
    ∃ act after, exec (c.row l) s = partRow c act after l s := by
  cases c with
  | status | readRecord | readCounters | clearFaults | setSite | setGroupset | setRoute | setDefaultRoute | setOutput
  | setCue | setLink | setTiming | setMonitor | setAlert | storeSave | reload | restart | revoke | setEpoch
  | cancelTimed => exact ⟨_, _, rfl⟩
  | label | text | freqlist | neighbour | neighbourFlags | optoutBegin | optoutEnd | setInterval | claim | release
  | tmsgAdd | tmsgCancel => cases hc

/-! ### Refusals of part commands -/

section
variable {s : State} {l : LinkId} {c : Cmd} {body : List Byte} {act : List Byte → State → Answer}
  {after : List Byte → State → State}

theorem partRow_notForUs (h : Front s l c body) (hd : directMatch s.settings (targetAddress body) = false) :
    partRow c act after l s = .next (s.modLink l fun k => countNotForUs (k.take (s.linkCfg l))) := by
  have notDirect : directMatch (takeFrame l s).settings (targetAddress body) = false := hd
  rw [partRow, waitingFrame_of_front h]
  simp only [handlePart, notDirect, Bool.false_eq_true, if_false]
  simp only [takeFrame, State.modLink_modLink]

theorem partRow_answers (h : Front s l c body) (hd : directMatch s.settings (targetAddress body) = true) {st : Status}
    (hr : st.isRefusal = true) (ha : partAnswer c act l body (takeFrame l s) = .refuse st (takeFrame l s)) :
    partRow c act after l s = .next (refused l c st s) := by
  have direct : directMatch (takeFrame l s).settings (targetAddress body) = true := hd
  have notOk : st ≠ .ok := by rintro rfl; cases hr
  rw [partRow, waitingFrame_of_front h]
  simp only [handlePart, direct, if_true, ha]
  simp [finishFrame, Answer.refuse, hr, notOk, replyBody, replyOf, takeFrame, refused]

theorem partAnswer_short {u : State} (h : shortTimed body = true) : partAnswer c act l body u = .refuse .badParam u :=
  if_pos h

theorem partAnswer_denied {u : State} (h : shortTimed body = false) (hp : permitted u l c.cls = false) :
    partAnswer c act l body u = .refuse .denied u := by
  simp [partAnswer, h, hp]

theorem partAnswer_timed {u : State} (h : shortTimed body = false) (hp : permitted u l c.cls = true)
    (ht : timedFlag body = true) : partAnswer c act l body u = .refuse .notTimeable u := by
  simp [partAnswer, h, hp, ht]

end

theorem shortTimed_of_short {body : List Byte} (ht : timedFlag body = true) (hl : body.length < 9) :
    shortTimed body = true := by simp [shortTimed, ht, hl]

theorem shortTimed_of_whole {body : List Byte} (h : timedFlag body = true → 9 ≤ body.length) :
    shortTimed body = false := by
  cases ht : timedFlag body with
  | false => exact shortTimed_false_of_untimed ht
  | true => simp [shortTimed, h ht]

/-- A code that names no command, taken by its row. -/
theorem exec_unknownCommand {s : State} {l : LinkId} {body : List Byte} (h : (s.link l).waiting.head? = some body)
    (hc : ∀ c : Cmd, byteAt body 0 ≠ c.code) : exec (.unknownCommand l) s = .next (
      if directMatch s.settings (targetAddress body) then
        finishFrame l (byteAt body 0) true (.refuse .unknownCommand (takeFrame l s))
      else (takeFrame l s).modLink l countNotForUs) := by
  show execUnknownCommand l s = _
  rw [execUnknownCommand, waitingFrame_eq h (by rw [cmdOf_none hc]; rfl)]
  rfl

/-- Settles O15: the table of codes and classes by its entries, then the steps of R152 in their order. -/
theorem partCommandsAreRefusedBeforeTheOwner : Obligations.PartCommandsAreRefusedBeforeTheOwner := by
  refine ⟨fun c code cls h => ?_, fun s l => ⟨rfl, rfl, rfl, rfl, rfl, rfl⟩,
    fun s l body h hc => ⟨fun hd => ?_, fun hd => ?_⟩, fun s l c body hc h => ?_⟩
  · refine (?_ : ∀ x ∈ _, Cmd.code x.1 = x.2.1 ∧ Cmd.cls x.1 = x.2.2) (c, code, cls) h
    decide
  · rw [exec_unknownCommand h hc, hd]
    simp [finishFrame, Answer.refuse, Status.isRefusal, replyBody, takeFrame, Status.code, boolByte]
  · rw [exec_unknownCommand h hc, hd]
    simp [takeFrame]
  · obtain ⟨act, after, row⟩ := exec_row_of_isPart hc l s
    rw [row]
    refine ⟨partRow_notForUs h, fun hd => ⟨fun ht hl => ?_, fun whole denied => ?_, fun ht whole allowed => ?_⟩⟩
    · exact partRow_answers h hd rfl (partAnswer_short (shortTimed_of_short ht hl))
    · exact partRow_answers h hd rfl (partAnswer_denied (shortTimed_of_whole whole)
        ((permitted_congr (s := s) rfl l c.cls).trans denied))
    · exact partRow_answers h hd rfl (partAnswer_timed (shortTimed_of_whole fun _ => whole)
        ((permitted_congr (s := s) rfl l c.cls).trans allowed) ht)

/-! ### Wrong lengths -/

theorem byteAt_drop (bs : List Byte) (k i : Nat) : byteAt (bs.drop k) i = byteAt bs (k + i) := by
  simp [byteAt, List.getD_eq_getElem?_getD]

theorem checkSetGroupset_length {ps : List Byte} (h : ps.length ≠ 2 + 2 * (byteAt ps 1).toNat) :
    checkSetGroupset ps = bad := by
  by_cases many : 16 < (byteAt ps 1).toNat
  · exact if_pos many
  · exact (if_neg many).trans (if_pos h)

/-- The parameter counts of the routed commands (R176). -/
def routedLengths (ps : List Byte) : List (Cmd × Nat) :=
  [(.label, 3 + (byteAt ps 2).toNat), (.text, 2 + (byteAt ps 1).toNat), (.freqlist, 1 + 2 * (byteAt ps 0).toNat),
    (.neighbour, 8 + (byteAt ps 7).toNat), (.neighbourFlags, 2), (.optoutBegin, 0), (.optoutEnd, 0), (.setInterval, 3),
    (.claim, 10), (.release, 1), (.tmsgAdd, 11), (.tmsgCancel, 2)]

theorem ownerCheck_length {c : Cmd} {ps : List Byte} {n : Nat} (h : (c, n) ∈ routedLengths ps) (hn : ps.length ≠ n) :
    c.isRouted = true ∧ c.ownerCheck ps = bad := by
  simp only [routedLengths, List.mem_cons, List.not_mem_nil, or_false, Prod.mk.injEq] at h
  obtain ⟨rfl, rfl⟩ | ⟨rfl, rfl⟩ | ⟨rfl, rfl⟩ | ⟨rfl, rfl⟩ | ⟨rfl, rfl⟩ | ⟨rfl, rfl⟩ | ⟨rfl, rfl⟩ | ⟨rfl, rfl⟩ |
    ⟨rfl, rfl⟩ | ⟨rfl, rfl⟩ | ⟨rfl, rfl⟩ | ⟨rfl, rfl⟩ := h <;> exact ⟨rfl, if_pos hn⟩

theorem exec_routed_length {s : State} {l : LinkId} {c : Cmd} {body : List Byte} {m : Mask} {n : Nat}
    (h : RoutedFrame s l c body m) (hc : (c, n) ∈ routedLengths (frameParams body)) (hn : (frameParams body).length ≠ n) :
    exec (c.row l) s = .next (routedRefused l c body .badParam s) := by
  obtain ⟨routed, fails⟩ := ownerCheck_length hc hn
  rw [exec_row_of_isRouted routed]
  exact routedRow_bad h fails

/-- Settles O16: the length is the first test of each owner's check. -/
theorem wrongLengthsAreRefused : Obligations.WrongLengthsAreRefused := by
  refine ⟨fun s l c body n h hc hn => ?_, fun s l c body m n h ht hc hn => ?_, fun s l c body m n h ht hc hn => ?_⟩
  · simp only [List.mem_cons, List.not_mem_nil, or_false, Prod.mk.injEq] at hc
    obtain ⟨rfl, rfl⟩ | ⟨rfl, rfl⟩ | ⟨rfl, rfl⟩ | ⟨rfl, rfl⟩ | ⟨rfl, rfl⟩ | ⟨rfl, rfl⟩ | ⟨rfl, rfl⟩ | ⟨rfl, rfl⟩ |
      ⟨rfl, rfl⟩ | ⟨rfl, rfl⟩ | ⟨rfl, rfl⟩ | ⟨rfl, rfl⟩ | ⟨rfl, rfl⟩ | ⟨rfl, rfl⟩ | ⟨rfl, rfl⟩ | ⟨rfl, rfl⟩ |
      ⟨rfl, rfl⟩ | ⟨rfl, rfl⟩ | ⟨rfl, rfl⟩ | ⟨rfl, rfl⟩ := hc
    case inr.inr.inr.inr.inr.inl =>
      exact checkedRow_bad h (checkSetGroupset_length (by rw [byteAt_drop]; exact hn))
    case inr.inr.inr.inr.inr.inr.inr.inr.inl => exact exec_setOutput_bad h (if_pos hn)
    all_goals exact checkedRow_bad h (if_pos hn)
  · have params := frameParams_of_untimed ht
    refine exec_routed_length (n := n) h ?_ (by rw [params]; exact hn)
    simp only [params, routedLengths, byteAt_drop]
    exact hc
  · have params := frameParams_of_timed ht
    refine exec_routed_length (n := n) h ?_ (by rw [params]; exact hn)
    simp only [params, routedLengths, byteAt_drop]
    exact hc

end Sys2Proof.Machine

/-! PROOFS. Routes and the refusals of routed commands before their owner (R152, R153, R155, R158, R160). -/

namespace Sys2Proof.Machine

/-! ### Refusals -/

theorem finishFrame_refuse {l : LinkId} {c : Cmd} {direct : Bool} {st : Status} {u : State} (hr : st.isRefusal = true) :
    finishFrame l c.code direct (.refuse st u) = u.modLink l fun k =>
      replyIf direct (replyOf c st false []) (countRefusal k) := by
  cases direct <;> simp [finishFrame, Answer.refuse, hr, replyIf, replyBody, replyOf]

/-- A routed command refused before its owner, on the state the steps so far have left. -/
theorem routedRow_answers {c : Cmd} {check : List Byte → Checked TimedCmd} {l : LinkId} {s u : State} {body : List Byte}
    {st : Status} (h : Front s l c body) (hr : st.isRefusal = true)
    (ha : routedAnswer c check l body (takeFrame l s) = .refuse st (u.modLink l (LinkState.take (s.linkCfg l)))) :
    routedRow c check l s = .next (u.modLink l fun k =>
      replyIf (directMatch s.settings (targetAddress body)) (replyOf c st false [])
        (countRefusal (k.take (s.linkCfg l)))) := by
  rw [routedRow, waitingFrame_of_front h]
  simp only [handleRouted, ha, finishFrame_refuse hr, State.modLink_modLink]
  rfl

section
variable {c : Cmd} {check : List Byte → Checked TimedCmd} {l : LinkId} {s : State} {body : List Byte}

theorem routedAnswer_short (h : shortTimed body = true) : routedAnswer c check l body s = .refuse .badParam s :=
  if_pos h

theorem routedAnswer_noTarget (h : shortTimed body = false) (hm : frameMask body s = 0) :
    routedAnswer c check l body s = .refuse .noTarget (countRoute (targetAddress body) (regionGroup body) s) := by
  simp [routedAnswer, h, hm]

theorem routedAnswer_denied (h : shortTimed body = false) (hm : frameMask body s ≠ 0)
    (hp : permitted s l c.cls = false) :
    routedAnswer c check l body s = .refuse .denied (countRoute (targetAddress body) (regionGroup body) s) := by
  have denied : permitted (countRoute (targetAddress body) (regionGroup body) s) l c.cls = false := hp
  rw [routedAnswer, if_neg (by simp [h])]
  exact (if_neg hm).trans (if_pos (by rw [denied]; rfl))

theorem routedAnswer_budget (h : shortTimed body = false) (hm : frameMask body s ≠ 0)
    (hp : permitted s l c.cls = true) (ht : (s.link l).tokens = 0) :
    routedAnswer c check l body s = .refuse .budget (countRoute (targetAddress body) (regionGroup body) s) := by
  have allowed : permitted (countRoute (targetAddress body) (regionGroup body) s) l c.cls = true := hp
  rw [routedAnswer, if_neg (by simp [h])]
  exact (if_neg hm).trans ((if_neg (by rw [allowed]; decide)).trans (if_pos ht))

end

/-! ### Routes -/

section
variable {cfg : Settings} {a : Word} {g : Byte}

theorem slotHolds_iff {i : Fin 16} :
    slotHolds cfg i a = true ↔ (cfg.sites.get i).enable = true ∧ (cfg.sites.get i).address = a := by
  simp [slotHolds]

theorem directMatch_iff : directMatch cfg a = true ↔
    a ≠ 0xFFFF ∧ ∃ i, (cfg.sites.get i).enable = true ∧ (cfg.sites.get i).address = a := by
  simp only [directMatch, Bool.and_eq_true, bne_iff_ne, ne_eq, List.any_eq_true, Table.mem_items, beq_iff_eq]
  constructor
  · rintro ⟨ne, _, ⟨i, rfl⟩, h⟩
    exact ⟨ne, i, h⟩
  · rintro ⟨ne, i, h⟩
    exact ⟨ne, _, ⟨i, rfl⟩, h⟩

theorem entryTrue_iff {e : RouteEntry} : entryTrue cfg a g e = true ↔
    e.enable = true ∧ ∃ j, (e.terms.get j).enable = true ∧ termTrue cfg a g (e.terms.get j) = true := by
  simp only [entryTrue, Bool.and_eq_true, List.any_eq_true, Table.mem_items]
  constructor
  · rintro ⟨on, _, ⟨j, rfl⟩, h⟩
    exact ⟨on, j, h⟩
  · rintro ⟨on, j, h⟩
    exact ⟨on, _, ⟨j, rfl⟩, h⟩

/-- The first true entry is true, and no entry before it is. -/
theorem firstEntry_eq_some {i : Fin 16} : firstEntry cfg a g = some i ↔
    entryTrue cfg a g (cfg.routes.get i) = true ∧ ∀ j, j < i → entryTrue cfg a g (cfg.routes.get j) = false := by
  rw [firstEntry, List.find?_eq_some_iff_getElem]
  simp only [List.getElem_finRange, Bool.not_eq_true']
  constructor
  · rintro ⟨h, k, hk, rfl, before⟩
    exact ⟨h, fun j hj => before j.val (by simpa [Fin.lt_def] using hj)⟩
  · rintro ⟨h, before⟩
    exact ⟨h, i.val, by simp, rfl, fun j hj => before _ (by simpa [Fin.lt_def] using hj)⟩

theorem firstEntry_eq_none : firstEntry cfg a g = none ↔ ∀ i, entryTrue cfg a g (cfg.routes.get i) = false := by
  simp [firstEntry, List.find?_eq_none]

end

theorem countRoute_of_entry {a : Word} {g : Byte} {s : State} {i : Fin 16} (h : firstEntry s.settings a g = some i) :
    routeMask s.settings a g = (s.settings.routes.get i).dest ∧
      (countRoute a g s).router.matched = s.router.matched.modify i satInc ∧
      (countRoute a g s).router.defaultUses = s.router.defaultUses := by
  simp only [routeMask, countRoute, h, and_self]

theorem countRoute_of_default {a : Word} {g : Byte} {s : State} (h : firstEntry s.settings a g = none) :
    routeMask s.settings a g = s.settings.defaultMask ∧ (countRoute a g s).router.matched = s.router.matched ∧
      (countRoute a g s).router.defaultUses = satInc s.router.defaultUses := by
  simp only [routeMask, countRoute, h, and_self]

theorem countRoute_discards (a : Word) (g : Byte) (s : State) : (countRoute a g s).router.discards =
    if routeMask s.settings a g = 0 then satInc s.router.discards else s.router.discards := by
  unfold countRoute
  cases firstEntry s.settings a g <;> rfl

/-- Settles O14: the refusals of R152 in their order, then the route by its first true entry. -/
theorem routesAreTakenAndRefusedInOrder : Obligations.RoutesAreTakenAndRefusedInOrder := by
  refine ⟨?_, ?_⟩
  · intro s l c body hc h reply counted m
    rw [exec_row_of_isRouted hc]
    have counts : countRoute (targetAddress body) (regionGroup body) (takeFrame l s) =
        counted.modLink l (LinkState.take (s.linkCfg l)) := countRoute_modLink ..
    have mask : frameMask body (takeFrame l s) = m := rfl
    refine ⟨fun ht hl => ?_, fun whole => ⟨fun hm => ?_, fun hm denied => ?_, fun hm allowed empty => ?_⟩⟩
    · exact routedRow_answers h rfl (routedAnswer_short (shortTimed_of_short ht hl))
    · have answer := routedAnswer_noTarget (c := c) (check := c.ownerCheck) (l := l) (shortTimed_of_whole whole)
        (mask.trans hm)
      exact routedRow_answers h rfl (answer.trans (by rw [counts]))
    · have answer := routedAnswer_denied (check := c.ownerCheck) (s := takeFrame l s) (shortTimed_of_whole whole) (mask ▸ hm)
        ((permitted_congr (s := s) rfl l c.cls).trans denied)
      exact routedRow_answers h rfl (answer.trans (by rw [counts]))
    · have answer := routedAnswer_budget (check := c.ownerCheck) (s := takeFrame l s) (shortTimed_of_whole whole) (mask ▸ hm)
        ((permitted_congr (s := s) rfl l c.cls).trans allowed) ((takeFrame_tokens l s).trans empty)
      exact routedRow_answers h rfl (answer.trans (by rw [counts]))
  · intro s a g holds member passes isTrue
    have term (t : RouteTerm) : termTrue s.settings a g t = true ↔ passes t := by
      obtain ⟨_, address, group, combiner⟩ := t
      cases address <;> cases group <;> cases combiner <;>
        simp [termTrue, passes, slotHolds_iff, groupMember, holds, member]
    have entry (e : RouteEntry) : entryTrue s.settings a g e = true ↔ isTrue e := by
      simp only [entryTrue_iff, term, isTrue]
    have notEntry (e : RouteEntry) (h : ¬ isTrue e) : entryTrue s.settings a g e = false :=
      Bool.eq_false_iff.2 (mt (entry e).1 h)
    refine ⟨directMatch_iff, fun i hi before => ?_, fun noneTrue => ?_, countRoute_discards a g s, ?_⟩
    · exact countRoute_of_entry (firstEntry_eq_some.2 ⟨(entry _).2 hi, fun j hj => notEntry _ (before j hj)⟩)
    · exact countRoute_of_default (firstEntry_eq_none.2 fun i => notEntry _ (noneTrue i))
    · unfold countRoute
      cases firstEntry s.settings a g <;> rfl

end Sys2Proof.Machine

/-! PROOFS. The content commands, untimed (R37 to R41, R48 to R51, R68). -/

namespace Sys2Proof.Machine

/-! ### The row of an untimed command -/

/-- An untimed command its owner refuses with an act that touches no link. -/
theorem routedRow_refusedActs {c : Cmd} {check : List Byte → Checked TimedCmd} {l : LinkId} {s : State}
    {body : List Byte} {m : Mask} {x : TimedCmd} {adj : Bool} {st : Status} (F : State → State)
    (hF : ∀ u f, (F u).modLink l f = F (u.modLink l f)) (h : RoutedFrame s l c body m) (hr : st.isRefusal = true)
    (ht : timedFlag body = false) (hc : check (body.drop 5) = .ok (x, adj))
    (ha : applyCmd x m l s.tb.count (reached l body s) = .refuse st (F (reached l body s))) :
    routedRow c check l s = .next (F (routedRefused l c body st s)) := by
  have answer : ownerAnswer check m l body (reached l body s) = .refuse st (F (reached l body s)) := by
    rw [ownerAnswer_untimed ht hc, reached_tb, ha, adjust_refuse hr]
  rw [routedRow_eq h, answer, finishFrame_refuse hr, hF, ← reached_refused]
  cases directMatch s.settings (targetAddress body) <;> simp [replyIf]

/-- An untimed command whose values its owner refuses. -/
theorem routedRow_untimedBad {c : Cmd} {check : List Byte → Checked TimedCmd} {l : LinkId} {s : State} {body : List Byte}
    {m : Mask} (h : RoutedFrame s l c body m) (ht : timedFlag body = false) (hc : check (body.drop 5) = bad) :
    routedRow c check l s = .next (routedRefused l c body .badParam s) :=
  routedRow_bad h (by rw [frameParams_of_untimed ht]; exact hc)

/-! ### Characters -/

theorem cleanChars_eq (chars : List Byte) :
    cleanChars chars = chars.map fun b => if 0x20 ≤ b.toNat ∧ b.toNat ≤ 0x7E then b else 0x20 := by
  unfold cleanChars
  refine List.map_congr_left fun b _ => ?_
  simp only [printable, Bool.and_eq_true, decide_eq_true_eq]

/-- A byte is replaced exactly where the cleaning changes the string. -/
theorem anyReplaced_eq (chars : List Byte) : anyReplaced chars = decide (cleanChars chars ≠ chars) := by
  cases h : anyReplaced chars with
  | false =>
    have printable : chars.all printable = true := by simpa [anyReplaced, List.all_eq_true] using h
    simp [cleanChars_of_printable printable]
  | true =>
    obtain ⟨b, hb, bad⟩ := List.any_eq_true.1 h
    have changed : cleanChars chars ≠ chars := by
      intro e
      have fixed : (if printable b then b else 0x20) = b := List.map_inj_left.1 (e.trans (List.map_id _).symm) b hb
      have space : printable (0x20 : Byte) = true := by decide
      simp only [Bool.not_eq_true'] at bad
      rw [bad, if_neg (by decide)] at fixed
      rw [← fixed, space] at bad
      cases bad
    simp [changed]

theorem satIncIf_isSome {α : Type} [DecidableEq α] (x : Option α) (c : Counter) :
    satIncIf x.isSome c = if x = none then c else satInc c := by
  cases x <;> simp [satIncIf]

/-! ### LABEL -/

theorem checkLabel_passes (v : Variant) (category n : Byte) {chars : List Byte} (hn : chars.length = n.toNat)
    (nonempty : n ≠ 0) : checkLabel (v.code :: category :: n :: chars) =
      .ok (.label v { chars := (cleanChars chars).take 18, category := min category.toNat 31 },
        decide (cleanChars chars ≠ chars) || decide (18 < n.toNat) || decide (31 < category.toNat)) := by
  have whole : slice (v.code :: category :: n :: chars) 3 n.toNat = chars := by
    rw [slice]
    exact List.take_of_length_le (Nat.le_of_eq hn)
  have length : (v.code :: category :: n :: chars).length = 3 + n.toNat := by
    simp only [List.length_cons, hn]; omega
  have pos : n.toNat ≠ 0 := fun e => nonempty (BitVec.eq_of_toNat_eq e)
  unfold checkLabel
  simp only [byteAt, List.getD_cons_zero, List.getD_cons_succ, whole, length, ne_eq, not_true, if_false, variantOf_code,
    pos, anyReplaced_eq]
  rfl

theorem stageLabel_n (l : Label) (o : OutContent) : o.stageLabel .n l =
    { o with varN := { o.varN with staged := some l }
             counters := { o.counters with
               superseded := if o.varN.staged = none then o.counters.superseded else satInc o.counters.superseded } } := by
  rw [← satIncIf_isSome]; rfl

theorem stageLabel_r (l : Label) (o : OutContent) : o.stageLabel .r l =
    { o with varR := { o.varR with staged := some l }
             counters := { o.counters with
               superseded := if o.varR.staged = none then o.counters.superseded else satInc o.counters.superseded } } := by
  rw [← satIncIf_isSome]; rfl

/-! ### TEXT -/

theorem checkText_passes (v : Variant) (n : Byte) {chars : List Byte} (hn : chars.length = n.toNat) :
    checkText (v.code :: n :: chars) = .ok (.text v ((cleanChars chars).take 60),
      decide (cleanChars chars ≠ chars) || decide (60 < n.toNat)) := by
  have whole : slice (v.code :: n :: chars) 2 n.toNat = chars := by
    rw [slice]
    exact List.take_of_length_le (Nat.le_of_eq hn)
  have length : (v.code :: n :: chars).length = 2 + n.toNat := by
    simp only [List.length_cons, hn]; omega
  unfold checkText
  simp only [byteAt, List.getD_cons_zero, List.getD_cons_succ, whole, length, ne_eq, not_true, if_false, variantOf_code,
    anyReplaced_eq]
  rfl

theorem stageText_n (t : List Byte) (o : OutContent) : o.stageText .n t =
    { o with varN := { o.varN with stagedText := some t }
             counters := { o.counters with
               superseded := if o.varN.stagedText = none then o.counters.superseded
                 else satInc o.counters.superseded } } := by
  rw [← satIncIf_isSome]; rfl

theorem stageText_r (t : List Byte) (o : OutContent) : o.stageText .r t =
    { o with varR := { o.varR with stagedText := some t }
             counters := { o.counters with
               superseded := if o.varR.stagedText = none then o.counters.superseded
                 else satInc o.counters.superseded } } := by
  rw [← satIncIf_isSome]; rfl

/-! ### FREQLIST -/

/-- The codes a FREQLIST gives, two bytes each, read back. -/
theorem receivedCodes_eq (k : Byte) {codes : List Nat} (h : ∀ c, c ∈ codes → c < 65536) :
    receivedCodes (k :: codes.flatMap (bytesOf 2)) codes.length = codes := by
  apply List.ext_getElem (by simp [receivedCodes])
  intro i h1 h2
  simp only [receivedCodes, List.getElem_map, List.getElem_range]
  have bytes : slice (codesBytes codes) (2 * i) 2 = bytesOf 2 codes[i] := codesBytes_at codes i h2
  have place := slice_append_right [k] (codesBytes codes) (2 * i) 2
  exact (congrArg natOf (place.trans bytes)).trans (natOf_two_bytes (h _ (List.getElem_mem h2)))

theorem checkFreqlist_passes {k : Byte} {codes : List Nat} (hk : codes.length = k.toNat)
    (h : ∀ c, c ∈ codes → c < 65536) : checkFreqlist (k :: codes.flatMap (bytesOf 2)) =
      .ok (.freqlist (freqListOf codes), freqListOf codes != codes) := by
  have length : (k :: codes.flatMap (bytesOf 2)).length = 1 + 2 * k.toNat := by
    have := codesBytes_length codes
    rw [codesBytes] at this
    rw [List.length_cons, this, hk]
    omega
  unfold checkFreqlist
  simp only [byteAt, List.getD_cons_zero, length, ne_eq, not_true, if_false, ← hk, receivedCodes_eq k h]
  rfl

theorem freqListOf_eq (codes : List Nat) :
    freqListOf codes = ((codes.filter fun c => decide (1 ≤ c ∧ c ≤ 880)).eraseDups).take 24 := by
  have code : isFreqCode = fun c => decide (1 ≤ c ∧ c ≤ 880) := by
    funext c
    simp [isFreqCode]
  rw [freqListOf, dropRepeats_eq, code]

theorem stageFreqs_eq (codes : List Nat) (o : OutContent) : o.stageFreqs codes =
    { o with stagedFreqs := some codes
             counters := { o.counters with
               superseded := if o.stagedFreqs = none then o.counters.superseded
                 else satInc o.counters.superseded } } := by
  rw [← satIncIf_isSome]; rfl

/-! ### The three commands -/

section
variable {s : State} {l : LinkId} {body : List Byte} {m : Mask}

/-- A command that changes the content of the outputs of its mask. -/
theorem routedRow_modOuts {c : Cmd} {check : List Byte → Checked TimedCmd} {x : TimedCmd} {adj : Bool}
    (f : OutContent → OutContent) (h : RoutedFrame s l c body m) (ht : timedFlag body = false)
    (hc : check (body.drop 5) = .ok (x, adj))
    (ha : ∀ u count, applyCmd x m l count u = .done (u.modOuts m f)) (table : OutId → OutContent)
    (hf : ∀ p, (if inMask m p then f (s.out p) else s.out p) = table p) :
    routedRow c check l s = .next { routed l c body .ok adj [] s with
      content := { s.content with outs := .tabulate table } } := by
  have row : routedRow c check l s = .next ((routed l c body .ok adj [] s).modOuts m f) :=
    routedRow_acts (State.modOuts m f) (fun _ _ => rfl) h ht hc (ha _ _)
  have outs : table = fun p => if inMask m p then f (s.out p) else s.out p := (funext hf).symm
  rw [row, outs]
  rfl

end

/-- Settles O17: each check gives the value that `stageLabel`, `stageText` and `stageFreqs` stage. -/
theorem variantsAndListsAreStaged : Obligations.VariantsAndListsAreStaged := by
  refine ⟨⟨?_, ?_⟩, ?_⟩
  · intro s l body m vb category n chars clean h ht hb hn hclean
    rw [← cleanChars_eq] at hclean
    subst hclean
    refine ⟨fun v hv nonempty => ?_, fun fails => ?_⟩
    · subst hv
      refine routedRow_modOuts (OutContent.stageLabel v ⟨(cleanChars chars).take 18, min category.toNat 31⟩) h ht
        (by rw [hb]; exact checkLabel_passes v category n hn nonempty)
        (fun _ _ => rfl) _ fun p => ?_
      cases v with
      | n => rw [stageLabel_n]; rfl
      | r => rw [stageLabel_r]; rfl
    · exact routedRow_untimedBad h ht (by rw [hb]; exact checkLabel_bad fails.symm)
  · intro s l body m vb n chars clean h ht hb hn hclean
    rw [← cleanChars_eq] at hclean
    subst hclean
    refine ⟨fun v hv => ?_, fun fails => ?_⟩
    · subst hv
      refine routedRow_modOuts (OutContent.stageText v ((cleanChars chars).take 60)) h ht
        (by rw [hb]; exact checkText_passes v n hn) (fun _ _ => rfl) _ fun p => ?_
      cases v with
      | n => rw [stageText_n]; rfl
      | r => rw [stageText_r]; rfl
    · exact routedRow_untimedBad h ht (by rw [hb]; exact checkText_bad fails)
  · intro s l body m k codes h ht hb hk range
    refine ⟨freqListOf codes, ?_, freqListOf_eq codes⟩
    refine routedRow_modOuts (OutContent.stageFreqs (freqListOf codes)) h ht
      (by rw [hb]; exact checkFreqlist_passes hk range) (fun _ _ => rfl) _ fun p => ?_
    rw [stageFreqs_eq]
    rfl

/-! ### OPTOUT_BEGIN, OPTOUT_END, SET_INTERVAL -/

theorem applyOptoutBegin_eq (m : Mask) (s : State) : applyOptoutBegin m s =
    if ∃ p : OutId, inMask m p = true ∧ (s.outCfg p).regId = 0 then .refuse .noVariant s
    else .done (s.modOuts m (OutContent.request .regional)) := by
  have unset : (outputs.any fun p => inMask m p && (s.outCfg p).regId == 0) = true ↔
      ∃ p : OutId, inMask m p = true ∧ (s.outCfg p).regId = 0 := by
    have all : ∀ p : OutId, p ∈ outputs := by decide
    simp [List.any_eq_true, all]
  unfold applyOptoutBegin
  simp only [unset]

theorem serviceOf_of {c : Byte} {i : Fin 6} (h : c.toNat = i.val) : ∃ sv, serviceOf c = some sv ∧ sv.index = i := by
  rw [serviceOf, h]
  revert i
  decide +revert

theorem checkSetInterval_passes {c : Byte} {sv : Service} (h : serviceOf c = some sv) (v1 v0 : Byte) :
    checkSetInterval [c, v1, v0] =
      .ok (.setInterval sv (min (natOf [v1, v0]) 1023), decide (1023 < natOf [v1, v0])) := by
  show (match serviceOf c with
    | none => bad
    | some sv => _) = _
  rw [h]
  rfl

/-- Settles O19: OPTOUT_BEGIN by whether a target output lacks its regional identity; SET_INTERVAL by its service. -/
theorem optoutAndSetIntervalAct : Obligations.OptoutAndSetIntervalAct := by
  refine ⟨⟨fun s l body m h ht hb => ⟨fun set => ?_, fun unset => ?_⟩, fun s l body m h ht hb => ?_⟩,
    fun s l body m c v1 v0 h ht hb => ⟨fun i hi => ?_, fun hi => ?_⟩⟩
  · have row : exec (.optoutBegin l) s =
        .next ((routed l .optoutBegin body .ok false [] s).modOuts m (OutContent.request .regional)) := by
      refine routedRow_acts (State.modOuts m (OutContent.request .regional)) (fun _ _ => rfl) h ht (x := .optoutBegin)
        (by rw [hb]; rfl) ((applyOptoutBegin_eq m _).trans (if_neg ?_))
      rintro ⟨p, hp, zero⟩
      exact set p hp zero
    rw [row]
    rfl
  · exact routedRow_denied h rfl ht (x := .optoutBegin) (adj := false) (by rw [hb]; rfl)
      ((applyOptoutBegin_eq m _).trans (if_pos unset))
  · exact routedRow_modOuts (OutContent.request .network) h ht (x := .optoutEnd) (by rw [hb]; rfl) (fun _ _ => rfl) _
      fun _ => rfl
  · obtain ⟨sv, hs, rfl⟩ := serviceOf_of hi
    exact routedRow_acts (fun u => (applySetInterval sv (min (natOf [v1, v0]) 1023) m u).state) (fun _ _ => rfl) h ht
      (by rw [hb]; exact checkSetInterval_passes hs v1 v0) rfl
  · exact routedRow_untimedBad h ht (by rw [hb]; exact checkSetInterval_bad hi)

end Sys2Proof.Machine

/-! PROOFS. NEIGHBOUR, NEIGHBOUR_FLAGS, TMSG_ADD and TMSG_CANCEL, untimed (R38, R49 to R51, R73 to R76). -/

namespace Sys2Proof.Machine

/-! ### NEIGHBOUR -/

/-- The adjusted flag of a NEIGHBOUR with these values. -/
def neighbourAdjusted (chars : List Byte) (n f1 f0 : Byte) : Bool :=
  decide (cleanChars chars ≠ chars) || decide (8 < n.toNat) || decide (880 < natOf [f1, f0])

theorem outOrNone_named {k : Byte} {link : Option OutId}
    (h : k = 0xFF ∧ link = none ∨ ∃ q : OutId, k.toNat = q.val ∧ link = some q) : outOrNone k = some link := by
  rcases h with ⟨rfl, rfl⟩ | ⟨q, hq, rfl⟩
  · rfl
  · exact outOrNone_of hq

theorem checkNeighbour_eq {i i1 i0 f1 f0 carriers k n : Byte} {chars : List Byte} {slot : SlotId} {link : Option OutId}
    (hn : chars.length = n.toNat) (hi : i.toNat = slot.val) (hk : outOrNone k = some link) :
    checkNeighbour (i :: i1 :: i0 :: f1 :: f0 :: carriers :: k :: n :: chars) =
      if BitVec.ofNat 16 (natOf [i1, i0]) = 0 ∧ maskOf carriers ≠ 0 then bad
      else pass (.neighbour slot (BitVec.ofNat 16 (natOf [i1, i0])) (if 880 < natOf [f1, f0] then 0 else natOf [f1, f0])
        (maskOf carriers) link ((cleanChars chars).take 8)) (neighbourAdjusted chars n f1 f0) := by
  have whole : slice (i :: i1 :: i0 :: f1 :: f0 :: carriers :: k :: n :: chars) 8 n.toNat = chars := by
    rw [slice]
    exact List.take_of_length_le (Nat.le_of_eq hn)
  have length : (i :: i1 :: i0 :: f1 :: f0 :: carriers :: k :: n :: chars).length = 8 + n.toNat := by
    simp only [List.length_cons, hn]; omega
  unfold checkNeighbour
  simp only [byteAt, List.getD_cons_zero, List.getD_cons_succ, whole, length, ne_eq, not_true, if_false, index?_of hi, hk,
    anyReplaced_eq]
  rfl

/-- A slot that is no slot, or a link that is no output. -/
theorem checkNeighbour_outside {i i1 i0 f1 f0 carriers k n : Byte} {chars : List Byte}
    (h : 8 ≤ i.toNat ∨ (4 ≤ k.toNat ∧ k ≠ 0xFF)) :
    checkNeighbour (i :: i1 :: i0 :: f1 :: f0 :: carriers :: k :: n :: chars) = bad := by
  refine checkNeighbour_bad ?_
  rcases h with slot | link
  · exact .inl slot
  · exact .inr (.inl link)

theorem keptFlags_eq (old : Option Neighbour) (link : Option OutId) : keptFlags old link = (match old with
    | some r => if r.link = none ∧ link = none then r.ext else ⟨false, false, false⟩
    | none => ⟨false, false, false⟩) := by
  cases old with
  | none => rfl
  | some r => simp [keptFlags]

section
variable {s : State} {l : LinkId} {body : List Byte} {m : Mask} {slot : SlotId}

/-- A command that writes one neighbour slot. -/
theorem routedRow_setNeighbour {c : Cmd} {check : List Byte → Checked TimedCmd} {x : TimedCmd} {adj : Bool}
    (r : Option Neighbour) (h : RoutedFrame s l c body m) (ht : timedFlag body = false)
    (hc : check (body.drop 5) = .ok (x, adj))
    (ha : applyCmd x m l s.tb.count (reached l body s) = .done (setNeighbour slot r (reached l body s))) :
    routedRow c check l s = .next { routed l c body .ok adj [] s with
      content := { s.content with neighbours := s.content.neighbours.set slot r } } :=
  routedRow_acts (setNeighbour slot r) (fun _ _ => rfl) h ht hc ha

end

theorem checkNeighbourFlags_passes {i : Byte} {slot : SlotId} (h : i.toNat = slot.val) (flags : Byte) :
    checkNeighbourFlags [i, flags] = .ok (.neighbourFlags slot (flags3Of flags), false) := by
  show (match index? 8 i.toNat with
    | none => bad
    | some slot => _) = _
  rw [index?_of h]
  rfl

/-- Settles O18: NEIGHBOUR by its carriers and identity, NEIGHBOUR_FLAGS by what the slot holds. -/
theorem neighbourWritesTheRecord : Obligations.NeighbourWritesTheRecord := by
  refine ⟨?_, fun s l body m i flags slot h ht hb hi => ⟨fun r hr hl => ?_, fun closed => ?_⟩, ?_, ?_⟩
  · intro s l body m i i1 i0 f1 f0 carriers k n chars clean slot link h ht hb hn hclean hi hk
    rw [← cleanChars_eq] at hclean
    subst hclean
    have check := checkNeighbour_eq (i1 := i1) (i0 := i0) (f1 := f1) (f0 := f0) (carriers := carriers) hn hi
      (outOrNone_named hk)
    refine ⟨fun free => ?_, fun used named => ?_, fun used unnamed => ?_⟩
    · have free : maskOf carriers = 0 := free
      have passes := check.trans (if_neg (by simp [free]))
      rw [← hb] at passes
      exact routedRow_setNeighbour none h ht passes (if_pos free)
    · have used : maskOf carriers ≠ 0 := used
      have row : exec (.neighbour l) s = .next { routed l .neighbour body .ok (neighbourAdjusted chars n f1 f0) [] s with
          content := { s.content with
            neighbours := s.content.neighbours.set slot (some
              { identity := BitVec.ofNat 16 (natOf [i1, i0]), label := (cleanChars chars).take 8
                freq := if 880 < natOf [f1, f0] then 0 else natOf [f1, f0], carriers := maskOf carriers, link := link
                ext := keptFlags (s.content.neighbours.get slot) link }) } } := by
        have passes := check.trans (if_neg (by rw [ofNat_two_eq_zero]; exact fun e => named e.1))
        rw [← hb] at passes
        exact routedRow_setNeighbour _ h ht passes (if_neg used)
      rw [row, keptFlags_eq]
      rfl
    · refine routedRow_untimedBad h ht ?_
      rw [hb, check, if_pos ⟨(ofNat_two_eq_zero i1 i0).2 unnamed, used⟩]
  · have hr' : (reached l body s).content.neighbours.get slot = some r := hr
    refine routedRow_setNeighbour (some { r with ext := flags3Of flags }) h ht
      (by rw [hb]; exact checkNeighbourFlags_passes hi flags) ?_
    simp [applyCmd, applyNeighbourFlags, hr, hl]
  · refine routedRow_denied h rfl ht (by rw [hb]; exact checkNeighbourFlags_passes hi flags) ?_
    cases hr : s.content.neighbours.get slot with
    | none => simp [applyCmd, applyNeighbourFlags, hr]
    | some r =>
      have linked : r.link.isSome = true := by simpa [hr] using closed
      simp [applyCmd, applyNeighbourFlags, hr, linked]
  · intro s l body m i i1 i0 f1 f0 carriers k n chars h ht hb _ outside
    exact routedRow_untimedBad h ht (by rw [hb]; exact checkNeighbour_outside outside)
  · intro s l body m i flags h ht hb outside
    exact routedRow_untimedBad h ht (by rw [hb]; exact checkNeighbourFlags_bad outside)

/-! ### TMSG_ADD and TMSG_CANCEL -/

theorem poolPosition_of {s : State} {key : Word} {i : Nat}
    (h : (s.pool.records.findIdx fun q => q.key == key) = i) (hi : i < s.pool.records.length) :
    poolPosition s key = some i := by
  simp only [poolPosition, h]
  exact if_pos hi

theorem poolPosition_of_free {s : State} {key : Word} (h : ∀ q, q ∈ s.pool.records → q.key ≠ key) :
    poolPosition s key = none := by
  have none : (s.pool.records.findIdx fun q => q.key == key) = s.pool.records.length :=
    List.findIdx_eq_length.2 fun q hq => by simpa using h q hq
  simp only [poolPosition, none]
  exact if_neg (Nat.lt_irrefl _)

theorem checkTmsgAdd_passes {k1 k0 c5 c4 c3 c2 c1 c0 reps s1 s0 : Byte} (hk : natOf [k1, k0] ≠ 0) (hr : reps ≠ 0) :
    checkTmsgAdd [k1, k0, c5, c4, c3, c2, c1, c0, reps, s1, s0] =
      .ok (.tmsgAdd (BitVec.ofNat 16 (natOf [k1, k0])) (BitVec.ofNat 48 (natOf [c5, c4, c3, c2, c1, c0]))
        (min reps.toNat 8) (max 1 (min (natOf [s1, s0]) 1200)),
        decide (8 < reps.toNat) || decide (natOf [s1, s0] = 0) || decide (1200 < natOf [s1, s0])) := by
  have pos : reps.toNat ≠ 0 := fun e => hr (BitVec.eq_of_toNat_eq e)
  have adjusted : (clamp 1 1200 (natOf [s1, s0]) != natOf [s1, s0]) =
      (decide (natOf [s1, s0] = 0) || decide (1200 < natOf [s1, s0])) := by
    rw [clamp_ne]; simp only [Nat.lt_one_iff]
  show (if natOf [k1, k0] = 0 then bad else if reps.toNat = 0 then bad else pass (TimedCmd.tmsgAdd _ _ _
    (clamp 1 1200 (natOf [s1, s0]))) (decide (8 < reps.toNat) || (clamp 1 1200 (natOf [s1, s0]) != natOf [s1, s0]))) = _
  rw [if_neg hk, if_neg pos, adjusted, clamp_eq (by decide), ← Bool.or_assoc]
  rfl

theorem checkTmsgCancel_passes {k1 k0 : Byte} (hk : BitVec.ofNat 16 (natOf [k1, k0]) ≠ 0) :
    checkTmsgCancel [k1, k0] = .ok (.tmsgCancel (BitVec.ofNat 16 (natOf [k1, k0])), false) :=
  if_neg (mt (ofNat_two_eq_zero k1 k0).2 hk)

/-- The record a TMSG_ADD of these values makes. -/
theorem newRecord_eq {r : PoolRecord} {reps : Nat} {count : Count}
    (hr : r.repeats = .tabulate (fun p => if inMask r.target p then reps else 0))
    (hn : r.nextEligible = .replicate 4 count) : newRecord r.key r.content reps r.spacing r.target count = r := by
  rw [newRecord, ← hr, ← hn]

/-- Settles O21: the pool's acts by where the key stands. -/
theorem tmsgAddAndTmsgCancelActOnThePool : Obligations.TmsgAddAndTmsgCancelActOnThePool := by
  refine ⟨?_, fun s l body m k1 k0 key h ht hb hkey => ⟨fun zero => ?_, fun key' free => ?_, fun i key' hi hl => ?_⟩⟩
  · intro s l body m k1 k0 c5 c4 c3 c2 c1 c0 reps s1 s0 h ht hb
    refine ⟨fun fails => routedRow_untimedBad h ht (by rw [hb]; exact checkTmsgAdd_bad fails), ?_⟩
    intro r adj hk hr key content target spacing repeats next hadj
    subst hadj target
    have passes := checkTmsgAdd_passes (c5 := c5) (c4 := c4) (c3 := c3) (c2 := c2) (c1 := c1) (c0 := c0) (s1 := s1)
      (s0 := s0) hk hr
    rw [← hb, ← key, ← content, ← spacing] at passes
    have record := newRecord_eq repeats next
    refine ⟨fun free room => ?_, fun free full => ?_, fun i hi held => ?_⟩
    · refine routedRow_acts (fun u => (u.modPool fun rs => rs ++ [r]).modPoolCounters fun k =>
        { k with added := satInc k.added }) (fun _ _ => rfl) h ht passes ?_
      have free : poolPosition (reached l body s) r.key = none := poolPosition_of_free free
      simp only [applyCmd, applyTmsgAdd, free, record, reached_pool, if_pos room]
    · refine routedRow_refusedActs (fun u => u.modPoolCounters fun k =>
        { k with refusedFull := satInc k.refusedFull }) (fun _ _ => rfl) h rfl ht passes ?_
      have free : poolPosition (reached l body s) r.key = none := poolPosition_of_free free
      simp only [applyCmd, applyTmsgAdd, free, reached_pool]
      exact if_neg (Nat.not_lt.2 full)
    · refine routedRow_acts (fun u => (u.modPool fun rs => rs.set i r).modPoolCounters fun k =>
        { k with replaced := satInc k.replaced }) (fun _ _ => rfl) h ht passes ?_
      have place : poolPosition (reached l body s) r.key = some i := poolPosition_of hi held
      simp only [applyCmd, applyTmsgAdd, place, record]
  · refine routedRow_untimedBad h ht ?_
    rw [hb]
    exact checkTmsgCancel_bad ((ofNat_two_eq_zero k1 k0).1 (hkey ▸ zero))
  · subst hkey
    refine routedRow_denied h rfl ht (by rw [hb]; exact checkTmsgCancel_passes key') ?_
    have free : poolPosition (reached l body s) (BitVec.ofNat 16 (natOf [k1, k0])) = none := poolPosition_of_free free
    simp only [applyCmd, applyTmsgCancel, free]
  · subst hkey
    refine routedRow_acts (fun u => (u.modPool fun rs => rs.eraseIdx i).modPoolCounters fun k =>
      { k with cancelled := satInc k.cancelled }) (fun _ _ => rfl) h ht
      (by rw [hb]; exact checkTmsgCancel_passes key') ?_
    have place : poolPosition (reached l body s) (BitVec.ofNat 16 (natOf [k1, k0])) = some i := poolPosition_of hi hl
    simp only [applyCmd, applyTmsgCancel, place]
    rfl

end Sys2Proof.Machine

/-! PROOFS. CLAIM, untimed: entry, displacement and renumbering (R84 to R94). -/

namespace Sys2Proof.Machine

/-! ### The values of a CLAIM -/

/-- What a CLAIM of these values asks to be admitted. -/
def linkNewcomer (l : LinkId) (n : Byte) (cl : ClaimClass) (prio group : Byte) (hold wait : Nat) (m : Mask) : Newcomer :=
  { key := ⟨.link l, n⟩, kind := .link, cls := cl, priority := prio.toNat, group := group, target := m
    holdLimit := min hold 72000, waitLimit := min wait 72000 }

theorem checkClaim_passes (n : Byte) (cl : ClaimClass) {prio : Byte} (group h2 h1 h0 w2 w1 w0 : Byte)
    (hp : prio.toNat ≤ 7) : checkClaim [n, cl.code, prio, group, h2, h1, h0, w2, w1, w0] =
      .ok (.claim n cl prio.toNat group (min (natOf [h2, h1, h0]) 72000) (min (natOf [w2, w1, w0]) 72000),
        decide (72000 < natOf [h2, h1, h0]) || decide (72000 < natOf [w2, w1, w0])) := by
  show (match classOf cl.code with
    | none => bad
    | some cls => if 7 < prio.toNat then bad else _) = _
  rw [classOf_code]
  exact if_neg (Nat.not_lt.2 hp)

/-- Every code from 1 to 4 names a class. -/
theorem code_of_range {b : Byte} (low : 1 ≤ b.toNat) (high : b.toNat ≤ 4) : ∃ cl : ClaimClass, b = cl.code := by
  have range : b.toNat = 1 ∨ b.toNat = 2 ∨ b.toNat = 3 ∨ b.toNat = 4 := by omega
  rcases range with h | h | h | h
  · exact ⟨.traffic, BitVec.eq_of_toNat_eq h⟩
  · exact ⟨.trafficUrgent, BitVec.eq_of_toNat_eq h⟩
  · exact ⟨.roadWeather, BitVec.eq_of_toNat_eq h⟩
  · exact ⟨.test, BitVec.eq_of_toNat_eq h⟩

/-! ### The lowest-ranked claim -/

/-- A claim that every other of some claims outranks, and that outranks none of them, is the lowest. -/
theorem lowest_eq {d : Claim} {cs : List Claim} (hd : d ∈ cs)
    (h : ∀ e, e ∈ cs → e ≠ d → outranks e d = true ∧ outranks d e = false) : lowest cs = some d := by
  induction cs with
  | nil => cases hd
  | cons c cs ih =>
    have rest (mem : d ∈ cs) : lowest cs = some d := ih mem fun e he => h e (List.mem_cons_of_mem _ he)
    unfold lowest
    by_cases mem : d ∈ cs
    · rw [rest mem]
      by_cases same : c = d
      · simp [same]
      · simp [(h c List.mem_cons_self same).1]
    · have first : d = c := by simpa [mem] using hd
      subst first
      cases hl : lowest cs with
      | none => rfl
      | some x =>
        have hx : x ∈ cs := lowest_mem hl
        have ne : x ≠ d := fun e => mem (e ▸ hx)
        simp [(h x (List.mem_cons_of_mem _ hx) ne).2]

theorem displaceable_eq {s : State} {d : Claim} (hd : d ∈ s.claims.table) (nowhere : d.currentNowhere = true)
    (h : ∀ e, e ∈ s.claims.table → e.currentNowhere = true → e ≠ d → outranks e d = true ∧ outranks d e = false) :
    displaceable s = some d := by
  refine lowest_eq (List.mem_filter.2 ⟨hd, nowhere⟩) fun e he ne => ?_
  obtain ⟨mem, other⟩ := List.mem_filter.1 he
  exact h e mem other ne

/-! ### Admission -/

theorem admitClaim_duplicate {n : Newcomer} {count : Count} {s : State} (h : ∃ d, d ∈ s.claims.table ∧ d.key = n.key) :
    admitClaim n count s = (.duplicate, s) := by
  obtain ⟨d, hd, hk⟩ := h
  have held : (claimHeld s n.key).isSome = true := by
    rw [claimHeld, List.find?_isSome]
    exact ⟨d, hd, by simp [hk]⟩
  exact if_pos held

section
variable {n : Newcomer} {count : Count} {s : State} (free : ∀ d, d ∈ s.claims.table → d.key ≠ n.key)
include free

theorem admitClaim_enters (room : s.claims.table.length < 8) :
    admitClaim n count s = (.admitted (stampTaken s) none, enterTable n s) := by
  have notHeld : ¬ (claimHeld s n.key).isSome = true := by rw [claimHeld_none free]; simp
  exact (if_neg notHeld).trans (if_pos room)

theorem admitClaim_full (full : s.claims.table.length = 8)
    (above : ∀ d, d ∈ s.claims.table → d.currentNowhere = true → n.priority ≤ d.priority) :
    admitClaim n count s = (.tableFull, countFull s) := by
  have notHeld : ¬ (claimHeld s n.key).isSome = true := by rw [claimHeld_none free]; simp
  have noRoom : ¬ s.claims.table.length < 8 := by omega
  rw [admitClaim, if_neg notHeld, if_neg noRoom]
  cases hd : displaceable s with
  | none => rfl
  | some d =>
    obtain ⟨mem, nowhere⟩ := List.mem_filter.1 (lowest_mem hd)
    exact if_neg (Nat.not_lt.2 (above d mem nowhere))

theorem admitClaim_displaces (full : s.claims.table.length = 8) {d : Claim} (hd : displaceable s = some d)
    (below : d.priority < n.priority) : admitClaim n count s =
      (.admitted (stampTaken (endClaim d .displaced count s)) (some d.key), enterTable n (endClaim d .displaced count s)) := by
  have notHeld : ¬ (claimHeld s n.key).isSome = true := by rw [claimHeld_none free]; simp
  have noRoom : ¬ s.claims.table.length < 8 := by omega
  rw [admitClaim, if_neg notHeld, if_neg noRoom, hd]
  exact if_pos below

end

theorem renumber_below {s : State} (h : s.claims.nextStamp ≠ BitVec.allOnes 32) : renumber s = s := if_neg h

theorem enterTable_below {n : Newcomer} {s : State} (h : s.claims.nextStamp ≠ BitVec.allOnes 32) :
    enterTable n s = { s with claims := { s.claims with
      table := s.claims.table ++ [n.claim s.claims.nextStamp]
      nextStamp := s.claims.nextStamp + 1
      counters := { s.claims.counters with admitted := satInc s.claims.counters.admitted } } } := by
  rw [enterTable, renumber_below h]

theorem renumber_modLink (l : LinkId) (f : LinkState → LinkState) (s : State) :
    renumber (s.modLink l f) = (renumber s).modLink l f := by
  by_cases h : s.claims.nextStamp = BitVec.allOnes 32
  · have h' : (s.modLink l f).claims.nextStamp = BitVec.allOnes 32 := h
    rw [renumber, renumber, if_pos h, if_pos h']
    rfl
  · rw [renumber_below h, renumber_below (s := s.modLink l f) h]

/-- Entry reads the claims and the sequencers, no link. -/
theorem enterTable_modLink (n : Newcomer) (l : LinkId) (f : LinkState → LinkState) (s : State) :
    (enterTable n s).modLink l f = enterTable n (s.modLink l f) := by
  rw [enterTable, enterTable, renumber_modLink]
  rfl

theorem stampTaken_congr {s u : State} (h : u.claims = s.claims) : stampTaken u = stampTaken s := by
  unfold stampTaken renumber
  rw [h]
  split
  · rfl
  · exact congrArg ClaimManager.nextStamp h

/-! ### The row -/

section
variable {s : State} {l : LinkId} {body : List Byte} {m : Mask} {n prio group h2 h1 h0 w2 w1 w0 : Byte} {cl : ClaimClass}

/-- A CLAIM that is admitted, on the table `G` leaves: whole, or without the claim displaced. -/
theorem exec_claim_admitted (h : RoutedFrame s l .claim body m) (ht : timedFlag body = false)
    (hb : body.drop 5 = [n, cl.code, prio, group, h2, h1, h0, w2, w1, w0]) (hp : prio.toNat ≤ 7) (G : State → State)
    (hG : ∀ u f, (G u).modLink l f = G (u.modLink l f)) {displaced : Option ClaimKey} {stamp : Counter}
    (ha : admitClaim (linkNewcomer l n cl prio group (natOf [h2, h1, h0]) (natOf [w2, w1, w0]) m) s.tb.count
        (reached l body s) = (.admitted stamp displaced,
      enterTable (linkNewcomer l n cl prio group (natOf [h2, h1, h0]) (natOf [w2, w1, w0]) m) (G (reached l body s)))) :
    exec (.claim l) s = .next (enterTable (linkNewcomer l n cl prio group (natOf [h2, h1, h0]) (natOf [w2, w1, w0]) m)
      (G (routed l .claim body .ok (decide (72000 < natOf [h2, h1, h0]) || decide (72000 < natOf [w2, w1, w0]))
        (admissionData stamp displaced) s))) := by
  refine routedRow_acts (fun u => enterTable (linkNewcomer l n cl prio group (natOf [h2, h1, h0]) (natOf [w2, w1, w0]) m)
    (G u)) (fun u f => by rw [enterTable_modLink, hG]) h ht
    (by rw [hb]; exact checkClaim_passes n cl group h2 h1 h0 w2 w1 w0 hp) ?_
  unfold linkNewcomer at ha ⊢
  simp only [applyCmd, applyClaim, ha]

theorem exec_claim_duplicate (h : RoutedFrame s l .claim body m) (ht : timedFlag body = false)
    (hb : body.drop 5 = [n, cl.code, prio, group, h2, h1, h0, w2, w1, w0]) (hp : prio.toNat ≤ 7)
    (held : ∃ d, d ∈ s.claims.table ∧ d.key = ⟨.link l, n⟩) :
    exec (.claim l) s = .next (routedRefused l .claim body .duplicate s) := by
  refine routedRow_denied h rfl ht (by rw [hb]; exact checkClaim_passes n cl group h2 h1 h0 w2 w1 w0 hp) ?_
  have answer := admitClaim_duplicate (n := linkNewcomer l n cl prio group (natOf [h2, h1, h0]) (natOf [w2, w1, w0]) m)
    (count := s.tb.count) (s := reached l body s) held
  unfold linkNewcomer at answer
  simp only [applyCmd, applyClaim, answer]

theorem exec_claim_full (h : RoutedFrame s l .claim body m) (ht : timedFlag body = false)
    (hb : body.drop 5 = [n, cl.code, prio, group, h2, h1, h0, w2, w1, w0]) (hp : prio.toNat ≤ 7)
    (free : ∀ d, d ∈ s.claims.table → d.key ≠ ⟨.link l, n⟩) (full : s.claims.table.length = 8)
    (above : ∀ d, d ∈ s.claims.table → d.currentNowhere = true → prio.toNat ≤ d.priority) :
    exec (.claim l) s = .next (countFull (routedRefused l .claim body .tableFull s)) := by
  refine routedRow_refusedActs countFull (fun _ _ => rfl) h rfl ht
    (by rw [hb]; exact checkClaim_passes n cl group h2 h1 h0 w2 w1 w0 hp) ?_
  have answer := admitClaim_full (n := linkNewcomer l n cl prio group (natOf [h2, h1, h0]) (natOf [w2, w1, w0]) m)
    (count := s.tb.count) (s := reached l body s) free full above
  unfold linkNewcomer at answer
  simp only [applyCmd, applyClaim, answer]

end

/-! ### Renumbering (R86) -/

/-- A table that is renumbered takes the newcomer with the first stamp past those given. -/
theorem enterTable_renumbers (n : Newcomer) {s : State} (h : s.claims.nextStamp = BitVec.allOnes 32) :
    (enterTable n s).claims.nextStamp = BitVec.ofNat 32 s.claims.table.length + 1 ∧
      (enterTable n s).claims.table = (s.claims.table.map fun d => { d with stamp := renumbered s.claims.table d.stamp }) ++
        [n.claim (BitVec.ofNat 32 s.claims.table.length)] ∧
      (enterTable n s).links = s.links := by
  rw [enterTable, renumber, if_pos h]
  exact ⟨rfl, rfl, rfl⟩

theorem stampTaken_renumbers {s : State} (h : s.claims.nextStamp = BitVec.allOnes 32) :
    stampTaken s = BitVec.ofNat 32 s.claims.table.length := by
  rw [stampTaken, renumber, if_pos h]

/-- A sequencer goes on naming a claim that is held through a renumbering. -/
theorem enterTable_names (n : Newcomer) {s : State} (h : s.claims.nextStamp = BitVec.allOnes 32) {p : OutId} {d : Claim}
    (hd : d ∈ s.claims.table) (hc : (s.lane p).seq.current = some ⟨d.key, d.stamp⟩) :
    ((enterTable n s).lane p).seq.current = some ⟨d.key, renumbered s.claims.table d.stamp⟩ := by
  have held : (s.claims.table.any fun e => e.key == d.key && e.stamp == d.stamp) = true :=
    List.any_eq_true.2 ⟨d, hd, by simp⟩
  have lane : ((enterTable n s).lane p).seq.current = (s.lane p).seq.current.map (renumberRef s.claims.table) := by
    rw [enterTable, renumber, if_pos h]
    exact congrArg (fun ln : Lane => ln.seq.current) (Table.get_map ..)
  rw [lane, hc]
  show some (renumberRef s.claims.table ⟨d.key, d.stamp⟩) = _
  rw [renumberRef, held, if_pos rfl]

theorem bytesOf_length_stamp {k : Nat} (h : k ≤ 8) : bytesOf 4 (BitVec.ofNat 32 k : Counter).toNat = bytesOf 4 k := by
  rw [BitVec.toNat_ofNat, Nat.mod_eq_of_lt (by omega)]

/-- What a CLAIM leaves whose admission renumbers the claims `held`. -/
theorem exec_claim_renumbers {s : State} {l : LinkId} {body : List Byte} {m : Mask}
    {n prio group h2 h1 h0 w2 w1 w0 : Byte} {cl : ClaimClass} (h : RoutedFrame s l .claim body m)
    (ht : timedFlag body = false) (hb : body.drop 5 = [n, cl.code, prio, group, h2, h1, h0, w2, w1, w0])
    (hp : prio.toNat ≤ 7) (end_ : s.claims.nextStamp = BitVec.allOnes 32) (G : State → State)
    (hG : ∀ u f, (G u).modLink l f = G (u.modLink l f)) {held : List Claim} {data : List Byte}
    {displaced : Option ClaimKey} (few : held.length ≤ 8)
    (table : ∀ u, u.claims = s.claims → (G u).claims.table = held ∧ (G u).claims.nextStamp = s.claims.nextStamp)
    (lanes : ∀ u, (G u).lanes = u.lanes) (links : ∀ u, (G u).links = u.links)
    (hdata : ∀ stamp : Counter, admissionData stamp displaced = bytesOf 4 stamp.toNat ++ data)
    (ha : admitClaim (linkNewcomer l n cl prio group (natOf [h2, h1, h0]) (natOf [w2, w1, w0]) m) s.tb.count
        (reached l body s) = (.admitted (stampTaken (G (reached l body s))) displaced,
      enterTable (linkNewcomer l n cl prio group (natOf [h2, h1, h0]) (natOf [w2, w1, w0]) m) (G (reached l body s)))) :
    ∃ (t : State) (c : Claim), exec (.claim l) s = .next t ∧ c.key = ⟨.link l, n⟩ ∧
      c.stamp = BitVec.ofNat 32 held.length ∧ t.claims.nextStamp = BitVec.ofNat 32 held.length + 1 ∧
      t.claims.table = (held.map fun d => { d with stamp := renumbered held d.stamp }) ++ [c] ∧
      t.links = (routed l .claim body .ok
        (decide (72000 < natOf [h2, h1, h0]) || decide (72000 < natOf [w2, w1, w0]))
        (bytesOf 4 held.length ++ data) s).links ∧
      ∀ p d, d ∈ held → (s.lane p).seq.current = some ⟨d.key, d.stamp⟩ →
        (t.lane p).seq.current = some ⟨d.key, renumbered held d.stamp⟩ := by
  obtain ⟨table', stamp'⟩ := table (reached l body s) rfl
  have stamp : stampTaken (G (reached l body s)) = BitVec.ofNat 32 held.length := by
    rw [stampTaken_renumbers (stamp'.trans end_), table']
  have row := exec_claim_admitted h ht hb hp G hG ha
  rw [stamp, hdata, bytesOf_length_stamp few] at row
  generalize hu : routed l .claim body .ok (decide (72000 < natOf [h2, h1, h0]) || decide (72000 < natOf [w2, w1, w0]))
    (bytesOf 4 held.length ++ data) s = u at row
  have claims : u.claims = s.claims := by rw [← hu]; rfl
  have lanes' : u.lanes = s.lanes := by rw [← hu]; rfl
  obtain ⟨heldU, stampU⟩ := table u claims
  obtain ⟨next, all, link⟩ := enterTable_renumbers (linkNewcomer l n cl prio group (natOf [h2, h1, h0])
    (natOf [w2, w1, w0]) m) (s := G u) (stampU.trans end_)
  rw [heldU] at next all
  refine ⟨_, _, row, rfl, rfl, next, all, link.trans (links u), fun p d hd hc => ?_⟩
  have named := enterTable_names (linkNewcomer l n cl prio group (natOf [h2, h1, h0]) (natOf [w2, w1, w0]) m) (s := G u)
    (stampU.trans end_) (p := p) (d := d) (by rw [heldU]; exact hd)
    (by rw [State.lane, lanes u, lanes']; exact hc)
  rw [heldU] at named
  exact named

/-- Settles O20: by the cases of the admission; with the stamps at their end by `exec_claim_renumbers`. -/
theorem claimEntersOrDisplaces : Obligations.ClaimEntersOrDisplaces := by
  refine ⟨?_, ?_, ?_⟩
  · intro s l body m n cls prio group h2 h1 h0 w2 w1 w0 cl h ht hb hc hp
    subst hc
    refine ⟨fun free room below => ?_, fun held => exec_claim_duplicate h ht hb hp held, fun free full above =>
      exec_claim_full h ht hb hp free full above⟩
    have row := exec_claim_admitted h ht hb hp id (fun _ _ => rfl)
      (admitClaim_enters (n := linkNewcomer l n cl prio group (natOf [h2, h1, h0]) (natOf [w2, w1, w0]) m)
        (s := reached l body s) free room)
    rw [row, stampTaken, renumber_below (s := reached l body s) below, id, enterTable_below (by exact below)]
    rfl
  · intro s l body m n cls prio group h2 h1 h0 w2 w1 w0 cl d h ht hb hc hp free full below hd nowhere lower least
    subst hc
    have row := exec_claim_admitted h ht hb hp (endClaim d .displaced s.tb.count) (fun _ _ => rfl)
      (admitClaim_displaces (n := linkNewcomer l n cl prio group (natOf [h2, h1, h0]) (natOf [w2, w1, w0]) m)
        (s := reached l body s) free full (displaceable_eq hd nowhere least) lower)
    rw [row, stampTaken, renumber_below (by exact below), enterTable_below (by exact below)]
    rfl
  · intro s l body m n cls prio group h2 h1 h0 w2 w1 w0 h ht hb
    refine ⟨fun fails => ?_, fun held data place low high hp free end_ cases hplace => ?_⟩
    · refine routedRow_untimedBad h ht ?_
      rw [hb]
      refine checkClaim_bad ?_
      rcases fails with zero | above | prio
      · exact .inl (BitVec.eq_of_toNat_eq zero)
      · exact .inr (.inl above)
      · exact .inr (.inr prio)
    · obtain ⟨cl, rfl⟩ := code_of_range low high
      have places : place = renumbered held := funext hplace
      subst places
      rcases cases with ⟨room, rfl, rfl⟩ | ⟨full, d, hd, nowhere, lower, least, rfl, rfl⟩
      · exact exec_claim_renumbers h ht hb hp end_ id (fun _ _ => rfl) (displaced := none) (by omega)
          (fun u hu => by rw [id, hu]; exact ⟨rfl, rfl⟩) (fun _ => rfl) (fun _ => rfl) (fun _ => rfl)
          (admitClaim_enters (s := reached l body s) free room)
      · refine exec_claim_renumbers h ht hb hp end_ (endClaim d .displaced s.tb.count) (fun _ _ => rfl)
          (displaced := some d.key) (Nat.le_trans (List.length_filter_le ..) (Nat.le_of_eq full)) (fun u hu => ?_) (fun _ => rfl)
          (fun _ => rfl) (fun _ => rfl)
          (admitClaim_displaces (n := linkNewcomer l n cl prio group (natOf [h2, h1, h0]) (natOf [w2, w1, w0]) m)
            (s := reached l body s) free full (displaceable_eq hd nowhere least) lower)
        rw [endClaim, hu]
        exact ⟨rfl, rfl⟩

end Sys2Proof.Machine

/-! PROOFS. The parameters of a queue entry read back (R131, R133, R176). -/

namespace Sys2Proof.Machine

theorem ne_of_nonempty_byte {k : Nat} (low : 1 ≤ k) (high : k < 256) : BitVec.ofNat 8 k ≠ (0 : Byte) := by
  intro e
  have value := toNat_ofNat_of_lt high
  rw [e] at value
  simp at value
  omega

theorem label_readBack {v : Variant} {l : Label} (h : l.proper) :
    checkLabel (TimedCmd.params (.label v l)) = .ok (.label v l, false) := by
  obtain ⟨low, high, chars, category⟩ := h
  have length := toNat_ofNat_of_lt (v := l.chars.length) (by omega)
  have cat := toNat_ofNat_of_lt (v := l.category) (by omega)
  have passes := checkLabel_passes v (BitVec.ofNat 8 l.category) (BitVec.ofNat 8 l.chars.length) length.symm
    (ne_of_nonempty_byte low (by omega))
  rw [cleanChars_of_printable chars, length, cat, List.take_of_length_le high, Nat.min_eq_left category] at passes
  simp only [ne_eq, not_true, decide_false, show ¬ 18 < l.chars.length by omega, show ¬ 31 < l.category by omega,
    Bool.or_self] at passes
  exact passes

theorem text_readBack {v : Variant} {chars : List Byte} (h : properText chars) :
    checkText (TimedCmd.params (.text v chars)) = .ok (.text v chars, false) := by
  obtain ⟨high, printable⟩ := h
  have length := toNat_ofNat_of_lt (v := chars.length) (by omega)
  have passes := checkText_passes v (BitVec.ofNat 8 chars.length) length.symm
  rw [cleanChars_of_printable printable, length, List.take_of_length_le high] at passes
  simp only [ne_eq, not_true, decide_false, show ¬ 60 < chars.length by omega, Bool.or_self] at passes
  exact passes

theorem dropRepeats_of_nodup {codes : List Nat} (h : codes.Nodup) : dropRepeats codes = codes := by
  have run (kept : List Nat) (hk : (kept ++ codes).Nodup) :
      codes.foldl (fun kept c => if kept.contains c then kept else kept ++ [c]) kept = kept ++ codes := by
    clear h
    induction codes generalizing kept with
    | nil => rw [List.append_nil]; rfl
    | cons c cs ih =>
      have fresh : kept.contains c = false := by
        rw [Bool.eq_false_iff, ne_eq, List.contains_iff_mem]
        intro hc
        exact (List.nodup_append.1 hk).2.2 c hc c List.mem_cons_self rfl
      rw [List.foldl_cons, fresh, ih _ (by simpa using hk)]
      simp
  exact run [] h

/-- A list FREQLIST has left stands as it is. -/
theorem freqListOf_of_proper {codes : List Nat} (h : properFreqs codes) : freqListOf codes = codes := by
  obtain ⟨⟨few, range⟩, nodup⟩ := h
  rw [freqListOf, List.filter_eq_self.2 (List.all_eq_true.1 range), dropRepeats_of_nodup nodup,
    List.take_of_length_le few]

theorem freqlist_readBack {codes : List Nat} (h : properFreqs codes) :
    checkFreqlist (TimedCmd.params (.freqlist codes)) = .ok (.freqlist codes, false) := by
  obtain ⟨⟨few, range⟩, _⟩ := id h
  have small : ∀ c, c ∈ codes → c < 65536 := by
    intro c hc
    have := List.all_eq_true.1 range c hc
    simp [isFreqCode] at this
    omega
  have passes := checkFreqlist_passes (k := BitVec.ofNat 8 codes.length)
    (toNat_ofNat_of_lt (v := codes.length) (by omega)).symm small
  rw [freqListOf_of_proper h, bne_self_eq_false] at passes
  exact passes

theorem neighbour_readBack {slot : SlotId} {identity : Word} {freq : Nat} {carriers : Mask} {link : Option OutId}
    {chars : List Byte} (named : identity = 0 → carriers = 0) (hf : freq ≤ 880) (short : chars.length ≤ 8)
    (printable : chars.all printable = true) :
    checkNeighbour (TimedCmd.params (.neighbour slot identity freq carriers link chars)) =
      .ok (.neighbour slot identity freq carriers link chars, false) := by
  have length := toNat_ofNat_of_lt (v := chars.length) (by omega)
  have number : natOf [BitVec.ofNat 8 (freq / 256 ^ 1), BitVec.ofNat 8 (freq / 256 ^ 0)] = freq :=
    natOf_two_bytes (by omega)
  have word : BitVec.ofNat 16 (natOf [BitVec.ofNat 8 (identity.toNat / 256 ^ 1),
      BitVec.ofNat 8 (identity.toNat / 256 ^ 0)]) = identity := word_bytes identity
  have check := checkNeighbour_eq (i := BitVec.ofNat 8 slot.val) (i1 := BitVec.ofNat 8 (identity.toNat / 256 ^ 1))
    (i0 := BitVec.ofNat 8 (identity.toNat / 256 ^ 0)) (f1 := BitVec.ofNat 8 (freq / 256 ^ 1))
    (f0 := BitVec.ofNat 8 (freq / 256 ^ 0)) (carriers := maskByte carriers) (n := BitVec.ofNat 8 chars.length)
    (chars := chars) length.symm (toNat_ofNat_of_lt (v := slot.val) (by omega)) (outOrNone_byte link)
  have allowed : ¬ (identity = 0 ∧ carriers ≠ 0) := fun ⟨zero, used⟩ => used (named zero)
  rw [word, maskOf_maskByte, if_neg allowed, number, if_neg (by omega), neighbourAdjusted,
    cleanChars_of_printable printable, length, number, List.take_of_length_le short] at check
  simp only [ne_eq, not_true, decide_false, show ¬ 8 < chars.length by omega, show ¬ 880 < freq by omega,
    Bool.or_self] at check
  exact check

theorem setInterval_readBack {sv : Service} {v : Nat} (h : v ≤ 1023) :
    checkSetInterval (TimedCmd.params (.setInterval sv v)) = .ok (.setInterval sv v, false) := by
  have number : natOf [BitVec.ofNat 8 (v / 256 ^ 1), BitVec.ofNat 8 (v / 256 ^ 0)] = v := natOf_two_bytes (by omega)
  have passes := checkSetInterval_passes (serviceOf_index sv) (BitVec.ofNat 8 (v / 256 ^ 1))
    (BitVec.ofNat 8 (v / 256 ^ 0))
  rw [number, Nat.min_eq_left h, decide_eq_false (by omega)] at passes
  exact passes

theorem claim_readBack {number : Byte} {cls : ClaimClass} {priority : Nat} {group : Byte} {hold wait : Nat}
    (hp : priority ≤ 7) (hh : hold ≤ 72000) (hw : wait ≤ 72000) :
    checkClaim (TimedCmd.params (.claim number cls priority group hold wait)) =
      .ok (.claim number cls priority group hold wait, false) := by
  have prio := toNat_ofNat_of_lt (v := priority) (by omega)
  have three {v : Nat} (hv : v ≤ 72000) : natOf [BitVec.ofNat 8 (v / 256 ^ 2), BitVec.ofNat 8 (v / 256 ^ 1),
      BitVec.ofNat 8 (v / 256 ^ 0)] = v := natOf_three_bytes (by omega)
  have passes := checkClaim_passes number cls (prio := BitVec.ofNat 8 priority) group (BitVec.ofNat 8 (hold / 256 ^ 2))
    (BitVec.ofNat 8 (hold / 256 ^ 1)) (BitVec.ofNat 8 (hold / 256 ^ 0)) (BitVec.ofNat 8 (wait / 256 ^ 2))
    (BitVec.ofNat 8 (wait / 256 ^ 1)) (BitVec.ofNat 8 (wait / 256 ^ 0)) (by omega)
  rw [three hh, three hw, prio, Nat.min_eq_left hh, Nat.min_eq_left hw, decide_eq_false (Nat.not_lt.2 hh),
    decide_eq_false (Nat.not_lt.2 hw)] at passes
  exact passes

theorem tmsgAdd_readBack {key : Word} {content : BitVec 48} {reps spacing : Nat} (hk : key ≠ 0) (r1 : 1 ≤ reps)
    (r8 : reps ≤ 8) (s1 : 1 ≤ spacing) (s1200 : spacing ≤ 1200) :
    checkTmsgAdd (TimedCmd.params (.tmsgAdd key content reps spacing)) =
      .ok (.tmsgAdd key content reps spacing, false) := by
  have repeats := toNat_ofNat_of_lt (v := reps) (by omega)
  have keyBytes : natOf [BitVec.ofNat 8 (key.toNat / 256 ^ 1), BitVec.ofNat 8 (key.toNat / 256 ^ 0)] = key.toNat :=
    natOf_two_bytes key.isLt
  have space : natOf [BitVec.ofNat 8 (spacing / 256 ^ 1), BitVec.ofNat 8 (spacing / 256 ^ 0)] = spacing :=
    natOf_two_bytes (by omega)
  have message : natOf [BitVec.ofNat 8 (content.toNat / 256 ^ 5), BitVec.ofNat 8 (content.toNat / 256 ^ 4),
      BitVec.ofNat 8 (content.toNat / 256 ^ 3), BitVec.ofNat 8 (content.toNat / 256 ^ 2),
      BitVec.ofNat 8 (content.toNat / 256 ^ 1), BitVec.ofNat 8 (content.toNat / 256 ^ 0)] = content.toNat :=
    natOf_bytesOf_of_lt (k := 6) content.isLt
  have nonzero : key.toNat ≠ 0 := fun e => hk (BitVec.eq_of_toNat_eq e)
  have passes := checkTmsgAdd_passes (c5 := BitVec.ofNat 8 (content.toNat / 256 ^ 5))
    (c4 := BitVec.ofNat 8 (content.toNat / 256 ^ 4)) (c3 := BitVec.ofNat 8 (content.toNat / 256 ^ 3))
    (c2 := BitVec.ofNat 8 (content.toNat / 256 ^ 2)) (c1 := BitVec.ofNat 8 (content.toNat / 256 ^ 1))
    (c0 := BitVec.ofNat 8 (content.toNat / 256 ^ 0)) (s1 := BitVec.ofNat 8 (spacing / 256 ^ 1))
    (s0 := BitVec.ofNat 8 (spacing / 256 ^ 0)) (by rw [keyBytes]; exact nonzero) (ne_of_nonempty_byte r1 (by omega))
  rw [keyBytes, message, repeats, space, Nat.min_eq_left r8, Nat.min_eq_left s1200, Nat.max_eq_right s1,
    BitVec.ofNat_toNat, BitVec.setWidth_eq, BitVec.ofNat_toNat, BitVec.setWidth_eq, decide_eq_false (by omega),
    decide_eq_false (by omega), decide_eq_false (by omega)] at passes
  exact passes

theorem tmsgCancel_readBack {key : Word} (hk : key ≠ 0) :
    checkTmsgCancel (TimedCmd.params (.tmsgCancel key)) = .ok (.tmsgCancel key, false) := by
  have word : BitVec.ofNat 16 (natOf [BitVec.ofNat 8 (key.toNat / 256 ^ 1), BitVec.ofNat 8 (key.toNat / 256 ^ 0)]) =
      key := word_bytes key
  have passes := checkTmsgCancel_passes (k1 := BitVec.ofNat 8 (key.toNat / 256 ^ 1))
    (k0 := BitVec.ofNat 8 (key.toNat / 256 ^ 0)) (by rw [word]; exact hk)
  rw [word] at passes
  exact passes

/-- Settles O23: command by command. -/
theorem entryParametersReadBack : Obligations.EntryParametersReadBack := by
  intro c h
  cases c with
  | label v l => exact label_readBack h
  | text v chars => exact text_readBack h
  | freqlist codes => exact freqlist_readBack h
  | neighbour slot identity freq carriers link chars =>
    obtain ⟨named, hf, short, printable⟩ := h
    exact neighbour_readBack named hf short printable
  | neighbourFlags slot flags =>
    have passes := checkNeighbourFlags_passes (toNat_ofNat_of_lt (v := slot.val) (by omega)) flags.code
    rwa [flags3Of_code] at passes
  | optoutBegin => rfl
  | optoutEnd => rfl
  | setInterval sv v => exact setInterval_readBack h
  | claim number cls priority group hold wait =>
    obtain ⟨hp, hh, hw⟩ := h
    exact claim_readBack hp hh hw
  | release number => rfl
  | tmsgAdd key content reps spacing =>
    obtain ⟨hk, r1, r8, s1, s1200⟩ := h
    exact tmsgAdd_readBack hk r1 r8 s1 s1200
  | tmsgCancel key => exact tmsgCancel_readBack h

end Sys2Proof.Machine

/-! PROOFS. READ_RECORD (R171, R177). -/

namespace Sys2Proof.Machine

/-! ### Rank order (R86, R171) -/

theorem outranks_iff (a b : Claim) : outranks a b = true ↔
    b.priority < a.priority ∨ (a.priority = b.priority ∧ a.stamp.toNat < b.stamp.toNat) := by
  simp [outranks]

theorem outranks_trans {a b c : Claim} (h : outranks a b = true) (k : outranks b c = true) : outranks a c = true := by
  rw [outranks_iff] at h k ⊢
  omega

theorem outranks_asymm {a b : Claim} (h : outranks a b = true) : outranks b a = false := by
  rw [Bool.eq_false_iff, ne_eq, outranks_iff]
  rw [outranks_iff] at h
  omega

theorem insertRanked_perm (c : Claim) (cs : List Claim) : (insertRanked c cs).Perm (c :: cs) := by
  induction cs with
  | nil => exact List.Perm.refl _
  | cons d ds ih =>
    unfold insertRanked
    split
    · exact List.Perm.refl _
    · exact (ih.cons d).trans (List.Perm.swap ..)

theorem ranked_perm (cs : List Claim) : (ranked cs).Perm cs := by
  induction cs with
  | nil => exact List.Perm.refl _
  | cons c cs ih => exact (insertRanked_perm c (ranked cs)).trans (ih.cons c)

theorem insertRanked_pairwise (c : Claim) {cs : List Claim} (h : cs.Pairwise fun c d => outranks d c = false) :
    (insertRanked c cs).Pairwise fun c d => outranks d c = false := by
  induction cs with
  | nil => exact List.pairwise_singleton ..
  | cons d ds ih =>
    obtain ⟨below, rest⟩ := List.pairwise_cons.1 h
    unfold insertRanked
    split
    next above =>
      refine List.pairwise_cons.2 ⟨fun x hx => ?_, h⟩
      rcases List.mem_cons.1 hx with rfl | hx
      · exact outranks_asymm above
      · rw [Bool.eq_false_iff]
        intro higher
        have := outranks_trans higher above
        rw [below x hx] at this
        cases this
    next notAbove =>
      refine List.pairwise_cons.2 ⟨fun x hx => ?_, ih rest⟩
      rcases List.mem_cons.1 ((insertRanked_perm c ds).mem_iff.1 hx) with rfl | hx
      · exact Bool.eq_false_iff.2 notAbove
      · exact below x hx

theorem ranked_pairwise (cs : List Claim) : (ranked cs).Pairwise fun c d => outranks d c = false := by
  induction cs with
  | nil => exact List.Pairwise.nil
  | cons c cs ih => exact insertRanked_pairwise c ih

/-! ### The record of an index -/

section
variable {α : Type} {n i : Nat} {f : α → List Byte} {xs : List α}

theorem placeRecord_empty (hi : i < n) (h : xs.length ≤ i) : placeRecord n i f xs = some none := by
  rw [placeRecord, if_pos hi, List.getElem?_eq_none h]
  rfl

theorem placeRecord_of {x : α} (hi : i < n) (h : xs[i]? = some x) : placeRecord n i f xs = some (some (f x)) := by
  rw [placeRecord, if_pos hi, h]
  rfl

theorem placeRecord_outside (hi : n ≤ i) : placeRecord n i f xs = none := if_neg (Nat.not_lt.2 hi)

theorem instanceRecord_of {g : Fin n → Option (List Byte)} {j : Fin n} (h : i = j.val) :
    instanceRecord n i g = some (g j) := by
  rw [instanceRecord, index?_of h]
  rfl

theorem instanceRecord_absent {x : Fin n → Option α} {j : Fin n} (h : i = j.val) (absent : x j = none) :
    instanceRecord n i (fun j => (x j).map f) = some none := by
  rw [instanceRecord_of h, absent]
  rfl

theorem instanceRecord_given {x : Fin n → Option α} {j : Fin n} {a : α} (h : i = j.val) (given : x j = some a) :
    instanceRecord n i (fun j => (x j).map f) = some (some (f a)) := by
  rw [instanceRecord_of h, given]
  rfl

theorem instanceRecord_outside {g : Fin n → Option (List Byte)} (h : n ≤ i) : instanceRecord n i g = none := by
  rw [instanceRecord, index?_none h]
  rfl

end

/-- An undefined kind, or an index beyond the range of its kind, names no record. -/
theorem recordOf_outside (s : State) {kind i : Nat} (h : 9 ≤ kind ∨ 32 ≤ i ∨ (kind ∈ [0, 4, 6, 7] ∧ 8 ≤ i) ∨
    (kind ∈ [5, 8] ∧ 4 ≤ i) ∨ (kind = 1 ∧ 12 ≤ i)) : recordOf s kind i = none := by
  simp only [List.mem_cons, List.not_mem_nil, or_false] at h
  match kind with
  | 0 => exact placeRecord_outside (by omega)
  | 1 => exact instanceRecord_outside (by omega)
  | 2 => exact placeRecord_outside (by omega)
  | 3 => exact placeRecord_outside (by omega)
  | 4 => exact instanceRecord_outside (by omega)
  | 5 => exact instanceRecord_outside (by omega)
  | 6 => exact instanceRecord_outside (by omega)
  | 7 => exact instanceRecord_outside (by omega)
  | 8 => exact instanceRecord_outside (by omega)
  | n + 9 => rfl

/-! ### The row -/

theorem natByte_toNat (b : Byte) : natByte b.toNat = b := by
  rw [natByte, BitVec.ofNat_toNat, BitVec.setWidth_eq]

/-- The take changes no record. -/
theorem recordOf_takeFrame (l : LinkId) (s : State) (kind i : Nat) :
    recordOf (takeFrame l s) kind i = recordOf s kind i := rfl

theorem exec_readRecord {s : State} {l : LinkId} {body : List Byte} {kind i : Byte} {r : Option (List Byte)}
    (h : PartFrame s l .readRecord body) (hb : body.drop 5 = [kind, i])
    (hr : recordOf s kind.toNat i.toNat = some r) :
    exec (.readRecord l) s = .next (answered l .readRecord .ok false ([kind, i] ++ presentBytes id r) s) := by
  refine checkedRow_gives id (fun _ _ => rfl) h (x := (kind.toNat, i.toNat)) (by rw [hb]; rfl) ?_
  simp only [readRecordAct, recordOf_takeFrame, hr, natByte_toNat]
  rfl

theorem exec_readRecord_bad {s : State} {l : LinkId} {body : List Byte} {kind i : Byte}
    (h : PartFrame s l .readRecord body) (hb : body.drop 5 = [kind, i])
    (hr : recordOf s kind.toNat i.toNat = none) :
    exec (.readRecord l) s = .next (refused l .readRecord .badParam s) := by
  refine checkedRow_refused h rfl (x := (kind.toNat, i.toNat)) (adj := false) (by rw [hb]; rfl) ?_
  simp only [readRecordAct, recordOf_takeFrame, hr]

/-! ### The variants of an output -/

theorem variantAt_eq (s : State) {v : Fin 8} {p : OutId} {regional : Bool} (h : v.val = 2 * p.val + regional.toNat) :
    variantAt s v = variantRecord (if regional then (s.outCfg p).regId else (s.outCfg p).netId)
      (if regional then (s.out p).varR else (s.out p).varN) := by
  cases regional with
  | false =>
    have place : (⟨v.val / 2, by omega⟩ : OutId) = p := Fin.ext (by simp only [h]; simp)
    have even : v.val % 2 = 0 := by rw [h]; simp
    simp only [variantAt, place, even]
    rfl
  | true =>
    have place : (⟨v.val / 2, by omega⟩ : OutId) = p := Fin.ext (by simp only [h, Bool.toNat_true]; omega)
    have odd : v.val % 2 ≠ 0 := by rw [h, Bool.toNat_true]; omega
    simp only [variantAt, place, odd]
    rfl

/-- A present byte with the bytes of what is there. -/
theorem presentBytes_eq {α : Type} {f : α → List Byte} {x : Option α} {d : List Byte} (absent : x = none → d = [0])
    (given : ∀ a, x = some a → d = 1 :: f a) : presentBytes f x = d := by
  cases x with
  | none => exact (absent rfl).symm
  | some a => exact (given a rfl).symm

theorem outOrNoneByte_eq {link : Option OutId} {b : Byte} (absent : link = none → b = 0xFF)
    (given : ∀ p, link = some p → b = BitVec.ofNat 8 p.val) : outOrNoneByte link = b := by
  cases link with
  | none => exact (absent rfl).symm
  | some p => exact (given p rfl).symm

/-- Settles O12: rank order by insertion, then the record of each kind, or none. -/
theorem readRecordReturnsOneRecord : Obligations.ReadRecordReturnsOneRecord := by
  intro s l body kind i t h hb ht
  have row {r : Option (List Byte)} (hr : recordOf s kind.toNat i.toNat = some r) :
      exec (.readRecord l) s = .next (t (presentBytes id r)) := by
    rw [ht]
    exact exec_readRecord h hb hr
  have present {r bytes : List Byte} (hr : recordOf s kind.toNat i.toNat = some (some r)) (e : 1 :: r = bytes) :
      exec (.readRecord l) s = .next (t bytes) := by
    rw [← e]
    exact row hr
  refine ⟨ranked_perm _, ranked_pairwise _, ?_, ?_, ?_, ?_, ?_, ?_, ?_, ?_, ?_, ?_, ?_, ?_, ?_, ?_, ?_, ?_, ?_⟩
  · rintro rfl hi empty
    exact row (placeRecord_empty hi (by rw [(ranked_perm _).length_eq]; exact empty))
  · rintro c rfl hi hc
    exact row (placeRecord_of hi hc)
  · rintro o rfl hi absent
    exact row (instanceRecord_absent hi absent)
  · rintro o e rfl hi given
    exact present (instanceRecord_given hi given) rfl
  · rintro rfl hi empty
    exact row (placeRecord_empty hi empty)
  · rintro r rfl hi hr
    have record := placeRecord_of (f := poolRecordBytes i.toNat) hi hr
    rw [poolRecordBytes, natByte_toNat] at record
    exact row record
  · rintro rfl hi empty
    exact row (placeRecord_empty hi empty)
  · rintro e rfl hi he
    exact row (placeRecord_of hi he)
  · rintro c rfl hi absent
    exact row (instanceRecord_absent hi absent)
  · rintro c r rfl hi given
    exact present (instanceRecord_given hi given) rfl
  · rintro p o d rfl hi rfl absent given
    have staged := presentBytes_eq (f := listBytes) absent given
    have record : recordOf s (5 : Byte).toNat i.toNat = some (some (outputRecord (s.out p))) := instanceRecord_of hi
    rw [outputRecord, staged] at record
    exact present record rfl
  · rintro p regional v d e rfl hi hv noLabel label noText text
    have label := presentBytes_eq (f := labelBytes) noLabel label
    have text := presentBytes_eq (f := stringBytes) noText text
    have record : recordOf s (6 : Byte).toNat i.toNat = some (variantAt s ⟨i.toNat, by cases regional <;> simp [hi] <;> omega⟩) :=
      instanceRecord_of rfl
    rw [variantAt_eq s hi, variantRecord, ← hv, label, text] at record
    refine present record ?_
    simp [labelBytes, stringBytes, natByte]
  · rintro slot rfl hi absent
    exact row (instanceRecord_absent hi absent)
  · rintro slot r b rfl hi given short noLink link
    have record : recordOf s (7 : Byte).toNat i.toNat = some (some (neighbourBytes r)) :=
      instanceRecord_given hi given
    rw [neighbourBytes, padTo_eq short, outOrNoneByte_eq noLink link] at record
    exact present record rfl
  · rintro k rfl hi absent
    exact row (instanceRecord_absent hi absent)
  · rintro k r rfl hi given
    exact present (instanceRecord_given hi given) rfl
  · intro outside
    refine exec_readRecord_bad h hb (recordOf_outside s ?_)
    rcases outside with kind | i | kind | kind | ⟨rfl, i⟩
    · exact .inl kind
    · exact .inr (.inl i)
    · exact .inr (.inr (.inl kind))
    · exact .inr (.inr (.inr (.inl kind)))
    · exact .inr (.inr (.inr (.inr ⟨rfl, i⟩)))

end Sys2Proof.Machine

/-! PROOFS. READ_COUNTERS (R172, R177). -/

namespace Sys2Proof.Machine

/-! ### Tables as lists -/

theorem items_six {α : Type} (t : Table 6 α) :
    t.items = [t.get 0, t.get 1, t.get 2, t.get 3, t.get 4, t.get 5] :=
  match t with
  | ⟨[_, _, _, _, _, _], _⟩ => rfl

theorem items_seven {α : Type} (t : Table 7 α) :
    t.items = [t.get 0, t.get 1, t.get 2, t.get 3, t.get 4, t.get 5, t.get 6] :=
  match t with
  | ⟨[_, _, _, _, _, _, _], _⟩ => rfl

/-- A change that a view does not see leaves the table of the views. -/
theorem map_modify_of_unseen {n : Nat} {α β : Type} {t : Table n α} {i : Fin n} {f : α → α} {g : α → β}
    (h : ∀ x, g (f x) = g x) : (t.modify i f).map g = t.map g := by
  refine Table.eq_of_get fun j => ?_
  rw [Table.get_map, Table.get_map, Table.get_modify]
  split
  · exact h _
  · rfl

/-- A change of one place and a change of every place, in either order. -/
theorem map_modify_comm {n : Nat} {α : Type} {t : Table n α} {i : Fin n} {f g : α → α}
    (h : ∀ x, g (f x) = f (g x)) : (t.modify i f).map g = (t.map g).modify i f := by
  refine Table.eq_of_get fun j => ?_
  rw [Table.get_map, Table.get_modify, Table.get_modify, Table.get_map]
  split
  · exact h _
  · rfl

/-! ### The take sees no counter of a link -/

section
variable (k : LinkState) (c : LinkCounters)

theorem LinkState.nextByte_setCounters :
    LinkState.nextByte { k with counters := c } = { LinkState.nextByte k with counters := c } := by
  have due : LinkState.changeDue { k with counters := c } = LinkState.changeDue k := rfl
  simp only [LinkState.nextByte, due]
  repeat' split
  all_goals rfl

theorem LinkState.take_setCounters (cfg : LinkSettings) :
    LinkState.take cfg { k with counters := c } = { LinkState.take cfg k with counters := c } := by
  have goes : ∀ j : LinkState, LinkState.goCheck cfg { j with counters := c } =
      { LinkState.goCheck cfg j with counters := c } := by
    intro j
    have same : LinkState.occupancy { j with counters := c } = LinkState.occupancy j := rfl
    simp only [LinkState.goCheck, same]
    split
    · exact LinkState.nextByte_setCounters { j with holdOut := false, ctrl := j.ctrl ++ [goByte] } c
    · rfl
  exact goes { k with waiting := k.waiting.tail }

theorem LinkState.take_counters (cfg : LinkSettings) : (LinkState.take cfg k).counters = k.counters :=
  (congrArg LinkState.counters (LinkState.take_setCounters k k.counters cfg)).symm ▸ rfl

end

theorem linkValues_takeFrame (l : LinkId) (s : State) :
    (takeFrame l s).links.map LinkState.counters = s.links.map LinkState.counters :=
  map_modify_of_unseen fun k => LinkState.take_counters k (s.linkCfg l)

theorem counterValues_takeFrame (l : LinkId) (s : State) (g : CounterGroup) :
    counterValues (takeFrame l s) g = counterValues s g := by
  have items := congrArg (fun t => t.items.flatMap linkCounters) (linkValues_takeFrame l s)
  simp only [Table.map, List.flatMap_map] at items
  cases g with
  | link => exact congrArg (· ++ routerCounters s.router) items
  | _ => rfl

/-- Clearing the counters of the links and taking a frame, in either order. -/
theorem clearLinks_takeFrame (l : LinkId) (s : State) :
    clearCounters .link (takeFrame l s) = takeFrame l (clearCounters .link s) :=
  congrArg (fun links => { s with links := links, router := resetRouter })
    (map_modify_comm fun k => (LinkState.take_setCounters k resetLinkCounters (s.linkCfg l)).symm)

/-! ### The row -/

section
variable {s : State} {l : LinkId} {body : List Byte} {group i clear : Byte} {g : CounterGroup}

/-- The data of the reply: group, index and the counters of the group. -/
def counterData (s : State) (group i : Byte) (g : CounterGroup) : List Byte :=
  [group, i] ++ (counterValues s g).flatMap counterBytes

theorem checkReadCounters_three : checkReadCounters [group, i, clear] = .ok ((group.toNat, i.toNat, clear != 0), false) :=
  rfl

theorem readCountersAct_eq (hg : groupOf group.toNat i.toNat = some g) :
    readCountersAct (group.toNat, i.toNat, clear != 0) (takeFrame l s) =
      .give (counterData s group i g) (if clear = 0 then takeFrame l s else clearCounters g (takeFrame l s)) := by
  simp only [readCountersAct, hg, counterValues_takeFrame, natByte_toNat, bne_iff_ne, ne_eq, ite_not]
  rfl

theorem exec_readCounters (h : PartFrame s l .readCounters body) (hb : body.drop 5 = [group, i, clear])
    (hg : groupOf group.toNat i.toNat = some g)
    (hF : ∀ u f, (clearCounters g u).modLink l f = clearCounters g (u.modLink l f)) :
    exec (.readCounters l) s = .next (if clear = 0
      then answered l .readCounters .ok false (counterData s group i g) s
      else clearCounters g (answered l .readCounters .ok false (counterData s group i g) s)) := by
  have checked : checkReadCounters (body.drop 5) = .ok ((group.toNat, i.toNat, clear != 0), false) := by
    rw [hb]
    exact checkReadCounters_three
  have act := readCountersAct_eq (l := l) (s := s) (clear := clear) hg
  by_cases zero : clear = 0
  · rw [if_pos zero] at act ⊢
    exact checkedRow_gives id (fun _ _ => rfl) h checked act
  · rw [if_neg zero] at act ⊢
    exact checkedRow_gives (clearCounters g) hF h checked act

theorem exec_readCounters_link (h : PartFrame s l .readCounters body) (hb : body.drop 5 = [group, i, clear])
    (hg : groupOf group.toNat i.toNat = some .link) :
    exec (.readCounters l) s = .next (answered l .readCounters .ok false (counterData s group i .link)
      (if clear = 0 then s else clearCounters .link s)) := by
  have checked : checkReadCounters (body.drop 5) = .ok ((group.toNat, i.toNat, clear != 0), false) := by
    rw [hb]
    exact checkReadCounters_three
  refine (checkedRow_ok h checked (readCountersAct_eq hg)).trans (congrArg Host.Outcome.next ?_)
  rw [clearLinks_takeFrame, ← answered_of_keeps]
  split <;> rfl

theorem exec_readCounters_bad (h : PartFrame s l .readCounters body) (hb : body.drop 5 = [group, i, clear])
    (hg : groupOf group.toNat i.toNat = none) :
    exec (.readCounters l) s = .next (refused l .readCounters .badParam s) := by
  have checked : checkReadCounters (body.drop 5) = .ok ((group.toNat, i.toNat, clear != 0), false) := by
    rw [hb]
    exact checkReadCounters_three
  refine checkedRow_refused h rfl checked ?_
  simp only [readCountersAct, hg]

end

/-- An undefined group, or an index outside its range, names no group. -/
theorem groupOf_outside {group i : Nat} (h : 10 ≤ group ∨ (group ≤ 3 ∧ 4 ≤ i) ∨ (4 ≤ group ∧ i ≠ 0)) :
    groupOf group i = none := by
  have outside {f : OutId → CounterGroup} (k : 4 ≤ i) : (index? 4 i).map f = none := by rw [index?_none k]; rfl
  have only {g : CounterGroup} (k : i ≠ 0) : (if i = 0 then some g else none) = none := if_neg k
  match group with
  | 0 | 1 | 2 | 3 => exact outside (by omega)
  | 4 | 5 | 6 | 7 | 8 | 9 => exact only (by omega)
  | n + 10 => rfl

theorem groupOf_output {i : Nat} {p : OutId} {f : OutId → CounterGroup} (h : i = p.val) :
    (index? 4 i).map f = some (f p) := by
  rw [index?_of h]
  rfl

/-- Settles O13: the values and the clear of each group. -/
theorem readCountersReadsAndClears : Obligations.ReadCountersReadsAndClears := by
  intro s l body group i clear t h hb ht
  have row {u : State} {g : CounterGroup} {values : List Counter} (hg : groupOf group.toNat i.toNat = some g)
      (hF : ∀ v f, (clearCounters g v).modLink l f = clearCounters g (v.modLink l f))
      (hu : u = t values) (hv : counterValues s g = values) :
      exec (.readCounters l) s = .next (if clear = 0 then u else clearCounters g u) := by
    rw [hu, ht, ← hv]
    exact exec_readCounters h hb hg hF
  refine ⟨?_, ?_, ?_, ?_, ?_, ?_, ?_, ?_, ?_, ?_, ?_⟩
  · rintro p u rfl hi hu
    exact row (groupOf_output (f := .output) hi) (fun _ _ => rfl) hu
      (congrArg (· ++ [(s.lane p).asm.truncated]) (items_seven _))
  · rintro p u k rfl hi rfl hu
    exact row (groupOf_output (f := .content) hi) (fun _ _ => rfl) hu rfl
  · rintro p u k rfl hi rfl hu
    refine row (groupOf_output (f := .scheduler) hi) (fun _ _ => rfl) hu ?_
    simp only [counterValues, schedulerCounters, items_six]
    rfl
  · rintro p u k rfl hi rfl hu
    exact row (groupOf_output (f := .signalling) hi) (fun _ _ => rfl) hu rfl
  · rintro u k rfl rfl rfl hu
    exact row rfl (fun _ _ => rfl) hu rfl
  · rintro u k rfl rfl rfl hu
    exact row rfl (fun _ _ => rfl) hu rfl
  · rintro u k rfl rfl rfl hu
    exact row rfl (fun _ _ => rfl) hu (congrArg ([s.claims.counters.admitted, s.claims.counters.refusedFull] ++ ·) (items_six _))
  · rintro u rfl rfl hu
    exact row rfl (fun _ _ => rfl) hu rfl
  · rintro u k rfl rfl rfl hu
    exact row rfl (fun _ _ => rfl) hu rfl
  · rintro u v cs rfl rfl rfl hu rfl
    refine (exec_readCounters_link h hb rfl).trans (congrArg Host.Outcome.next ?_)
    rw [hu, ht, List.append_assoc]
    split <;> rfl
  · intro outside
    refine exec_readCounters_bad h hb (groupOf_outside ?_)
    rcases outside with kind | kind | ⟨kind, i⟩
    · exact .inl kind
    · exact .inr (.inl kind)
    · exact .inr (.inr ⟨kind, fun zero => i (BitVec.eq_of_toNat_eq zero)⟩)

end Sys2Proof.Machine

/-! PROOFS. The rows of the link interface that wait for their place, and the transmitter (R143, R144, R149, R159). -/

namespace Sys2Proof.Machine

namespace LinkState

theorem applyRate_due {k : LinkState} {rate : LineRate} {rest : List RateChange}
    (h : k.rateChanges = { after := ⟨0, 0⟩, rate := rate } :: rest) :
    k.applyRate = nextByte { k with rate := rate, rateChanges := rest } := by
  rw [applyRate, h]
  rfl

theorem applyRate_waits {k : LinkState} (h : ∀ rc rest, k.rateChanges = rc :: rest → rc.after ≠ ⟨0, 0⟩) :
    k.applyRate = k := by
  unfold applyRate
  split
  · rfl
  next rc rest changes => exact if_neg (h rc rest changes)

end LinkState

/-- A change of a link that changes nothing leaves the state. -/
theorem modLink_of_keeps {s : State} {l : LinkId} {f : LinkState → LinkState} (h : f (s.link l) = s.link l) :
    s.modLink l f = s := by
  have links : s.links.modify l f = s.links := by
    refine Table.eq_of_get fun j => ?_
    rw [Table.get_modify]
    split
    next same => subst same; exact h
    · rfl
  exact congrArg (fun links => { s with links := links }) links

/-- Settles O51: each row by whether its change is due. -/
theorem disableAndRateChangeActInTheirPlace : Obligations.DisableAndRateChangeActInTheirPlace := by
  rintro s l k rfl
  refine ⟨fun due => ?_, fun waits => ?_, fun rate rest due => ?_, fun waits => ?_⟩
  · refine ⟨s.modLink l LinkState.turnOff, congrArg Host.Outcome.next (if_pos due), ?_, rfl, fun j other => ?_⟩
    · rw [State.modLink_link_self]
      exact LinkState.turnOff_turnedOff _
    · rw [State.modLink_link, if_neg (Ne.symm other)]
  · exact congrArg Host.Outcome.next (if_neg waits)
  · refine ⟨s.modLink l LinkState.applyRate, rfl, ?_⟩
    rw [State.modLink_link_self, LinkState.applyRate_due due, LinkState.nextByte_eq]
    exact ⟨rfl, rfl, rfl, rfl⟩
  · exact congrArg Host.Outcome.next (modLink_of_keeps (LinkState.applyRate_waits waits))

/-! ### The transmitter -/

theorem special_iff (b : Byte) : special b = true ↔ b ∈ [(0xC5 : Byte), 0xC3, 0xC1, 0xCA] := by
  simp [special, holdByte, goByte, or_assoc]

namespace LinkState

section
variable {k : LinkState}

theorem nextByte_nothing (hc : k.ctrl = []) (hr : k.replies = []) : k.nextByte = k := by
  rcases nextByte_noReplies hr with e | ⟨c, cs, _, some, _⟩
  · exact e
  · rw [hc] at some
    cases some

theorem nextByte_start {r : Reply} {rs : List Reply} (ht : k.tx = none) (hc : k.ctrl = []) (hd : k.changeDue = false)
    (hr : k.replies = r :: rs) (begun : r.begun = false) : k.nextByte = { k with tx := some .start } := by
  unfold nextByte
  simp [ht, hc, hd, hr, begun]

theorem nextByte_data {r : Reply} {rs : List Reply} {b : Byte} {bs : List Byte} (ht : k.tx = none) (hc : k.ctrl = [])
    (hd : k.changeDue = false) (hr : k.replies = r :: rs) (begun : r.begun = true) (hb : r.bytes = b :: bs) :
    k.nextByte = { k with tx := some (if r.escaped then .data (b ^^^ 0x20)
      else if b ∈ [(0xC5 : Byte), 0xC3, 0xC1, 0xCA] then .escape else .data b) } := by
  simp only [← special_iff]
  unfold nextByte
  simp only [ht, hc, hd, hr, begun, hb, Bool.false_eq_true, if_true, if_false]
  cases r.escaped <;> cases special b <;> rfl

theorem changeDue_of_none (hr : k.rateChanges = []) (hd : k.disableAt = none) : k.changeDue = false := by
  rw [changeDue, hr, hd]
  rfl

/-! ### A reply is placed -/

theorem placeReply_fits {body : List Byte} (h : k.replyBytes + body.length + 4 ≤ 512) : k.placeReply body =
    nextByte { k with replies := k.replies ++ [{ begun := false, escaped := false, bytes := replyFrame body }] } :=
  if_pos h

theorem placeReply_drops {body : List Byte} (h : 512 < k.replyBytes + body.length + 4) : k.placeReply body =
    { k with counters := { k.counters with dropped := satInc k.counters.dropped } } := if_neg (Nat.not_le.2 h)

/-! ### A byte has been sent -/

theorem moveMarks_id (k : LinkState) : k.moveMarks id = k := by
  simp [moveMarks]

theorem modReply_eq (f : Reply → Reply) (k : LinkState) : k.modReply f =
    { k with replies := match k.replies with
      | r :: rs => f r :: rs
      | rs => rs } := by
  unfold modReply
  cases h : k.replies with
  | nil => simp [← h]
  | cons r rs => rfl

theorem freeByte_eq (k : LinkState) : k.freeByte =
    { k with replies := match k.replies with
      | r :: rs => if r.bytes.length ≤ 1 then rs else { r with escaped := false, bytes := r.bytes.tail } :: rs
      | rs => rs } := by
  unfold freeByte
  cases h : k.replies with
  | nil => simp [← h]
  | cons r rs =>
    match e : r.bytes with
    | [] => simp [e]
    | [_] => simp [e]
    | _ :: _ :: _ => simp [e]

/-- The replies that are left once a byte has been sent. -/
def leftAfter : TxByte → List Reply → List Reply
  | .start, r :: rs => { r with begun := true } :: rs
  | .escape, r :: rs => { r with escaped := true } :: rs
  | .data _, r :: rs => if r.bytes.length ≤ 1 then rs else { r with escaped := false, bytes := r.bytes.tail } :: rs
  | _, rs => rs

/-- A mark once a byte has been sent. -/
def markAfter : TxByte → Mark → Mark
  | .ctrl _, m => { m with ctrl := m.ctrl - 1 }
  | .cut _, m => { m with ctrl := m.ctrl - 1 }
  | .data _, m => { m with reply := m.reply - 1 }
  | .start, m => m
  | .escape, m => m

theorem finishByte_eq {x : TxByte} (ht : k.tx = some x) : k.finishByte =
    nextByte (moveMarks (markAfter x) { k with tx := none, replies := leftAfter x k.replies }) := by
  unfold finishByte
  rw [ht]
  cases x with
  | start =>
    refine congrArg nextByte ((modReply_eq _ _).trans ((moveMarks_id _).symm.trans ?_))
    cases k.replies <;> rfl
  | escape =>
    refine congrArg nextByte ((modReply_eq _ _).trans ((moveMarks_id _).symm.trans ?_))
    cases k.replies <;> rfl
  | data b =>
    refine congrArg (fun q => nextByte (moveMarks Mark.lessReply q)) ((freeByte_eq _).trans ?_)
    cases k.replies <;> rfl
  | ctrl b => cases k.replies <;> rfl
  | cut b => cases k.replies <;> rfl

theorem nextByte_noCtrl (h : k.ctrl = []) : k.nextByte.ctrl = [] := by
  unfold nextByte
  split
  · exact h
  · split
    · exact h
    · simp only [h]
      repeat' split
      all_goals simp only [h]

end

end LinkState

open LinkState in
/-- Settles O50: the placing of a reply, and each byte that has been sent. -/
theorem repliesArePlacedAndSent : Obligations.RepliesArePlacedAndSent := by
  refine ⟨fun k body => ⟨fun fits => ?_, placeReply_drops⟩, fun k body fits => ?_, ?_⟩
  · have e := placeReply_fits fits
    have kept := nextByte_eq { k with
      replies := k.replies ++ [{ begun := false, escaped := false, bytes := replyFrame body }] }
    rw [e, kept]
    refine ⟨?_, rfl, rfl, _, rfl, rfl⟩
    simp only [replyBytes, List.map_append, List.sum_append, List.map_cons, List.map_nil, List.sum_cons, List.sum_nil,
      replyFrame_length]
    omega
  · rw [placeReply_fits fits]
    refine ⟨fun busy => ?_, fun idle ctrl replies rates disable => ?_⟩
    · rw [nextByte_busy (by exact busy)]
      exact ⟨rfl, rfl⟩
    · rw [replies]
      exact congrArg LinkState.tx (nextByte_start (r := ⟨false, false, replyFrame body⟩) (rs := [])
        (k := { k with replies := [⟨false, false, replyFrame body⟩] }) idle ctrl (changeDue_of_none rates disable) rfl rfl)
  · rintro s l k rfl
    refine ⟨fun idle => ?_, fun x left sent ht hleft hsent => ?_⟩
    · refine congrArg Host.Outcome.next (modLink_of_keeps ?_)
      rw [finishByte, idle]
    · have left_eq : left = leftAfter x (s.link l).replies := by
        rw [hleft]
        cases x <;> cases (s.link l).replies <;> rfl
      have sent_eq : sent = markAfter x := by
        refine funext fun m => ?_
        rw [hsent m]
        cases x <;> rfl
      clear hleft hsent
      have e := finishByte_eq ht
      rw [← left_eq, ← sent_eq] at e
      refine ⟨s.modLink l finishByte, rfl, ?_⟩
      rw [State.modLink_link_self, e]
      have kept := nextByte_eq (moveMarks sent { s.link l with tx := none, replies := left })
      refine ⟨by rw [kept]; rfl, by rw [kept]; rfl, by rw [kept]; rfl, by rw [kept]; rfl, fun rates disable => ?_⟩
      obtain ⟨q, hq⟩ : ∃ q, q = moveMarks sent { s.link l with tx := none, replies := left } := ⟨_, rfl⟩
      have q_tx : q.tx = none := by rw [hq]; rfl
      have q_ctrl : q.ctrl = (s.link l).ctrl := by rw [hq]; rfl
      have q_replies : q.replies = left := by rw [hq]; rfl
      have due : q.changeDue = false := by
        rw [hq]
        exact changeDue_of_none (congrArg _ rates) (congrArg (Option.map sent) disable)
      rw [← hq]
      refine ⟨fun c cs ctrl => ?_, fun ctrl => ⟨?_, fun none => ?_, fun r rs hr => ⟨fun begun => ?_, ?_⟩⟩⟩
      · rw [nextByte_ctrl q_tx (q_ctrl.trans ctrl) due]
        exact ⟨rfl, rfl⟩
      · exact nextByte_noCtrl (q_ctrl.trans ctrl)
      · rw [nextByte_nothing (q_ctrl.trans ctrl) (q_replies.trans none)]
        exact q_tx
      · rw [nextByte_start q_tx (q_ctrl.trans ctrl) due (q_replies.trans hr) begun]
      · intro b bs begun hb
        rw [nextByte_data q_tx (q_ctrl.trans ctrl) due (q_replies.trans hr) begun hb]

end Sys2Proof.Machine

/-! PROOFS. Arriving bytes, the input buffer and its flow control (R144 to R150). -/

namespace Sys2Proof.Machine

namespace LinkState

section
variable {k t : LinkState} {cfg : LinkSettings}

/-! ### HOLD and GO -/

theorem changeDue_iff (k : LinkState) : k.changeDue = true ↔ k.disableAt = some ⟨0, 0⟩ ∨
    ∃ (rc : RateChange) (rest : List RateChange), k.rateChanges = rc :: rest ∧ rc.after = ⟨0, 0⟩ := by
  unfold changeDue
  cases k.rateChanges <;> simp [or_comm]

theorem sends_iff {bytes : List Byte} : k.Sends t bytes ↔
    (k.tx ≠ none ∨ k.changeDue = true → t.tx = k.tx ∧ t.ctrl = k.ctrl ++ bytes) ∧
      (k.tx = none → k.ctrl = [] → ¬ k.changeDue = true → t.tx = bytes.head?.map TxByte.ctrl ∧ t.ctrl = bytes.tail) := by
  rw [changeDue_iff]
  rfl

/-- With no byte to send the transmitter stands as it stood. -/
theorem sends_nothing (tx : t.tx = k.tx) (ctrl : t.ctrl = k.ctrl) : k.Sends t [] := by
  rw [sends_iff]
  refine ⟨fun _ => ⟨tx, by rw [ctrl, List.append_nil]⟩, fun idle none _ => ?_⟩
  rw [tx, ctrl, idle, none]
  exact ⟨rfl, rfl⟩

/-- Bytes that become due after others go out behind them. -/
theorem Sends.append {m : LinkState} {xs ys : List Byte} (first : k.Sends m xs) (next : m.Sends t ys)
    (due : m.changeDue = k.changeDue) : k.Sends t (xs ++ ys) := by
  rw [sends_iff] at *
  obtain ⟨busy, idle⟩ := first
  obtain ⟨busy', idle'⟩ := next
  rw [due] at busy' idle'
  refine ⟨fun waits => ?_, fun none ctrl free => ?_⟩
  · obtain ⟨tx, line⟩ := busy waits
    obtain ⟨tx', line'⟩ := busy' (by rw [tx]; exact waits)
    rw [tx', line', tx, line, List.append_assoc]
    exact ⟨rfl, rfl⟩
  · obtain ⟨tx, line⟩ := idle none ctrl free
    cases xs with
    | nil => exact idle' tx line free
    | cons x xs =>
      obtain ⟨tx', line'⟩ := busy' (.inl (by rw [tx]; exact Option.some_ne_none _))
      rw [tx', line', tx, line]
      exact ⟨rfl, rfl⟩

/-- What is sent depends on the transmitter, its line, and what holds it back. -/
theorem Sends.of_same {k' t' : LinkState} {bytes : List Byte} (h : k'.Sends t' bytes) (tx : k'.tx = k.tx)
    (ctrl : k'.ctrl = k.ctrl) (due : k'.changeDue = k.changeDue) (tx' : t'.tx = t.tx) (ctrl' : t'.ctrl = t.ctrl) :
    k.Sends t bytes := by
  rw [sends_iff] at *
  rwa [tx, ctrl, due, tx', ctrl'] at h

/-- HOLD becomes due. -/
def holdDue (cfg : LinkSettings) (k : LinkState) : Bool := !k.holdOut && decide (cfg.pause ≤ k.occupancy)

/-- GO becomes due. -/
def goDue (cfg : LinkSettings) (k : LinkState) : Bool := k.holdOut && decide (k.occupancy ≤ cfg.resume)

theorem holdCheck_eq (cfg : LinkSettings) (k : LinkState) : holdCheck cfg k =
    { k with holdOut := k.holdOut || holdDue cfg k, tx := (holdCheck cfg k).tx, ctrl := (holdCheck cfg k).ctrl } := by
  cases due : holdDue cfg k with
  | true =>
    have e : holdCheck cfg k = sendCtrl holdByte { k with holdOut := true } := if_pos due
    rw [e, sendCtrl_eq, Bool.or_true]
  | false =>
    have e : holdCheck cfg k = k := if_neg (Bool.eq_false_iff.1 due)
    rw [e, Bool.or_false]

theorem goCheck_eq (cfg : LinkSettings) (k : LinkState) : goCheck cfg k =
    { k with holdOut := k.holdOut && !goDue cfg k, tx := (goCheck cfg k).tx, ctrl := (goCheck cfg k).ctrl } := by
  cases due : goDue cfg k with
  | true =>
    have e : goCheck cfg k = sendCtrl goByte { k with holdOut := false } := if_pos due
    rw [e, sendCtrl_eq, Bool.not_true, Bool.and_false]
  | false =>
    have e : goCheck cfg k = k := if_neg (Bool.eq_false_iff.1 due)
    rw [e, Bool.not_false, Bool.and_true]

theorem holdCheck_sends (cfg : LinkSettings) (k : LinkState) :
    k.Sends (holdCheck cfg k) (if holdDue cfg k then [0xC3] else []) := by
  cases due : holdDue cfg k with
  | true =>
    have e : holdCheck cfg k = sendCtrl holdByte { k with holdOut := true } := if_pos due
    rw [e]
    exact sendCtrl_sends holdByte { k with holdOut := true }
  | false =>
    have e : holdCheck cfg k = k := if_neg (Bool.eq_false_iff.1 due)
    rw [e]
    exact sends_nothing rfl rfl

theorem goCheck_sends (cfg : LinkSettings) (k : LinkState) :
    k.Sends (goCheck cfg k) (if goDue cfg k then [0xC1] else []) := by
  cases due : goDue cfg k with
  | true =>
    have e : goCheck cfg k = sendCtrl goByte { k with holdOut := false } := if_pos due
    rw [e]
    exact sendCtrl_sends goByte { k with holdOut := false }
  | false =>
    have e : goCheck cfg k = k := if_neg (Bool.eq_false_iff.1 due)
    rw [e]
    exact sends_nothing rfl rfl

/-! ### What an arriving byte does in a frame -/

/-- The frame in progress is removed, with the counters `c` in place of the link's. -/
def removed (cfg : LinkSettings) (c : LinkCounters) (k : LinkState) : LinkState :=
  goCheck cfg { k.clearFrame with counters := c }

theorem discard_eq (cfg : LinkSettings) (k : LinkState) :
    k.discard cfg = k.removed cfg { k.counters with checkErrors := satInc k.counters.checkErrors } := rfl

theorem overrun_eq (cfg : LinkSettings) (k : LinkState) :
    k.overrun cfg = k.removed cfg { k.counters with overruns := satInc k.counters.overruns } := rfl

/-- A byte is put behind the bytes of the frame, and HOLD can become due. -/
def extended (cfg : LinkSettings) (b : Byte) (k : LinkState) : LinkState :=
  holdCheck cfg { k with stored := k.stored ++ [b], escape := false }

theorem storeByte_full {b : Byte} (h : 1024 ≤ k.occupancy) : k.storeByte cfg b = k.overrun cfg := if_pos h

theorem storeByte_fits {b : Byte} (h : k.occupancy < 1024) : k.storeByte cfg b = (k.extended cfg b).afterStore cfg :=
  if_neg (Nat.not_le.2 h)

theorem receive_good (on : k.on = true) (frame : k.recv ≠ .hunt) (b : Byte) :
    receive cfg (.good b) k = k.frameByte cfg b := by
  unfold receive
  rw [if_pos on]
  split <;> simp_all

theorem receive_hunting (on : k.on = true) (hunt : k.recv = .hunt) (b : Byte) : receive cfg (.good b) k =
    if b == 0xC5 then { k with recv := .length, escape := false, stored := [] } else k := by
  unfold receive
  rw [if_pos on]
  split <;> simp_all

theorem receive_defective (on : k.on = true) (frame : k.recv ≠ .hunt) : receive cfg .defective k = k.discard cfg := by
  unfold receive
  rw [if_pos on]
  split <;> simp_all

/-- A byte is a stored byte of the frame, as it stands or after the escape byte. -/
def Carries (k : LinkState) (b v : Byte) : Prop :=
  k.escape = false ∧ b ∉ [(0xC5 : Byte), 0xC3, 0xC1, 0xCA] ∧ v = b ∨
    k.escape = true ∧ v ∈ [(0xC5 : Byte), 0xC3, 0xC1, 0xCA] ∧ v = b ^^^ 0x20

theorem frameByte_stores {b v : Byte} (h : k.Carries b v) : k.frameByte cfg b = k.storeByte cfg v := by
  unfold frameByte
  rcases h with ⟨plain, ordinary, rfl⟩ | ⟨escaped, sp, rfl⟩
  · simp only [List.mem_cons, List.not_mem_nil, or_false, not_or] at ordinary
    obtain ⟨start, hold, go, escape⟩ := ordinary
    have control : ¬ (v == holdByte || v == goByte) = true := by
      rw [Bool.or_eq_true, beq_iff_eq, beq_iff_eq]
      exact fun h => h.elim hold go
    rw [if_neg (Bool.eq_false_iff.1 plain), if_neg (fun h => escape (beq_iff_eq.1 h)),
      if_neg (fun h => start (beq_iff_eq.1 h)), if_neg control]
  · rw [if_pos escaped, if_pos ((special_iff _).2 sp)]

theorem frameByte_unescaped {b : Byte} (escaped : k.escape = true)
    (h : b ^^^ 0x20 ∉ [(0xC5 : Byte), 0xC3, 0xC1, 0xCA]) : k.frameByte cfg b = k.discard cfg := by
  rw [frameByte, if_pos escaped, if_neg (fun sp => h ((special_iff _).1 sp))]

section
variable (plain : k.escape = false)
include plain

theorem frameByte_escape : k.frameByte cfg 0xCA = { k with escape := true } := by
  simp [frameByte, plain]

theorem frameByte_start : k.frameByte cfg 0xC5 = { k.discard cfg with recv := .length } := by
  simp [frameByte, plain]

theorem frameByte_go : k.frameByte cfg 0xC1 = k.discard cfg := by
  simp [frameByte, plain, goByte]

theorem frameByte_hold : k.frameByte cfg 0xC3 = k.discard cfg := by
  simp [frameByte, plain, holdByte]

end

/-- The buffer is overrun exactly where a byte that must be stored finds it full. -/
theorem overruns_of_carries {b v : Byte} (on : k.on = true) (frame : k.recv ≠ .hunt) (h : k.Carries b v) :
    k.overruns (.good b) = decide (1024 ≤ k.occupancy) := by
  have stored : (if k.escape then special (b ^^^ 0x20) else !special b) = true := by
    rcases h with ⟨plain, ordinary, rfl⟩ | ⟨escaped, sp, rfl⟩
    · rw [plain, if_neg Bool.false_ne_true, Bool.not_eq_true', Bool.eq_false_iff]
      exact fun sp => ordinary ((special_iff _).1 sp)
    · rw [escaped, if_pos rfl]
      exact (special_iff _).2 sp
  rw [overruns, on, stored]
  simp [frame]

theorem overruns_of_not_carried {b : Byte} (h : ∀ v, ¬ k.Carries b v) : k.overruns (.good b) = false := by
  have stored : (if k.escape then special (b ^^^ 0x20) else !special b) = false := by
    cases escaped : k.escape with
    | true =>
      rw [if_pos rfl, Bool.eq_false_iff]
      exact fun sp => h _ (.inr ⟨escaped, (special_iff _).1 sp, rfl⟩)
    | false =>
      rw [if_neg Bool.false_ne_true, Bool.not_eq_false']
      refine Classical.byContradiction fun ordinary => ?_
      exact h b (.inl ⟨escaped, fun sp => ordinary ((special_iff _).2 sp), rfl⟩)
  rw [overruns, stored, Bool.and_false]

theorem overruns_defective (k : LinkState) : k.overruns .defective = false := Bool.and_false _

/-! ### What follows the storing of a byte -/

theorem afterStore_first (hr : k.recv = .length) (h : k.stored.length < 2) : k.afterStore cfg = k := by
  rw [afterStore, hr]
  exact if_pos h

theorem afterStore_length (hr : k.recv = .length) (h : 2 ≤ k.stored.length) (low : 5 ≤ bodyLength k.stored)
    (high : bodyLength k.stored ≤ 320) : k.afterStore cfg = { k with recv := .body } := by
  rw [afterStore, hr]
  exact (if_neg (Nat.not_lt.2 h)).trans (if_pos ⟨low, high⟩)

theorem afterStore_badLength (hr : k.recv = .length) (h : 2 ≤ k.stored.length)
    (bad : bodyLength k.stored < 5 ∨ 320 < bodyLength k.stored) : k.afterStore cfg = k.discard cfg := by
  rw [afterStore, hr]
  exact (if_neg (Nat.not_lt.2 h)).trans (if_neg (by omega))

theorem afterStore_body (hr : k.recv = .body) (h : k.stored.length < 2 + bodyLength k.stored) :
    k.afterStore cfg = k := by
  rw [afterStore, hr]
  exact if_pos h

theorem afterStore_bodyEnds (hr : k.recv = .body) (h : 2 + bodyLength k.stored ≤ k.stored.length) :
    k.afterStore cfg = { k with recv := .check } := by
  rw [afterStore, hr]
  exact if_neg (Nat.not_lt.2 h)

theorem afterStore_check (hr : k.recv = .check) (h : k.stored.length < 4 + bodyLength k.stored) :
    k.afterStore cfg = k := by
  rw [afterStore, hr]
  exact if_pos h

theorem afterStore_agrees (hr : k.recv = .check) (h : 4 + bodyLength k.stored ≤ k.stored.length)
    (agree : crc (k.stored.take (2 + bodyLength k.stored)) =
      BitVec.ofNat 16 (natAt k.stored (2 + bodyLength k.stored) 2)) :
    k.afterStore cfg = { k.clearFrame with
      waiting := k.waiting ++ [slice k.stored 2 (bodyLength k.stored)]
      counters := { k.counters with good := satInc k.counters.good } } := by
  rw [afterStore, hr]
  exact (if_neg (Nat.not_lt.2 h)).trans (if_pos agree)

theorem afterStore_differs (hr : k.recv = .check) (h : 4 + bodyLength k.stored ≤ k.stored.length)
    (differ : crc (k.stored.take (2 + bodyLength k.stored)) ≠
      BitVec.ofNat 16 (natAt k.stored (2 + bodyLength k.stored) 2)) : k.afterStore cfg = k.discard cfg := by
  rw [afterStore, hr]
  exact (if_neg (Nat.not_lt.2 h)).trans (if_neg differ)

/-- After the storing the frame goes on, or waits complete, or is discarded. -/
theorem afterStore_cases (cfg : LinkSettings) (frame : k.recv ≠ .hunt) :
    (∃ recv, recv ≠ .hunt ∧ k.afterStore cfg = { k with recv := recv }) ∨
      (∃ body, k.afterStore cfg = { k.clearFrame with
        waiting := k.waiting ++ [body], counters := { k.counters with good := satInc k.counters.good } }) ∨
      k.afterStore cfg = k.discard cfg := by
  cases hr : k.recv with
  | hunt => exact absurd hr frame
  | length =>
    by_cases short : k.stored.length < 2
    · exact .inl ⟨k.recv, frame, afterStore_first hr short⟩
    · by_cases good : 5 ≤ bodyLength k.stored ∧ bodyLength k.stored ≤ 320
      · exact .inl ⟨.body, nofun, afterStore_length hr (by omega) good.1 good.2⟩
      · exact .inr (.inr (afterStore_badLength hr (by omega) (by omega)))
  | body =>
    by_cases short : k.stored.length < 2 + bodyLength k.stored
    · exact .inl ⟨k.recv, frame, afterStore_body hr short⟩
    · exact .inl ⟨.check, nofun, afterStore_bodyEnds hr (by omega)⟩
  | check =>
    by_cases short : k.stored.length < 4 + bodyLength k.stored
    · exact .inl ⟨k.recv, frame, afterStore_check hr short⟩
    · by_cases agree : crc (k.stored.take (2 + bodyLength k.stored)) =
          BitVec.ofNat 16 (natAt k.stored (2 + bodyLength k.stored) 2)
      · exact .inr (.inl ⟨_, afterStore_agrees hr (by omega) agree⟩)
      · exact .inr (.inr (afterStore_differs hr (by omega) agree))

theorem extended_eq (cfg : LinkSettings) (b : Byte) (k : LinkState) : k.extended cfg b =
    { k with stored := k.stored ++ [b], escape := false, holdOut := (k.extended cfg b).holdOut
             tx := (k.extended cfg b).tx, ctrl := (k.extended cfg b).ctrl } := by
  rw [extended, holdCheck_eq]

theorem bodyLength_append {bytes : List Byte} (h : 2 ≤ bytes.length) (b : Byte) :
    bodyLength (bytes ++ [b]) = natOf (bytes.take 2) := by
  rw [bodyLength, natAt, List.drop_zero, List.take_append_of_le_length h]

end

end LinkState

/-! ### The row -/

section
variable {s t : State} {l : LinkId} {x : RxByte}

/-- The change of a link is what it does to that link. -/
theorem modLink_congr {f g : LinkState → LinkState} (h : f (s.link l) = g (s.link l)) :
    s.modLink l f = s.modLink l g := by
  have links : s.links.modify l f = s.links.modify l g := congrArg (s.links.set l) h
  exact congrArg (fun links => { s with links := links }) links

theorem exec_linkByteReceived {f : LinkState → LinkState} (quiet : (s.link l).overruns x = false)
    (h : LinkState.receive (s.linkCfg l) x (s.link l) = f (s.link l)) :
    exec (.linkByteReceived l x) s = .next (s.modLink l f) :=
  congrArg Host.Outcome.next ((if_neg (Bool.eq_false_iff.1 quiet)).trans (modLink_congr h))

theorem exec_linkByteReceived_keeps (quiet : (s.link l).overruns x = false)
    (h : LinkState.receive (s.linkCfg l) x (s.link l) = s.link l) : exec (.linkByteReceived l x) s = .next s :=
  congrArg Host.Outcome.next ((if_neg (Bool.eq_false_iff.1 quiet)).trans (modLink_of_keeps h))

theorem raiseFault_store (f : FaultFlag) (u : State) : (u.raiseFault f).store = { u.store with
    faults := u.store.faults ||| f.bit
    alert := decide ((u.store.faults ||| f.bit) &&& u.settings.alertMask ≠ 0) } :=
  congrArg (fun level => { u.store with faults := u.store.faults ||| f.bit, alert := level }) (alertLevel_eq _ _)

theorem linkByteReceived_quiet (h : exec (.linkByteReceived l x) s = .next t)
    (quiet : (s.link l).overruns x = false) :
    t.link l = LinkState.receive (s.linkCfg l) x (s.link l) ∧ t.store = s.store := by
  obtain rfl := Host.Outcome.next.inj h
  rw [if_neg (Bool.eq_false_iff.1 quiet)]
  exact ⟨State.modLink_link_self .., rfl⟩

theorem linkByteReceived_overruns (h : exec (.linkByteReceived l x) s = .next t)
    (full : (s.link l).overruns x = true) :
    t.link l = LinkState.receive (s.linkCfg l) x (s.link l) ∧ t.store = { s.store with
      faults := s.store.faults ||| 16
      alert := decide ((s.store.faults ||| 16) &&& s.settings.alertMask ≠ 0) } := by
  obtain rfl := Host.Outcome.next.inj h
  rw [if_pos full]
  exact ⟨State.modLink_link_self .., raiseFault_store _ _⟩

end

open LinkState in
/-- Settles O48: off, hunting, and within a frame byte by byte. -/
theorem arrivingBytesAreDeframed : Obligations.ArrivingBytesAreDeframed := by
  rintro s l k rfl
  intro within discarded stores special
  have discards {t : State} {x : RxByte} (h : within x t) (quiet : (s.link l).overruns x = false)
      (e : LinkState.receive (s.linkCfg l) x (s.link l) = (s.link l).discard (s.linkCfg l)) : discarded t .hunt := by
    obtain ⟨_, _, row⟩ := h
    obtain ⟨link, store⟩ := linkByteReceived_quiet row quiet
    rw [e, discard_eq, removed, goCheck_eq] at link
    show (t.link l).recv = _ ∧ (t.link l).stored = _ ∧ (t.link l).escape = _ ∧ (t.link l).waiting = _ ∧
      (t.link l).counters = _ ∧ _
    rw [link]
    exact ⟨rfl, rfl, rfl, rfl, rfl, store⟩
  have plainByte {b : Byte} (plain : (s.link l).escape = false) (sp : b ∈ special) (v : Byte) :
      ¬ (s.link l).Carries b v := by
    rintro (⟨_, ordinary, _⟩ | ⟨escaped, _⟩)
    · exact ordinary sp
    · rw [plain] at escaped
      cases escaped
  have stored {t : State} {b v : Byte} (hv : (s.link l).Carries b v) (h : within (.good b) t)
      (fits : (s.link l).occupancy < 1024) :
      t.link l = ((s.link l).extended (s.linkCfg l) v).afterStore (s.linkCfg l) ∧ t.store = s.store := by
    obtain ⟨on, frame, row⟩ := h
    have quiet : (s.link l).overruns (.good b) = false := by
      rw [overruns_of_carries on frame hv, decide_eq_false (by omega)]
    obtain ⟨link, store⟩ := linkByteReceived_quiet row quiet
    rw [receive_good on frame, frameByte_stores hv, storeByte_fits fits] at link
    exact ⟨link, store⟩
  refine ⟨fun x off => ?_, fun on hunt => ⟨?_, fun b hb => ?_, ?_⟩, fun on frame plain => ?_, fun t h => ?_,
    fun t plain h => ?_, fun t plain h => ?_, fun t plain h => ?_, fun t b escaped hb h => ?_, fun t b v hv h => ?_⟩
  · refine exec_linkByteReceived_keeps ?_ (if_neg (Bool.eq_false_iff.1 off))
    simp only [overruns, off, Bool.false_and]
  · refine exec_linkByteReceived (by simp [overruns, hunt]) ?_
    simp [LinkState.receive, on, hunt]
  · refine exec_linkByteReceived_keeps (by simp [overruns, hunt]) ?_
    rw [receive_hunting on hunt]
    exact if_neg fun start => hb (beq_iff_eq.1 start)
  · refine exec_linkByteReceived_keeps (overruns_defective _) ?_
    simp [LinkState.receive, on, hunt]
  · refine exec_linkByteReceived (overruns_of_not_carried (plainByte plain (by decide))) ?_
    rw [receive_good on frame]
    exact frameByte_escape plain
  · exact discards h (overruns_defective _) (receive_defective h.1 h.2.1)
  · exact discards h (overruns_of_not_carried (plainByte plain (by decide)))
      ((receive_good h.1 h.2.1 _).trans (frameByte_go plain))
  · exact discards h (overruns_of_not_carried (plainByte plain (by decide)))
      ((receive_good h.1 h.2.1 _).trans (frameByte_hold plain))
  · obtain ⟨on, frame, row⟩ := h
    obtain ⟨link, store⟩ := linkByteReceived_quiet row (overruns_of_not_carried (plainByte plain (by decide)))
    rw [receive_good on frame, frameByte_start plain, discard_eq, removed, goCheck_eq] at link
    show (t.link l).recv = _ ∧ (t.link l).stored = _ ∧ (t.link l).escape = _ ∧ (t.link l).waiting = _ ∧
      (t.link l).counters = _ ∧ _
    rw [link]
    exact ⟨rfl, rfl, rfl, rfl, rfl, store⟩
  · refine discards h (overruns_of_not_carried fun v carried => ?_)
      ((receive_good h.1 h.2.1 _).trans (frameByte_unescaped escaped hb))
    rcases carried with ⟨plain, _⟩ | ⟨_, sp, rfl⟩
    · rw [escaped] at plain
      cases plain
    · exact hb sp
  · have stored := stored hv h
    have kept := extended_eq (s.linkCfg l) v (s.link l)
    generalize hq : (s.link l).extended (s.linkCfg l) v = q at kept stored
    have goesOn {t : State} {recv : RecvState} (link : t.link l = { q with recv := recv } ∧ t.store = s.store) :
        stores t recv v := by
      obtain ⟨link, store⟩ := link
      show (t.link l).recv = _ ∧ (t.link l).stored = _ ∧ (t.link l).escape = _ ∧ (t.link l).waiting = _ ∧
        (t.link l).counters = _ ∧ _
      rw [link, kept]
      exact ⟨rfl, rfl, rfl, rfl, rfl, store⟩
    have ends {t : State} (link : t.link l = q.discard (s.linkCfg l) ∧ t.store = s.store) : discarded t .hunt := by
      obtain ⟨link, store⟩ := link
      show (t.link l).recv = _ ∧ (t.link l).stored = _ ∧ (t.link l).escape = _ ∧ (t.link l).waiting = _ ∧
        (t.link l).counters = _ ∧ _
      rw [link, discard_eq, removed, goCheck_eq, kept]
      exact ⟨rfl, rfl, rfl, rfl, rfl, store⟩
    have q_recv : q.recv = (s.link l).recv := by rw [kept]
    have q_stored : q.stored = (s.link l).stored ++ [v] := by rw [kept]
    have q_length : q.stored.length = (s.link l).stored.length + 1 := by rw [q_stored, List.length_append]; rfl
    have q_same : q = { q with recv := (s.link l).recv } := by rw [← q_recv]
    refine ⟨fun full => ?_, fun fits recv => ⟨fun first => ?_, fun h' second low high => ?_, fun h' second bad => ?_⟩,
      fun n fits recv two hn => ⟨fun more => ?_, fun last => ?_⟩, fun n fits recv two hn => ⟨fun more => ?_,
        fun last => ⟨fun agree => ?_, fun differ => ?_⟩⟩⟩
    · obtain ⟨on, frame, row⟩ := h
      obtain ⟨link, store⟩ := linkByteReceived_overruns row
        ((overruns_of_carries on frame hv).trans (decide_eq_true full))
      rw [receive_good on frame, frameByte_stores hv, storeByte_full full, overrun_eq, removed, goCheck_eq] at link
      rw [link]
      exact ⟨rfl, rfl, rfl, rfl, rfl, store⟩
    · have link := stored fits
      rw [afterStore_first (q_recv.trans recv) (by rw [q_length, first]; decide), q_same, recv] at link
      exact goesOn link
    · have link := stored fits
      have length : bodyLength q.stored = natOf [h', v] := by rw [q_stored, second]; rfl
      rw [afterStore_length (q_recv.trans recv) (by rw [q_length, second]; exact Nat.le_refl 2) (by omega) (by omega)] at link
      exact goesOn link
    · have link := stored fits
      have length : bodyLength q.stored = natOf [h', v] := by rw [q_stored, second]; rfl
      rw [afterStore_badLength (q_recv.trans recv) (by rw [q_length, second]; exact Nat.le_refl 2) (by omega)] at link
      exact ends link
    all_goals
      have link := stored fits
      have length : bodyLength q.stored = n := by rw [q_stored, bodyLength_append two, hn]
    · rw [afterStore_body (q_recv.trans recv) (by omega), q_same, recv] at link
      exact goesOn link
    · rw [afterStore_bodyEnds (q_recv.trans recv) (by omega)] at link
      exact goesOn link
    · rw [afterStore_check (q_recv.trans recv) (by omega), q_same, recv] at link
      exact goesOn link
    all_goals
      have covered : q.stored.take (2 + n) = (s.link l).stored.take (2 + n) := by
        rw [q_stored, List.take_append_of_le_length (by omega)]
      have check : natAt q.stored (2 + n) 2 = natOf (((s.link l).stored ++ [v]).drop (2 + n)) := by
        rw [natAt, q_stored, List.take_of_length_le]
        simp only [List.length_drop, List.length_append, List.length_singleton]
        omega
    · obtain ⟨link, store⟩ := link
      rw [afterStore_agrees (q_recv.trans recv) (by omega) (by rw [length, covered, check]; exact agree), length,
        slice, q_stored, List.drop_append_of_le_length two,
        List.take_append_of_le_length (by rw [List.length_drop]; omega), kept] at link
      rw [link]
      exact ⟨rfl, rfl, rfl, rfl, rfl, store⟩
    · rw [afterStore_differs (q_recv.trans recv) (by omega) (by rw [length, covered, check]; exact differ)] at link
      exact ends link

end Sys2Proof.Machine

/-! PROOFS. HOLD and GO follow the occupancy of the input buffer (R147 to R150). -/

namespace Sys2Proof.Machine

namespace LinkState

section
variable {k : LinkState} {cfg : LinkSettings}

theorem occupancy_stored (k : LinkState) (b : Byte) :
    occupancy { k with stored := k.stored ++ [b], escape := false } = k.occupancy + 1 := by
  simp only [occupancy, List.length_append, List.length_singleton, Nat.add_assoc]

theorem occupancy_cleared (c : LinkCounters) (k : LinkState) :
    occupancy { k.clearFrame with counters := c } = (k.waiting.map fun body => body.length + 4).sum := Nat.add_zero _

theorem goDue_iff : goDue cfg k = true ↔ k.holdOut = true ∧ k.occupancy ≤ cfg.resume := by
  rw [goDue, Bool.and_eq_true, decide_eq_true_iff]

/-- The take is the check for GO on what it leaves. -/
theorem take_eq (cfg : LinkSettings) {body : List Byte} {rest : List (List Byte)} (h : k.waiting = body :: rest) :
    k.take cfg = goCheck cfg { k with waiting := rest } := by
  rw [take, h]
  rfl

theorem take_occupancy (cfg : LinkSettings) {body : List Byte} {rest : List (List Byte)} (h : k.waiting = body :: rest) :
    (k.take cfg).occupancy + body.length + 4 = k.occupancy := by
  rw [take_eq cfg h, goCheck_eq]
  simp only [occupancy, h, List.map_cons, List.sum_cons]
  omega

/-- A byte is stored in the frame in progress (R146). -/
def storesByte (k : LinkState) (x : RxByte) : Bool :=
  decide (k.occupancy < 1024) && match x with
    | .defective => false
    | .good b => if k.escape then decide (b ^^^ 0x20 ∈ [(0xC5 : Byte), 0xC3, 0xC1, 0xCA])
        else decide (b ∉ [(0xC5 : Byte), 0xC3, 0xC1, 0xCA])

/-- What an arriving byte does to the frame in progress: it is stored, or marks an escape, or the frame is removed. -/
inductive Arrives (cfg : LinkSettings) (k : LinkState) : RxByte → LinkState → Prop where
  | stored {b v : Byte} (hs : k.storesByte (.good b) = true) (hv : k.Carries b v) :
      Arrives cfg k (.good b) ((k.extended cfg v).afterStore cfg)
  | escapes (hs : k.storesByte (.good 0xCA) = false) : Arrives cfg k (.good 0xCA) { k with escape := true }
  | removes {x : RxByte} (hs : k.storesByte x = false) (c : LinkCounters) : Arrives cfg k x (k.removed cfg c)
  | restarts (hs : k.storesByte (.good 0xC5) = false) (plain : k.escape = false) (c : LinkCounters) :
      Arrives cfg k (.good 0xC5) { k.removed cfg c with recv := .length }

theorem receive_arrives (cfg : LinkSettings) (on : k.on = true) (frame : k.recv ≠ .hunt) (x : RxByte) :
    Arrives cfg k x (receive cfg x k) := by
  cases x with
  | defective =>
    rw [receive_defective on frame, discard_eq]
    have none : k.storesByte .defective = false := Bool.and_false _
    exact .removes none _
  | good b =>
    rw [receive_good on frame]
    have stores {v : Byte} (hv : k.Carries b v)
        (h : (if k.escape then decide (b ^^^ 0x20 ∈ [(0xC5 : Byte), 0xC3, 0xC1, 0xCA])
          else decide (b ∉ [(0xC5 : Byte), 0xC3, 0xC1, 0xCA])) = true) : Arrives cfg k (.good b) (k.frameByte cfg b) := by
      rw [frameByte_stores hv]
      by_cases fits : k.occupancy < 1024
      · rw [storeByte_fits fits]
        exact .stored (by rw [storesByte, decide_eq_true fits, h]; rfl) hv
      · rw [storeByte_full (by omega), overrun_eq]
        exact .removes (by rw [storesByte, decide_eq_false fits, Bool.false_and]) _
    cases escaped : k.escape with
    | true =>
      by_cases sp : b ^^^ 0x20 ∈ [(0xC5 : Byte), 0xC3, 0xC1, 0xCA]
      · exact stores (.inr ⟨escaped, sp, rfl⟩) (by rw [escaped, if_pos rfl]; exact decide_eq_true sp)
      · rw [frameByte_unescaped escaped sp, discard_eq]
        refine .removes ?_ _
        simp only [storesByte, escaped, if_true, decide_eq_false sp, Bool.and_false]
    | false =>
      by_cases sp : b ∈ [(0xC5 : Byte), 0xC3, 0xC1, 0xCA]
      · have none : k.storesByte (.good b) = false := by
          simp only [storesByte, escaped, Bool.false_eq_true, if_false, sp, not_true_eq_false, decide_false, Bool.and_false]
        simp only [List.mem_cons, List.not_mem_nil, or_false] at sp
        rcases sp with rfl | rfl | rfl | rfl
        · rw [frameByte_start escaped, discard_eq]
          exact .restarts none escaped _
        · rw [frameByte_hold escaped, discard_eq]
          exact .removes none _
        · rw [frameByte_go escaped, discard_eq]
          exact .removes none _
        · rw [frameByte_escape escaped]
          exact .escapes none
      · exact stores (.inl ⟨escaped, sp, rfl⟩)
          (by rw [escaped, if_neg Bool.false_ne_true]; exact decide_eq_true sp)

/-! ### HOLD and GO as a byte arrives -/

/-- HOLD becomes due as a byte arrives. -/
def holdAt (cfg : LinkSettings) (k : LinkState) (x : RxByte) : Bool :=
  k.storesByte x && !k.holdOut && decide (cfg.pause ≤ k.occupancy + 1)

/-- The frame in progress has been removed, and not as a complete one. -/
def frameLost (k : LinkState) (x : RxByte) (u : LinkState) : Bool :=
  decide (u.waiting = k.waiting) && (decide (u.recv = .hunt) || !k.escape && decide (x = .good 0xC5))

/-- GO becomes due as a byte arrives. -/
def goAt (cfg : LinkSettings) (k : LinkState) (x : RxByte) (u : LinkState) : Bool :=
  k.frameLost x u && (k.holdOut || k.holdAt cfg x) &&
    decide ((k.waiting.map fun body => body.length + 4).sum ≤ cfg.resume)

theorem goAt_of_kept {x : RxByte} {u : LinkState} (h : k.frameLost x u = false) : k.goAt cfg x u = false := by
  rw [goAt, h]
  rfl

theorem goAt_of_lost {x : RxByte} {u : LinkState} (h : k.frameLost x u = true) (c : LinkCounters) {q : LinkState}
    (hold : q.holdOut = (k.holdOut || k.holdAt cfg x)) (same : q.waiting = k.waiting) :
    k.goAt cfg x u = goDue cfg { q.clearFrame with counters := c } := by
  rw [goAt, h, goDue, occupancy_cleared, same]
  show (true && _ && _) = (q.holdOut && _)
  rw [hold, Bool.true_and]

theorem holdAt_none {x : RxByte} (h : k.storesByte x = false) : k.holdAt cfg x = false := by
  rw [holdAt, h]
  rfl

theorem holdAt_stored {x : RxByte} (h : k.storesByte x = true) (v : Byte) :
    k.holdAt cfg x = holdDue cfg { k with stored := k.stored ++ [v], escape := false } := by
  rw [holdAt, h, holdDue, occupancy_stored, Bool.true_and]

/-- A frame removed without a byte stored. -/
theorem removed_flow {x : RxByte} {u : LinkState} (hs : k.storesByte x = false) (lost : k.frameLost x u = true)
    (c : LinkCounters) (hold : u.holdOut = (k.removed cfg c).holdOut) (tx : u.tx = (k.removed cfg c).tx)
    (ctrl : u.ctrl = (k.removed cfg c).ctrl) :
    u.holdOut = ((k.holdOut || k.holdAt cfg x) && !k.goAt cfg x u) ∧
      k.Sends u ((if k.holdAt cfg x then [0xC3] else []) ++ if k.goAt cfg x u then [0xC1] else []) := by
  have none := holdAt_none (cfg := cfg) hs
  rw [goAt_of_lost lost c (q := k) (by rw [none, Bool.or_false]) rfl, none, Bool.or_false, hold, removed]
  refine ⟨by rw [goCheck_eq]; rfl, ?_⟩
  exact (goCheck_sends cfg { k.clearFrame with counters := c }).of_same rfl rfl rfl tx.symm ctrl.symm

theorem frameLost_of_carries {b v : Byte} (hv : k.Carries b v) {u : LinkState} (h : u.recv ≠ .hunt) :
    k.frameLost (.good b) u = false := by
  have start : (!k.escape && decide (RxByte.good b = .good 0xC5)) = false := by
    rcases hv with ⟨_, ordinary, _⟩ | ⟨escaped, _⟩
    · rw [decide_eq_false, Bool.and_false]
      rintro ⟨⟩
      exact ordinary (by decide)
    · rw [escaped]
      rfl
  rw [frameLost, start, decide_eq_false h]
  exact Bool.and_false _

/-- HOLD and GO as a byte arrives within a frame. -/
theorem Arrives.flow {x : RxByte} {u : LinkState} (h : Arrives cfg k x u) (frame : k.recv ≠ .hunt) :
    u.holdOut = ((k.holdOut || k.holdAt cfg x) && !k.goAt cfg x u) ∧
      k.Sends u ((if k.holdAt cfg x then [0xC3] else []) ++ if k.goAt cfg x u then [0xC1] else []) := by
  cases h with
  | escapes hs =>
    have lost : k.frameLost (.good 0xCA) { k with escape := true } = false := by
      have other : (RxByte.good 0xCA = .good 0xC5) = False := by decide
      simp only [frameLost, other, frame, decide_false, Bool.and_false, Bool.or_false]
    rw [goAt_of_kept lost, holdAt_none hs, Bool.or_false, Bool.not_false, Bool.and_true]
    exact ⟨rfl, sends_nothing rfl rfl⟩
  | removes hs c =>
    have lost : k.frameLost x (k.removed cfg c) = true := by
      rw [frameLost, removed, goCheck_eq]
      simp [clearFrame]
    exact removed_flow hs lost c rfl rfl rfl
  | restarts hs plain c =>
    have lost : k.frameLost (.good 0xC5) { k.removed cfg c with recv := .length } = true := by
      rw [frameLost, removed, goCheck_eq]
      simp [clearFrame, plain]
    exact removed_flow hs lost c rfl rfl rfl
  | @stored b v hs hv =>
    have hold := holdAt_stored (cfg := cfg) hs v
    have kept := extended_eq cfg v k
    have holdOut : (k.extended cfg v).holdOut = (k.holdOut || k.holdAt cfg (.good b)) := by
      rw [hold, extended, holdCheck_eq]
    have sent : k.Sends (k.extended cfg v) (if k.holdAt cfg (.good b) then [0xC3] else []) := by
      rw [hold]
      exact (holdCheck_sends cfg { k with stored := k.stored ++ [v], escape := false }).of_same rfl rfl rfl rfl rfl
    generalize k.extended cfg v = q at kept holdOut sent
    have waiting : q.waiting = k.waiting := by rw [kept]
    have q_frame : q.recv ≠ .hunt := by rw [kept]; exact frame
    have keeps {u : LinkState} (lost : k.frameLost (.good b) u = false) (hold : u.holdOut = q.holdOut)
        (tx : u.tx = q.tx) (ctrl : u.ctrl = q.ctrl) :
        u.holdOut = ((k.holdOut || k.holdAt cfg (.good b)) && !k.goAt cfg (.good b) u) ∧
          k.Sends u ((if k.holdAt cfg (.good b) then [0xC3] else []) ++
            if k.goAt cfg (.good b) u then [0xC1] else []) := by
      rw [goAt_of_kept lost, Bool.not_false, Bool.and_true, if_neg Bool.false_ne_true, List.append_nil]
      exact ⟨hold.trans holdOut, sent.of_same rfl rfl rfl tx.symm ctrl.symm⟩
    rcases afterStore_cases cfg q_frame with ⟨recv, goesOn, e⟩ | ⟨body, e⟩ | e
    · rw [e]
      exact keeps (frameLost_of_carries hv goesOn) rfl rfl rfl
    · rw [e]
      refine keeps ?_ rfl rfl rfl
      have more : ¬ q.waiting ++ [body] = k.waiting := by
        rw [waiting]
        exact fun h => by simpa using congrArg List.length h
      rw [frameLost, decide_eq_false more, Bool.false_and]
    · obtain ⟨c, hc⟩ : ∃ c, q.discard cfg = q.removed cfg c := ⟨_, discard_eq cfg q⟩
      have lost : k.frameLost (.good b) (q.removed cfg c) = true := by
        rw [frameLost, removed, goCheck_eq]
        simp [clearFrame, waiting]
      rw [e, hc, goAt_of_lost lost c holdOut waiting, ← holdOut]
      refine ⟨by rw [removed, goCheck_eq]; rfl, ?_⟩
      have next := goCheck_sends cfg { q.clearFrame with counters := c }
      have due : q.changeDue = k.changeDue := by rw [kept]; rfl
      have after : q.Sends (q.removed cfg c) (if goDue cfg { q.clearFrame with counters := c } then [0xC1] else []) :=
        next.of_same rfl rfl rfl rfl rfl
      exact sent.append after due

end

end LinkState

open LinkState in
/-- Settles O49: a byte stored in the body, the take, and every byte within a frame. -/
theorem holdAndGoFollowTheOccupancy : Obligations.HoldAndGoFollowTheOccupancy := by
  refine ⟨?_, fun cfg k body rest h => ?_, ?_⟩
  · rintro s l b k rfl on recv plain ordinary fits more two
    have carried : (s.link l).Carries b b := .inl ⟨plain, ordinary, rfl⟩
    have frame : (s.link l).recv ≠ .hunt := by rw [recv]; nofun
    have quiet : (s.link l).overruns (.good b) = false := by
      rw [overruns_of_carries on frame carried, decide_eq_false (by omega)]
    have received : receive (s.linkCfg l) (.good b) (s.link l) =
        ((s.link l).extended (s.linkCfg l) b) := by
      have kept := extended_eq (s.linkCfg l) b (s.link l)
      rw [receive_good on frame, frameByte_stores carried, storeByte_fits fits]
      refine afterStore_body (by rw [kept]; exact recv) ?_
      have stored : ((s.link l).extended (s.linkCfg l) b).stored = (s.link l).stored ++ [b] := by rw [kept]
      rw [stored, bodyLength_append two, List.length_append]
      exact more
    have same : { s.link l with stored := (s.link l).stored ++ [b], escape := false } =
        { s.link l with stored := (s.link l).stored ++ [b] } := by rw [← plain]
    refine ⟨fun low => ?_, fun none high busy => ?_⟩
    · refine exec_linkByteReceived quiet (received.trans ?_)
      rw [extended, same]
      refine if_neg ?_
      rw [← same, occupancy_stored]
      rcases low with hold | low
      · simp [hold]
      · simp [low]
    · refine exec_linkByteReceived quiet (received.trans ?_)
      have due : (!(s.link l).holdOut && decide ((s.linkCfg l).pause ≤
          occupancy { s.link l with stored := (s.link l).stored ++ [b], escape := false })) = true := by
        rw [occupancy_stored, none, decide_eq_true high]
        rfl
      refine (if_pos due).trans ?_
      rw [sendCtrl, nextByte_busy (by exact busy), ← plain]
      rfl
  · have e := take_eq cfg h
    have kept := goCheck_eq cfg { k with waiting := rest }
    have same : (k.take cfg).occupancy = occupancy { k with waiting := rest } := by rw [e, kept]; rfl
    refine ⟨by rw [e, kept], take_occupancy cfg h, by rw [e, kept], by rw [e, kept], by rw [e, kept],
      fun hold low => ?_, fun stays => ?_⟩
    · have due : goDue cfg { k with waiting := rest } = true := goDue_iff.2 ⟨hold, by rw [← same]; exact low⟩
      have sent := goCheck_sends cfg { k with waiting := rest }
      rw [due, if_pos rfl] at sent
      rw [e]
      refine ⟨?_, sent⟩
      rw [kept, due]
      exact Bool.and_false _
    · rw [e]
      refine if_neg fun due => ?_
      obtain ⟨hold, low⟩ := goDue_iff.1 due
      rcases stays with none | high
      · rw [show k.holdOut = true from hold] at none
        cases none
      · rw [← same] at low
        omega
  · rintro s t l x k rfl on frame row
    intro special stored hold removed go
    have link : t.link l = receive (s.linkCfg l) x (s.link l) := by
      cases full : (s.link l).overruns x with
      | true => exact (linkByteReceived_overruns row full).1
      | false => exact (linkByteReceived_quiet row full).1
    have arrives := receive_arrives (s.linkCfg l) on frame x
    rw [← link] at arrives
    exact arrives.flow frame

end Sys2Proof.Machine

/-! PROOFS. The bit period, and REF and EPOCH by the timing mode (R11, R15, R19, R21, R22, R24). -/

namespace Sys2Proof.Machine

theorem followMonitor_source (s : State) : (followMonitor s).monitor.source = s.monitor.source := by
  unfold followMonitor
  cases hs : s.monitor.source with
  | none => exact hs
  | some p => exact hs

theorem stepBit_epout (t : Timebase) : (t.epoutEnds ≤ 1 → t.stepBit.epout = false) ∧
    (2 ≤ t.epoutEnds → t.stepBit.epout = t.epout) := by
  refine ⟨fun h => ?_, fun h => ?_⟩
  · rw [Timebase.stepBit, decide_eq_false (by omega), Bool.and_false]
  · rw [Timebase.stepBit, decide_eq_true (by omega), Bool.and_true]

theorem beginBit_dout (i : Nat) (a : Assembler) : (a.beginBit i).dout = (match a.cell with
    | none => false
    | some c => c.bits.getMsbD i) := by
  unfold Assembler.beginBit
  cases a.cell <;> rfl

/-- Settles O52: the end of a bit period, the same out of its time, and the middle. -/
theorem pinsThroughABitPeriod : Obligations.PinsThroughABitPeriod := by
  refine fun s => ⟨fun running inside => ?_, fun outside => ?_, fun idle => ?_⟩
  · obtain ⟨ends, stands⟩ := stepBit_epout s.tb
    refine ⟨beginBits (s.tb.bitPos + 1) (s.modTb Timebase.stepBit),
      congrArg Host.Outcome.next (if_pos ⟨running, inside⟩), rfl, ends, stands, followMonitor_source _,
      followMonitor_follows _, fun p => ?_⟩
    rw [beginBits_lane]
    exact ⟨rfl, beginBit_dout _ _⟩
  · refine congrArg Host.Outcome.next (if_neg ?_)
    rintro ⟨running, inside⟩
    exact outside.elim (· running) (Nat.not_le.2 inside)
  · refine ⟨middle s, by rw [step, idle], rfl, followMonitor_source _, followMonitor_follows _, fun p => ?_⟩
    rw [middle_lane]
    rfl

/-! ### REF and EPOCH -/

theorem listens_iff (s : State) : listens s = true ↔ s.settings.mode = .slave ∧ s.tb.start = .running := by
  rw [listens, Bool.and_eq_true, beq_iff_eq, beq_iff_eq]

theorem deaf_of {s : State} (h : s.settings.mode = .master ∨ s.tb.start ≠ .running) : ¬ listens s = true := by
  rw [listens_iff]
  rintro ⟨slave, running⟩
  rcases h with master | waits
  · rw [slave] at master
    cases master
  · exact waits running

theorem inTolerance_iff (period : Nat) : inTolerance period = true ↔
    10 ^ 15 ≤ 19038 * period ∧ 18962 * period ≤ 10 ^ 15 := by
  rw [inTolerance, Bool.and_eq_true, decide_eq_true_iff, decide_eq_true_iff, secondFs]

/-- A reference that is lost takes a LOCKED timebase into HOLDOVER and sets REF_LOST. -/
theorem loseReference_locked {s : State} (h : s.tb.lock = .locked) : loseReference s =
    { s with
      tb := s.tb.enterHoldover
      store := { s.store with
        faults := s.store.faults ||| 2
        alert := decide ((s.store.faults ||| 2) &&& s.settings.alertMask ≠ 0) } } := by
  have store := raiseFault_store .refLost (s.modTb Timebase.enterHoldover)
  have raised : (s.modTb Timebase.enterHoldover).raiseFault .refLost =
      { s with tb := s.tb.enterHoldover, store := ((s.modTb Timebase.enterHoldover).raiseFault .refLost).store } := rfl
  rw [loseReference, if_pos h, raised, store]
  rfl

theorem loseReference_else {s : State} (h : s.tb.lock ≠ .locked) : loseReference s = s := if_neg h

section
variable {s : State} (hears : listens s = true)
include hears

theorem exec_refEdge_good {period : Nat} (h : s.tb.edgeGood period = true) :
    exec (.refEdge period) s = .next (s.modTb (Timebase.noteEdge period)) :=
  congrArg Host.Outcome.next ((if_pos hears).trans (if_pos h))

theorem exec_refEdge_bad {period : Nat} (h : s.tb.edgeGood period = false) :
    exec (.refEdge period) s = .next (loseReference (s.modTb (Timebase.noteEdge period))) :=
  congrArg Host.Outcome.next ((if_pos hears).trans (if_neg (Bool.eq_false_iff.1 h)))

theorem exec_refGap_seen (h : s.tb.refWatch = .edgeSeen) :
    exec .refGap s = .next (loseReference (s.modTb Timebase.noteGap)) :=
  congrArg Host.Outcome.next (if_pos ⟨hears, h⟩)

end

/-- Settles O41: deaf, or by what the reference watch has seen. -/
theorem refAndEpochAreTakenByMode : Obligations.RefAndEpochAreTakenByMode := by
  refine ⟨fun s period h => ?_, fun s period slave running => ?_⟩
  · have deaf := deaf_of h
    exact ⟨congrArg Host.Outcome.next (if_neg deaf), congrArg Host.Outcome.next (if_neg fun h => deaf h.1),
      congrArg Host.Outcome.next (if_neg deaf)⟩
  · intro lost measured
    have hears : listens s = true := (listens_iff s).2 ⟨slave, running⟩
    refine ⟨fun first => ?_, fun seen low high => ?_, fun bad => ?_, fun seen => ?_, fun unseen => ?_⟩
    · rw [exec_refEdge_good hears (by rw [Timebase.edgeGood, first])]
      exact congrArg (fun tb => Host.Outcome.next { s with tb := tb }) (if_pos first)
    · have good : s.tb.edgeGood period = true := by
        rw [Timebase.edgeGood, seen]
        exact (inTolerance_iff period).2 ⟨low, high⟩
      rw [exec_refEdge_good hears good]
      have notFirst : ¬ s.tb.refWatch = .noEdge := by rw [seen]; nofun
      refine congrArg (fun tb => Host.Outcome.next { s with tb := tb }) ((if_neg notFirst).trans ?_)
      rw [good, Bool.not_true, Bool.or_false]
    · have notGood : s.tb.edgeGood period = false := by
        rcases bad with ⟨seen, out⟩ | gap
        · rw [Timebase.edgeGood, seen]
          refine Bool.eq_false_iff.2 fun good => ?_
          have := (inTolerance_iff period).1 good
          omega
        · rw [Timebase.edgeGood, gap]
      have notFirst : s.tb.refWatch ≠ .noEdge := by
        rcases bad with ⟨seen, _⟩ | gap
        · rw [seen]; nofun
        · rw [gap]; nofun
      have noted : s.modTb (Timebase.noteEdge period) = { s with tb := { measured with refBad := true } } := by
        refine congrArg (fun tb => { s with tb := tb }) ((if_neg notFirst).trans ?_)
        rw [notGood, Bool.not_false, Bool.or_true]
      rw [exec_refEdge_bad hears notGood, noted]
      exact ⟨fun locked => congrArg Host.Outcome.next (loseReference_locked locked),
        fun other => congrArg Host.Outcome.next (loseReference_else other)⟩
    · rw [exec_refGap_seen hears seen]
      exact ⟨fun locked => congrArg Host.Outcome.next (loseReference_locked locked),
        fun other => congrArg Host.Outcome.next (loseReference_else other)⟩
    · exact congrArg Host.Outcome.next (if_neg fun h => unseen h.2)

end Sys2Proof.Machine

/-! PROOFS. Cue lines between boundaries: samples, acceptances, entries, retriggers and releases (R93, R121 to R127). -/

namespace Sys2Proof.Machine

/-! ### Requests of a line -/

theorem renumber_cues (s : State) : (renumber s).cues = s.cues := by
  unfold renumber
  split <;> rfl

theorem enterTable_cues (n : Newcomer) (s : State) : (enterTable n s).cues = s.cues := renumber_cues s

theorem admitClaim_cues (n : Newcomer) (count : Count) (s : State) : (admitClaim n count s).2.cues = s.cues := by
  unfold admitClaim
  split
  · rfl
  · split
    · exact enterTable_cues n s
    · split
      · rfl
      · split
        · exact enterTable_cues n _
        · rfl

theorem cueEntry_cues (c : LineId) (count : Count) (s : State) : (cueEntry c count s).2.cues = s.cues := by
  unfold cueEntry
  simp only
  split
  · rfl
  · exact admitClaim_cues ..

/-- What a line asks to be admitted: the claim of its template (R93). -/
def cueNewcomer (c : LineId) (s : State) : Newcomer :=
  { key := ⟨.cue c, 0⟩, kind := cueKind (s.cueCfg c).mode, cls := (s.cueCfg c).cls, priority := (s.cueCfg c).priority
    group := (s.cueCfg c).group, target := (s.cueCfg c).target, holdLimit := (s.cueCfg c).holdLimit
    waitLimit := (s.cueCfg c).waitLimit }

section
variable {c : LineId} {count : Count} {s : State}

theorem cueEntry_noTarget (h : (s.cueCfg c).target = 0) : cueEntry c count s = (.noTarget, s) := if_pos h

theorem cueEntry_target (h : (s.cueCfg c).target ≠ 0) :
    cueEntry c count s = admitClaim (cueNewcomer c s) count s := if_neg h

/-- An admission has been refused. -/
def Admission.refused : Admission → Bool
  | .admitted _ _ => false
  | .duplicate => true
  | .tableFull => true
  | .noTarget => true

theorem entryRequest_admitted {u : State} {stamp : Counter} {displaced : Option ClaimKey}
    (h : cueEntry c count s = (.admitted stamp displaced, u)) :
    entryRequest c count s = u.modCue c fun k => { countAdmitted k with pending := false } := by
  rw [entryRequest, h]

theorem entryRequest_refused {u : State} {a : Admission} (h : cueEntry c count s = (a, u)) (refused : a.refused = true) :
    entryRequest c count s =
      u.modCue c fun k => { countFailure k with pending := (s.cueCfg c).mode == .level } := by
  rw [entryRequest, h]
  cases a with
  | admitted _ _ => cases refused
  | duplicate => rfl
  | tableFull => rfl
  | noTarget => rfl

theorem retryRequest_admitted {u : State} {stamp : Counter} {displaced : Option ClaimKey}
    (h : cueEntry c count s = (.admitted stamp displaced, u)) :
    retryRequest c count s = u.modCue c fun k => { countAdmitted k with pending := false } := by
  rw [retryRequest, h]

theorem retryRequest_refused {u : State} {a : Admission} (h : cueEntry c count s = (a, u)) (refused : a.refused = true) :
    retryRequest c count s = u := by
  rw [retryRequest, h]
  cases a with
  | admitted _ _ => cases refused
  | duplicate => rfl
  | tableFull => rfl
  | noTarget => rfl

theorem retriggerRequest_held {d : Claim} (h : claimHeld s ⟨.cue c, 0⟩ = some d) :
    retriggerRequest c s = State.modCue c (fun k =>
        { k with counters := { k.counters with retriggers := satInc k.counters.retriggers } })
      { s with claims := { s.claims with
        table := s.claims.table.map fun e => if e.key = ⟨.cue c, 0⟩ then { e with holdUsed := 0 } else e } } := by
  rw [retriggerRequest, h]
  simp only [claimHeld_key h]

theorem retriggerRequest_free (h : claimHeld s ⟨.cue c, 0⟩ = none) :
    retriggerRequest c s = s.modCue c countFailure := by
  rw [retriggerRequest, h]

theorem finishRequest_held {d : Claim} (h : claimHeld s ⟨.cue c, 0⟩ = some d) :
    finishRequest c count s = endClaim d .released count (s.modCue c fun k => { k with pending := false }) := by
  have held : claimHeld (s.modCue c fun k => { k with pending := false }) ⟨.cue c, 0⟩ = some d := h
  unfold finishRequest
  simp only [held]

theorem finishRequest_free (h : claimHeld s ⟨.cue c, 0⟩ = none) :
    finishRequest c count s = s.modCue c fun k => { k with pending := false } := by
  have free : claimHeld (s.modCue c fun k => { k with pending := false }) ⟨.cue c, 0⟩ = none := h
  unfold finishRequest
  simp only [free]

end

/-! ### The sample -/

theorem sampledActive_eq (p : Polarity) (high : Bool) :
    sampledActive p high = (if p = .activeHigh then high else !high) := by
  cases p <;> rfl

theorem acceptChange_same {s : State} {c : LineId} {active coincident : Bool} {q : State}
    (hq : q = (flushDue c s).modCue c (acceptLevel active s.tb.count s.tb.bitPos)) :
    acceptChange c active coincident s = (match modeRequest c active q with
      | none => q
      | some r => if coincident then q.modCue c fun k => { k with due := some r, pending := k.pending && active }
          else cueRequest c r q.tb.count q) := by
  subst hq
  rfl

section
variable {s : State} {c : LineId} {high coincident : Bool}

theorem exec_cueSample_off (off : (s.cueCfg c).mode = .off) : exec (.cueSample c high coincident) s = .next s ∧
    exec (.cueChangeAccepted c high coincident) s = .next s := by
  have refuses : ¬ accepts c high s = true := by simp [accepts, off]
  exact ⟨congrArg Host.Outcome.next (if_pos off), congrArg Host.Outcome.next (if_neg refuses)⟩

theorem accepts_iff (on : (s.cueCfg c).mode ≠ .off) : accepts c high s = true ↔
    (if (s.cueCfg c).polarity = .activeHigh then high else !high) ≠ (s.cue c).active ∧
      (s.cueCfg c).debounce ≤ (s.cue c).debounce + 1 := by
  rw [accepts, ← sampledActive_eq]
  simp [on]

theorem exec_cueSample_refused (on : (s.cueCfg c).mode ≠ .off) (h : ¬ accepts c high s = true) :
    exec (.cueSample c high coincident) s = .next (s.modCue c (debounceStep
        ((if (s.cueCfg c).polarity = .activeHigh then high else !high) != (s.cue c).active))) ∧
      exec (.cueChangeAccepted c high coincident) s = .next s := by
  rw [← sampledActive_eq]
  exact ⟨congrArg Host.Outcome.next ((if_neg on).trans (if_neg h)), congrArg Host.Outcome.next (if_neg h)⟩

theorem exec_cueSample_accepted (on : (s.cueCfg c).mode ≠ .off) (h : accepts c high s = true) :
    exec (.cueSample c high coincident) s = .next (acceptChange c
        (if (s.cueCfg c).polarity = .activeHigh then high else !high) coincident s) ∧
      exec (.cueChangeAccepted c high coincident) s = .next (acceptChange c
        (if (s.cueCfg c).polarity = .activeHigh then high else !high) coincident s) := by
  rw [← sampledActive_eq]
  have sample : sampleLine c high coincident s = acceptChange c (sampledActive (s.cueCfg c).polarity high) coincident s :=
    (if_neg on).trans (if_pos h)
  exact ⟨congrArg Host.Outcome.next sample, congrArg Host.Outcome.next ((if_pos h).trans sample)⟩

theorem clearDue_same (c : LineId) (s : State) : SameOutside s (clearDue c s) :=
  modCue_same _ _ _ fun _ => ⟨rfl, rfl, rfl, rfl, rfl⟩

theorem flushDue_same (c : LineId) (s : State) : SameOutside s (flushDue c s) := by
  unfold flushDue
  split
  · exact .refl s
  next r _ => exact (clearDue_same c s).trans (cueRequest_same c r _ _)

/-- The state in which an accepted change asks what its mode makes it ask. -/
def afterAccepted (c : LineId) (active : Bool) (s : State) : State :=
  (flushDue c s).modCue c (acceptLevel active s.tb.count s.tb.bitPos)

/-- What follows the acceptance leaves the level and its record. -/
theorem acceptChange_sameOutside (c : LineId) (active coincident : Bool) (s : State) :
    SameOutside (afterAccepted c active s) (acceptChange c active coincident s) := by
  rw [acceptChange_same (q := afterAccepted c active s) rfl]
  split
  · exact .refl _
  · split
    · exact modCue_same _ _ _ fun _ => ⟨rfl, rfl, rfl, rfl, rfl⟩
    · exact cueRequest_same ..

end

/-- Settles O44: off, the sample refused, and the acceptance. -/
theorem cueLinesAreSampledAndDebounced : Obligations.CueLinesAreSampledAndDebounced := by
  intro s c high coincident differs hd
  have quiet (h : differs = false ∨ (s.cue c).debounce + 1 < (s.cueCfg c).debounce) (on : (s.cueCfg c).mode ≠ .off) :
      ¬ accepts c high s = true := by
    rw [accepts_iff on]
    rintro ⟨differ, reached⟩
    rcases h with same | below
    · rw [hd, bne_eq_false_iff_eq] at same
      exact differ same
    · omega
  refine ⟨exec_cueSample_off, fun on same => ?_, fun on differ below => ?_, fun on h =>
    (exec_cueSample_refused on (quiet h on)).2, fun on differ reached => ?_⟩
  · rw [(exec_cueSample_refused on (quiet (.inl same) on)).1, ← hd, same]
    refine congrArg (fun f => Host.Outcome.next (s.modCue c f)) (funext fun k => ?_)
    rw [debounceStep, if_neg Bool.false_ne_true, satIncIf]
    cases k.debounce <;> rfl
  · rw [(exec_cueSample_refused on (quiet (.inr below) on)).1, ← hd, differ]
    rfl
  · have different : (if (s.cueCfg c).polarity = .activeHigh then high else !high) ≠ (s.cue c).active := by
      rw [hd, bne_iff_ne] at differ
      exact differ
    have level : (if (s.cueCfg c).polarity = .activeHigh then high else !high) = !(s.cue c).active :=
      Bool.eq_not_of_ne different
    obtain ⟨sample, row⟩ := exec_cueSample_accepted (coincident := coincident) on ((accepts_iff on).2 ⟨different, reached⟩)
    rw [level] at sample row
    obtain ⟨active, debounce, capture, accepted, _⟩ :=
      (acceptChange_sameOutside c (!(s.cue c).active) coincident s).cue c
    have line : (afterAccepted c (!(s.cue c).active) s).cue c =
        acceptLevel (!(s.cue c).active) s.tb.count s.tb.bitPos ((flushDue c s).cue c) := State.modCue_cue_self ..
    rw [line] at active debounce capture accepted
    refine ⟨_, sample, row, active, debounce, capture, accepted.trans ?_⟩
    obtain ⟨_, _, _, before, _⟩ := (flushDue_same c s).cue c
    exact congrArg satInc before

end Sys2Proof.Machine

/-! PROOFS. The claims of LEVEL and PULSE lines between boundaries (R92, R93, R121 to R127). -/

namespace Sys2Proof.Machine

theorem cueKind_eq (m : CueMode) : cueKind m = if m = .pulse then .pulseCue else .levelCue := by
  cases m <;> rfl

/-! ### The entry of a line's claim -/

section
variable {c : LineId} {count : Count} {s : State}

/-- Without a target, or with its claim held, a line's entry fails and touches nothing. -/
theorem cueEntry_fails (h : (s.cueCfg c).target = 0 ∨ ∃ d, d ∈ s.claims.table ∧ d.key = ⟨.cue c, 0⟩) :
    ∃ a, cueEntry c count s = (a, s) ∧ a.refused = true := by
  by_cases target : (s.cueCfg c).target = 0
  · exact ⟨_, cueEntry_noTarget target, rfl⟩
  · rw [cueEntry_target target, admitClaim_duplicate (h.resolve_left target)]
    exact ⟨_, rfl, rfl⟩

section
variable (target : (s.cueCfg c).target ≠ 0) (free : ∀ d, d ∈ s.claims.table → d.key ≠ ⟨.cue c, 0⟩)
include target free

theorem cueEntry_enters (room : s.claims.table.length < 8) :
    cueEntry c count s = (.admitted (stampTaken s) none, enterTable (cueNewcomer c s) s) := by
  rw [cueEntry_target target]
  exact admitClaim_enters free room

theorem cueEntry_full (full : s.claims.table.length = 8)
    (above : ∀ d, d ∈ s.claims.table → d.currentNowhere = true → (s.cueCfg c).priority ≤ d.priority) :
    cueEntry c count s = (.tableFull, countFull s) := by
  rw [cueEntry_target target]
  exact admitClaim_full free full above

theorem cueEntry_displaces (full : s.claims.table.length = 8) {d : Claim} (hd : displaceable s = some d)
    (below : d.priority < (s.cueCfg c).priority) : cueEntry c count s =
      (.admitted (stampTaken (endClaim d .displaced count s)) (some d.key),
        enterTable (cueNewcomer c s) (endClaim d .displaced count s)) := by
  rw [cueEntry_target target]
  exact admitClaim_displaces free full hd below

end

/-! ### The acceptance of a change -/

theorem afterAccepted_eq {active : Bool} (h : (s.cue c).due = none) :
    afterAccepted c active s = s.modCue c (acceptLevel active s.tb.count s.tb.bitPos) := by
  rw [afterAccepted, flushDue, h]

section
variable {high active : Bool} (on : (s.cueCfg c).mode ≠ .off) (reached : (s.cueCfg c).debounce ≤ (s.cue c).debounce + 1)
  (level : (if (s.cueCfg c).polarity = .activeHigh then high else !high) = active) (differs : active ≠ (s.cue c).active)
include on reached level differs

theorem exec_accepted (coincident : Bool) :
    exec (.cueChangeAccepted c high coincident) s = .next (acceptChange c active coincident s) := by
  have accepted := (exec_cueSample_accepted (coincident := coincident) on
    ((accepts_iff (high := high) on).2 ⟨by rw [level]; exact differs, reached⟩)).2
  rwa [level] at accepted

theorem exec_accepted_asks {r : CueRequest} (due : (s.cue c).due = none) (asks : modeRequest c active s = some r) :
    exec (.cueChangeAccepted c high false) s = .next
      (cueRequest c r s.tb.count (s.modCue c (acceptLevel active s.tb.count s.tb.bitPos))) := by
  have asks' : modeRequest c active (s.modCue c (acceptLevel active s.tb.count s.tb.bitPos)) = some r := asks
  rw [exec_accepted on reached level differs, acceptChange_same (q := afterAccepted c active s) rfl,
    afterAccepted_eq due, asks']
  rfl

theorem exec_accepted_waits {r : CueRequest} (due : (s.cue c).due = none) (asks : modeRequest c active s = some r) :
    exec (.cueChangeAccepted c high true) s = .next
      ((s.modCue c (acceptLevel active s.tb.count s.tb.bitPos)).modCue c fun k =>
        { k with due := some r, pending := k.pending && active }) := by
  have asks' : modeRequest c active (s.modCue c (acceptLevel active s.tb.count s.tb.bitPos)) = some r := asks
  rw [exec_accepted on reached level differs, acceptChange_same (q := afterAccepted c active s) rfl,
    afterAccepted_eq due, asks']
  rfl

theorem exec_accepted_silent (coincident : Bool) (due : (s.cue c).due = none) (asks : modeRequest c active s = none) :
    exec (.cueChangeAccepted c high coincident) s = .next
      (s.modCue c (acceptLevel active s.tb.count s.tb.bitPos)) := by
  have asks' : modeRequest c active (s.modCue c (acceptLevel active s.tb.count s.tb.bitPos)) = none := asks
  rw [exec_accepted on reached level differs, acceptChange_same (q := afterAccepted c active s) rfl,
    afterAccepted_eq due, asks']

end

theorem modeRequest_level (level : (s.cueCfg c).mode = .level) (active : Bool) :
    modeRequest c active s = if active then some .entry else some .finish := by
  unfold modeRequest
  rw [level]
  cases active <;> rfl

theorem modeRequest_pulse_inactive (pulse : (s.cueCfg c).mode = .pulse) : modeRequest c false s = none := by
  unfold modeRequest
  rw [pulse]

theorem modeRequest_pulse (pulse : (s.cueCfg c).mode = .pulse) : modeRequest c true s =
    if ∃ d, d ∈ s.claims.table ∧ d.key = ⟨.cue c, 0⟩ then some .retrigger else some .entry := by
  unfold modeRequest
  rw [pulse]
  refine if_of_iff ?_
  rw [claimHeld, List.find?_isSome]
  simp

/-- A line accepted ACTIVE without its claim held asks for entry. -/
theorem modeRequest_entry (on : (s.cueCfg c).mode ≠ .off) (free : ∀ d, d ∈ s.claims.table → d.key ≠ ⟨.cue c, 0⟩) :
    modeRequest c true s = some .entry := by
  cases mode : (s.cueCfg c).mode with
  | off => exact absurd mode on
  | level => exact modeRequest_level mode true
  | pulse =>
    rw [modeRequest_pulse mode]
    exact if_neg fun ⟨d, hd, key⟩ => free d hd key

/-! ### Entries -/

section
variable {f : CueLine → CueLine} (target : (s.cueCfg c).target ≠ 0)
  (free : ∀ d, d ∈ s.claims.table → d.key ≠ ⟨.cue c, 0⟩)
include target free

/-- An entry that takes a free place. -/
theorem entryRequest_enters (room : s.claims.table.length < 8) (below : s.claims.nextStamp ≠ BitVec.allOnes 32) :
    (entryRequest c count (s.modCue c f)).claims = { s.claims with
        table := s.claims.table ++ [(cueNewcomer c s).claim s.claims.nextStamp]
        nextStamp := s.claims.nextStamp + 1
        counters := { s.claims.counters with admitted := satInc s.claims.counters.admitted } } ∧
      (entryRequest c count (s.modCue c f)).cue c = { countAdmitted (f (s.cue c)) with pending := false } := by
  rw [entryRequest_admitted (cueEntry_enters (s := s.modCue c f) target free room),
    enterTable_below (s := s.modCue c f) below]
  refine ⟨rfl, (State.modCue_cue_self ..).trans ?_⟩
  have line : (s.modCue c f).cue c = f (s.cue c) := State.modCue_cue_self ..
  rw [← line]
  rfl

theorem entryRequest_full (full : s.claims.table.length = 8)
    (above : ∀ d, d ∈ s.claims.table → d.currentNowhere = true → (s.cueCfg c).priority ≤ d.priority) :
    (entryRequest c count (s.modCue c f)).claims = { s.claims with
        counters := { s.claims.counters with refusedFull := satInc s.claims.counters.refusedFull } } ∧
      (entryRequest c count (s.modCue c f)).cue c =
        { countFailure (f (s.cue c)) with pending := (s.cueCfg c).mode == .level } := by
  rw [entryRequest_refused (cueEntry_full (s := s.modCue c f) target free full above) rfl]
  refine ⟨rfl, (State.modCue_cue_self ..).trans ?_⟩
  have line : (s.modCue c f).cue c = f (s.cue c) := State.modCue_cue_self ..
  rw [← line]
  rfl

theorem entryRequest_displaces (full : s.claims.table.length = 8) {d : Claim} (hd : displaceable s = some d)
    (lower : d.priority < (s.cueCfg c).priority) (below : s.claims.nextStamp ≠ BitVec.allOnes 32) :
    (entryRequest c count (s.modCue c f)).claims = {
        table := (s.claims.table.filter fun e => e.key != d.key) ++ [(cueNewcomer c s).claim s.claims.nextStamp]
        nextStamp := s.claims.nextStamp + 1
        lastEnded := s.claims.lastEnded.set (originIndex d.key.origin)
          (some { number := d.key.number, cls := d.cls, reason := .displaced, count := count, onAir := d.holdUsed })
        counters := { s.claims.counters with
          admitted := satInc s.claims.counters.admitted, ended := s.claims.counters.ended.modify 4 satInc } } ∧
      (entryRequest c count (s.modCue c f)).cue c = { countAdmitted (f (s.cue c)) with pending := false } := by
  rw [entryRequest_admitted (cueEntry_displaces (s := s.modCue c f) target free full hd lower),
    enterTable_below (s := endClaim d .displaced count (s.modCue c f)) below]
  refine ⟨rfl, (State.modCue_cue_self ..).trans ?_⟩
  have line : (s.modCue c f).cue c = f (s.cue c) := State.modCue_cue_self ..
  rw [← line]
  rfl

end

theorem entryRequest_fails {f : CueLine → CueLine}
    (h : (s.cueCfg c).target = 0 ∨ ∃ d, d ∈ s.claims.table ∧ d.key = ⟨.cue c, 0⟩) :
    (entryRequest c count (s.modCue c f)).claims = s.claims ∧
      (entryRequest c count (s.modCue c f)).cue c =
        { countFailure (f (s.cue c)) with pending := (s.cueCfg c).mode == .level } := by
  obtain ⟨a, entry, refused⟩ := cueEntry_fails (s := s.modCue c f) (count := count) h
  rw [entryRequest_refused entry refused]
  refine ⟨rfl, (State.modCue_cue_self ..).trans ?_⟩
  have line : (s.modCue c f).cue c = f (s.cue c) := State.modCue_cue_self ..
  rw [← line]
  rfl

theorem retriggerRequest_line {f : CueLine → CueLine} {d : Claim} (h : claimHeld s ⟨.cue c, 0⟩ = some d) :
    (retriggerRequest c (s.modCue c f)).claims = { s.claims with
        table := s.claims.table.map fun e => if e.key = ⟨.cue c, 0⟩ then { e with holdUsed := 0 } else e } ∧
      (retriggerRequest c (s.modCue c f)).cue c = { f (s.cue c) with
        counters := { (f (s.cue c)).counters with retriggers := satInc (f (s.cue c)).counters.retriggers } } := by
  rw [retriggerRequest_held (s := s.modCue c f) h]
  refine ⟨rfl, (State.modCue_cue_self ..).trans ?_⟩
  have line : (s.modCue c f).cue c = f (s.cue c) := State.modCue_cue_self ..
  rw [← line]
  rfl

end

/-- Settles O45: entry, failure, release, and the release of nothing. -/
theorem levelLinesEnterAndReleaseTheirClaim : Obligations.LevelLinesEnterAndReleaseTheirClaim := by
  intro s c high mode due reached differs
  have on : (s.cueCfg c).mode ≠ .off := by rw [mode]; nofun
  have level : (if (s.cueCfg c).polarity = .activeHigh then high else !high) = !(s.cue c).active :=
    Bool.eq_not_of_ne differs
  have asks := modeRequest_level mode (!(s.cue c).active)
  have other : (!(s.cue c).active) ≠ (s.cue c).active := by rw [← level]; exact differs
  have enters (inactive : (s.cue c).active = false) := exec_accepted_asks (r := .entry) on reached level other due
    (by rw [asks, inactive]; rfl)
  have releases (active : (s.cue c).active = true) := exec_accepted_asks (r := .finish) on reached level other due
    (by rw [asks, active]; rfl)
  refine ⟨fun inactive target free room below => ?_, fun inactive fails => ?_, fun d active held => ?_,
    fun active free => ?_⟩
  · obtain ⟨claims, line⟩ := entryRequest_enters (count := s.tb.count)
      (f := acceptLevel (!(s.cue c).active) s.tb.count s.tb.bitPos) target free room below
    refine ⟨_, enters inactive, (congrArg ClaimManager.table claims).trans ?_, congrArg CueLine.pending line,
      congrArg (fun k : CueLine => k.counters.admitted) line⟩
    rw [cueNewcomer, cueKind_eq, mode]
    rfl
  · obtain ⟨claims, line⟩ := entryRequest_fails (count := s.tb.count)
      (f := acceptLevel (!(s.cue c).active) s.tb.count s.tb.bitPos) fails
    refine ⟨_, enters inactive, claims, (congrArg CueLine.pending line).trans ?_,
      congrArg (fun k : CueLine => k.counters.failures) line⟩
    rw [mode]
    rfl
  · have row := releases active
    rw [cueRequest, finishRequest_held (by exact held)] at row
    refine ⟨_, row, ?_, rfl, Table.get_set_self ..⟩
    exact congrArg CueLine.pending (State.modCue_cue_self ..)
  · have row := releases active
    rw [cueRequest, finishRequest_free (by exact claimHeld_none free)] at row
    refine ⟨_, row, rfl, congrArg CueLine.pending (State.modCue_cue_self ..),
      (congrArg CueLine.active (State.modCue_cue_self ..)).trans ?_⟩
    refine (congrArg CueLine.active (State.modCue_cue_self (s := s) ..)).trans ?_
    rw [active]
    rfl

/-- Settles O46: entry, retrigger, failure, and the inactive change. -/
theorem pulseLinesEnterOrRetriggerTheirClaim : Obligations.PulseLinesEnterOrRetriggerTheirClaim := by
  intro s c high mode due reached differs
  have on : (s.cueCfg c).mode ≠ .off := by rw [mode]; nofun
  have level : (if (s.cueCfg c).polarity = .activeHigh then high else !high) = !(s.cue c).active :=
    Bool.eq_not_of_ne differs
  have other : (!(s.cue c).active) ≠ (s.cue c).active := by rw [← level]; exact differs
  have enters (inactive : (s.cue c).active = false) (free : ∀ d, d ∈ s.claims.table → d.key ≠ ⟨.cue c, 0⟩) :=
    exec_accepted_asks (r := .entry) on reached level other due (by rw [inactive]; exact modeRequest_entry on free)
  refine ⟨fun inactive target free room below => ?_, fun d inactive held => ?_, fun inactive free none => ?_,
    fun active => ?_⟩
  · obtain ⟨claims, line⟩ := entryRequest_enters (count := s.tb.count)
      (f := acceptLevel (!(s.cue c).active) s.tb.count s.tb.bitPos) target free room below
    refine ⟨_, enters inactive free, (congrArg ClaimManager.table claims).trans ?_,
      congrArg (fun k : CueLine => k.counters.admitted) line⟩
    rw [cueNewcomer, cueKind_eq, mode]
    rfl
  · have key : ∃ d, d ∈ s.claims.table ∧ d.key = ⟨.cue c, 0⟩ := ⟨d, List.mem_of_find?_eq_some held, claimHeld_key held⟩
    have row := exec_accepted_asks (r := .retrigger) on reached level other due
      (by rw [inactive]; exact (modeRequest_pulse mode).trans (if_pos key))
    obtain ⟨claims, line⟩ := retriggerRequest_line (f := acceptLevel (!(s.cue c).active) s.tb.count s.tb.bitPos) held
    exact ⟨_, row, claims, congrArg (fun k : CueLine => k.counters.retriggers) line,
      (congrArg (fun k : CueLine => k.counters.admitted) line).trans rfl⟩
  · obtain ⟨claims, line⟩ := entryRequest_fails (count := s.tb.count)
      (f := acceptLevel (!(s.cue c).active) s.tb.count s.tb.bitPos) (.inl none)
    refine ⟨_, enters inactive free, claims, (congrArg CueLine.pending line).trans ?_,
      congrArg (fun k : CueLine => k.counters.failures) line⟩
    rw [mode]
    rfl
  · have row := exec_accepted_silent on reached level other false due
      (by rw [active]; exact modeRequest_pulse_inactive mode)
    refine ⟨_, row, rfl, (congrArg CueLine.active (State.modCue_cue_self ..)).trans ?_,
      (congrArg CueLine.capture (State.modCue_cue_self ..)).trans ?_⟩
    · rw [active]
      rfl
    · rw [active]
      rfl

end Sys2Proof.Machine

/-! PROOFS. The timebase and the tokens at a boundary (R18 to R35, R158). -/

namespace Sys2Proof.Machine

theorem boundary_eq (o : Order) (s : State) : boundary o s = boundaryAt o s.tb.expected
    (s.tb.decideNext s.settings.mode).1 (s.tb.decideNext s.settings.mode).2 s.tb.markNext.isSome s := rfl

/-! ### Tokens (R158) -/

theorem boundary_link (o : Order) (s : State) (l : LinkId) : ∃ n, (boundary o s).link l = gainToken (s.linkCfg l)
    { s.link l with counters := { (s.link l).counters with timedFailures := n } } := boundaryAt_link ..

/-- Settles O40: the token count at its interval, and below it. -/
theorem linksGainTokensAtBoundaries : Obligations.LinksGainTokensAtBoundaries := by
  intro s l
  obtain ⟨n, link⟩ := boundary_link .free s l
  refine ⟨fun reached => ⟨boundary .free s, congrArg Host.Outcome.next (if_pos reached), rfl, ?_⟩, fun below =>
    ⟨congrArg Host.Outcome.next (if_neg (Nat.not_le.2 below)), boundary .free s, rfl, ?_⟩⟩
  · rw [link, gainToken, if_pos (by exact reached)]
    exact ⟨rfl, rfl⟩
  · rw [link, gainToken, if_neg (by exact Nat.not_le.2 below)]
    exact ⟨rfl, rfl⟩

/-! ### The count (R26 to R29, R32) -/

namespace Timebase

theorem chooseRate_eq (free : Rate) (t : Timebase) : t.chooseRate free =
    { t with rate := (t.chooseRate free).rate, lockedRate := (t.chooseRate free).lockedRate } := by
  unfold chooseRate
  cases t.lock <;> rfl

/-- Beside the lock state, its two counts and two counters the judgement leaves the timebase. -/
theorem judge_eq (mode : TimingMode) (t : Timebase) : t.judge mode =
    { t with lock := (t.judge mode).lock, qual := (t.judge mode).qual, holdover := (t.judge mode).holdover
             counters := { t.counters with
               acquisitions := (t.judge mode).counters.acquisitions
               holdoverExpiries := (t.judge mode).counters.holdoverExpiries } } := by
  unfold judge
  repeat' split
  all_goals rfl

theorem decideNext_marked {mode : TimingMode} {t : Timebase} {v : Count} (h : t.markNext = some v) :
    t.decideNext mode = (v, t.arm) := by
  rw [decideNext, h]

theorem decideNext_epoch {t : Timebase} (h : t.markNext = none) (epoch : t.expected.toNat % 1024 = 0) :
    t.decideNext .master = (t.arm.getD t.expected, none) := by
  rw [decideNext, h]
  exact if_pos ⟨rfl, beq_iff_eq.2 epoch⟩

/-- Without a strobe the count advances, but in MASTER with an arm at an epoch. -/
theorem decideNext_advances {mode : TimingMode} {t : Timebase} (h : t.markNext = none)
    (plain : mode = .slave ∨ t.arm = none ∨ t.expected.toNat % 1024 ≠ 0) :
    t.decideNext mode = (t.expected, t.arm) := by
  rw [decideNext, h]
  by_cases takes : mode = .master ∧ isEpoch t.expected = true
  · obtain ⟨rfl, epoch⟩ := takes
    have unarmed : t.arm = none := by
      rcases plain with slave | none | other
      · cases slave
      · exact none
      · exact absurd (beq_iff_eq.1 epoch) other
    rw [unarmed]
    exact if_pos ⟨rfl, epoch⟩
  · exact if_neg takes

theorem expected_running {t : Timebase} (h : t.start ≠ .afterPowerOn) : t.expected = t.count + 1 := if_neg h

theorem expected_first {t : Timebase} (h : t.start = .afterPowerOn) : t.expected = t.count := if_pos h

end Timebase

section
variable {s : State} {expected new : Count} {arm : Option Count} {marked : Bool}

/-- The timebase of a boundary: the lock state as judged, the rate as chosen, and the rest as the cell begins. -/
theorem boundaryTb_eq : boundaryTb expected new arm marked s =
    { (s.tb.judge s.settings.mode) with
      rate := ((s.tb.judge s.settings.mode).chooseRate (Config.freeRate s.draws)).rate
      lockedRate := ((s.tb.judge s.settings.mode).chooseRate (Config.freeRate s.draws)).lockedRate
      start := .running, count := new, arm := arm, bitPos := 0, markThis := marked, markNext := none, judged := true
      refBad := false, refPeriods := 0, refTime := 0, epout := Timebase.isEpoch new
      epoutEnds := if Timebase.isEpoch new then 1 else 0
      counters := { (s.tb.judge s.settings.mode).counters with
        jumps := if new = expected then s.tb.counters.jumps else satInc s.tb.counters.jumps } } := by
  unfold boundaryTb
  rw [Timebase.chooseRate_eq]
  have jumps : (s.tb.judge s.settings.mode).counters.jumps = s.tb.counters.jumps := by rw [Timebase.judge_eq]
  by_cases h : new = expected
  · simp only [if_pos h, ← jumps]
    rfl
  · simp only [if_neg h, ← jumps]
    rfl

theorem epout_eq (c : Count) : Timebase.isEpoch c = decide (c.toNat % 1024 = 0) := by
  unfold Timebase.isEpoch
  by_cases h : c.toNat % 1024 = 0 <;> simp [h]

theorem boundaryAt_store_kept (o : Order) (h : new = expected) :
    (boundaryAt o expected new arm marked s).store = s.store :=
  (boundaryAt_store ..).trans (if_pos h)

theorem boundaryAt_store_jumps (o : Order) (h : new ≠ expected) :
    (boundaryAt o expected new arm marked s).store = { s.store with
      faults := s.store.faults ||| 4
      alert := decide ((s.store.faults ||| 4) &&& s.settings.alertMask ≠ 0) } :=
  (boundaryAt_store ..).trans ((if_neg h).trans (raiseFault_store .timebaseJump s))

end

/-- What the boundary of a decided count leaves of count, arm, mark, jumps and store. -/
theorem boundary_counts {s : State} {n : Count} {a : Option Count} (h : s.tb.decideNext s.settings.mode = (n, a)) :
    (boundary .free s).tb.count = n ∧ (boundary .free s).tb.markThis = s.tb.markNext.isSome ∧
      (boundary .free s).tb.arm = a ∧
      (n = s.tb.expected → (boundary .free s).tb.counters.jumps = s.tb.counters.jumps ∧
        (boundary .free s).store = s.store) ∧
      (n ≠ s.tb.expected → (boundary .free s).tb.counters.jumps = satInc s.tb.counters.jumps ∧
        (boundary .free s).store = { s.store with
          faults := s.store.faults ||| 4
          alert := decide ((s.store.faults ||| 4) &&& s.settings.alertMask ≠ 0) }) := by
  rw [boundary_eq, h, boundaryAt_tb, boundaryTb_eq]
  exact ⟨rfl, rfl, rfl, fun same => ⟨if_pos same, boundaryAt_store_kept .free same⟩,
    fun jump => ⟨if_neg jump, boundaryAt_store_jumps .free jump⟩⟩

/-- Settles O29: by what decides the count. -/
theorem theCountAdvances : Obligations.TheCountAdvances := by
  refine ⟨fun s => ⟨boundary .free s, rfl, ?_⟩, fun s v e master unmarked armed he => ⟨boundary .free s, rfl, ?_⟩⟩
  · have begins : (boundary .free s).tb.bitPos = 0 ∧ (boundary .free s).tb.start = .running ∧
        (boundary .free s).tb.epout = decide ((boundary .free s).tb.count.toNat % 1024 = 0) ∧
        (boundary .free s).tb.epoutEnds ≤ 1 ∧ (boundary .free s).tb.markNext = none := by
      rw [boundary_eq, boundaryAt_tb, boundaryTb_eq]
      refine ⟨rfl, rfl, epout_eq _, ?_, rfl⟩
      show (if _ then 1 else 0) ≤ 1
      split <;> omega
    obtain ⟨bit, start, epout, ends, unmarked⟩ := begins
    refine ⟨bit, start, epout, ends, unmarked, fun v e marked he => ?_, fun free running plain => ?_,
      fun powerOn free unarmed => ?_⟩
    · subst he
      obtain ⟨count, mark, arm, same, jump⟩ := boundary_counts (Timebase.decideNext_marked marked)
      exact ⟨count, by rw [mark, marked]; rfl, arm, same, jump⟩
    · have expected := Timebase.expected_running running
      have next := Timebase.decideNext_advances (mode := s.settings.mode) free (by rw [expected]; exact plain)
      obtain ⟨count, mark, arm, same, _⟩ := boundary_counts next
      obtain ⟨jumps, store⟩ := same rfl
      exact ⟨count.trans expected, by rw [mark, free]; rfl, arm, jumps, store⟩
    · have next := Timebase.decideNext_advances (mode := s.settings.mode) free (.inr (.inl unarmed))
      obtain ⟨count, _⟩ := boundary_counts next
      exact count.trans (Timebase.expected_first powerOn)
  · have expected : s.tb.expected = e := he.symm
    refine ⟨fun other => ?_, fun epoch => ?_⟩
    · have next := Timebase.decideNext_advances (mode := s.settings.mode) unmarked
        (.inr (.inr (by rw [expected]; exact other)))
      obtain ⟨count, _, arm, _⟩ := boundary_counts next
      exact ⟨count.trans expected, arm.trans armed⟩
    · have next := Timebase.decideNext_epoch unmarked (by rw [expected]; exact epoch)
      rw [armed, ← master] at next
      obtain ⟨count, _, arm, same, jump⟩ := boundary_counts next
      rw [expected] at same jump
      exact ⟨count, arm, same, jump⟩

/-! ### The lock state and the rate (R18, R22 to R25) -/

namespace Timebase

theorem nextQual_eq (t : Timebase) : t.nextQual =
    if t.judged = true then (if t.refBad = false ∧ 0 < t.refPeriods then t.qual + 1 else 0) else t.qual := by
  unfold nextQual qualifies
  cases t.judged <;> cases t.refBad <;> simp

section
variable {mode : TimingMode} {t : Timebase}

theorem acquires_iff : t.acquires mode = true ↔ mode = .slave ∧ t.lock ≠ .locked ∧ 20 ≤ t.nextQual := by
  simp [acquires, and_assoc]

theorem givesUp_iff : t.givesUp mode = true ↔
    mode = .slave ∧ t.lock = .holdover ∧ 11999 ≤ t.holdover ∧ t.nextQual < 20 := by
  rw [givesUp]
  simp only [Bool.and_eq_true, beq_iff_eq, decide_eq_true_eq, Bool.not_eq_true', Bool.eq_false_iff, ne_eq, acquires_iff]
  constructor
  · rintro ⟨⟨⟨slave, hold⟩, reached⟩, not⟩
    rw [nextHoldover, if_pos hold] at reached
    exact ⟨slave, hold, by omega, Classical.byContradiction fun above => not ⟨slave, by rw [hold]; nofun, by omega⟩⟩
  · rintro ⟨slave, hold, reached, below⟩
    exact ⟨⟨⟨slave, hold⟩, by rw [nextHoldover, if_pos hold]; omega⟩, fun ⟨_, _, above⟩ => by omega⟩

theorem judge_acquires (h : t.acquires mode = true) : t.judge mode =
    { t with lock := .locked, qual := 0, holdover := 0
             counters := { t.counters with acquisitions := satInc t.counters.acquisitions } } := if_pos h

theorem judge_givesUp (h : t.givesUp mode = true) : t.judge mode =
    { t with lock := .free, qual := t.nextQual, holdover := 0
             counters := { t.counters with holdoverExpiries := satInc t.counters.holdoverExpiries } } := by
  have not : ¬ t.acquires mode = true := by
    rw [acquires_iff]
    obtain ⟨_, _, _, below⟩ := givesUp_iff.1 h
    rintro ⟨_, _, above⟩
    omega
  exact (if_neg not).trans (if_pos h)

theorem judge_goesOn (slave : mode = .slave) (free : t.lock ≠ .locked) (below : t.nextQual < 20)
    (holds : t.lock = .holdover → t.nextHoldover < 12000) :
    t.judge mode = { t with qual := t.nextQual, holdover := t.nextHoldover } := by
  have notAcquires : ¬ t.acquires mode = true := by
    rw [acquires_iff]
    rintro ⟨_, _, above⟩
    omega
  have notGivesUp : ¬ t.givesUp mode = true := by
    rw [givesUp_iff]
    rintro ⟨_, hold, reached, _⟩
    have := holds hold
    rw [nextHoldover, if_pos hold] at this
    omega
  exact (if_neg notAcquires).trans ((if_neg notGivesUp).trans (if_pos ⟨slave, free⟩))

theorem judge_rests (h : mode = .master ∨ t.lock = .locked) : t.judge mode = t := by
  have notAcquires : ¬ t.acquires mode = true := by
    rw [acquires_iff]
    rintro ⟨rfl, free, _⟩
    exact h.elim nofun free
  have notGivesUp : ¬ t.givesUp mode = true := by
    rw [givesUp_iff]
    rintro ⟨rfl, hold, _⟩
    exact h.elim nofun fun locked => by rw [hold] at locked; cases locked
  refine (if_neg notAcquires).trans ((if_neg notGivesUp).trans (if_neg ?_))
  rintro ⟨rfl, free⟩
  exact h.elim nofun free

end

end Timebase

/-- The timebase after a boundary, by its judgement. -/
theorem boundary_judged {s : State} {j : Timebase} (h : s.tb.judge s.settings.mode = j) :
    (boundary .free s).tb.lock = j.lock ∧ (boundary .free s).tb.qual = j.qual ∧
      (boundary .free s).tb.holdover = j.holdover ∧
      (boundary .free s).tb.rate = (j.chooseRate (Config.freeRate s.draws)).rate ∧
      (boundary .free s).tb.lockedRate = (j.chooseRate (Config.freeRate s.draws)).lockedRate ∧
      (boundary .free s).tb.counters = { j.counters with jumps := (boundary .free s).tb.counters.jumps } := by
  rw [boundary_eq, boundaryAt_tb, boundaryTb_eq, h]
  exact ⟨rfl, rfl, rfl, rfl, rfl, rfl⟩

/-- Settles O30: the rate by the lock state as judged; the counts and the two events by the judgement. -/
theorem theLockStateAndTheRateFollowRef : Obligations.TheLockStateAndTheRateFollowRef := by
  refine ⟨fun s t row => ?_, fun s t qual holdover row hq hh => ?_, fun s qual hq => ?_⟩
  · obtain rfl := Host.Outcome.next.inj row
    obtain ⟨lock, _, _, rate, locked, _⟩ := boundary_judged (s := s) rfl
    have kept := Timebase.judge_eq s.settings.mode s.tb
    refine ⟨?_, fun free => ?_, fun hold => ?_, fun lockedNow => ?_⟩
    · rw [boundary_eq, boundaryAt_tb, boundaryTb_eq]
      exact ⟨rfl, rfl, rfl, rfl, by rw [kept]⟩
    · rw [rate, locked, Timebase.chooseRate, ← lock, free]
      exact ⟨rfl, by rw [kept]⟩
    · rw [rate, locked, Timebase.chooseRate, ← lock, hold]
      exact ⟨by rw [kept], by rw [kept]⟩
    · rw [rate, locked, Timebase.chooseRate, ← lock, lockedNow]
      refine ⟨rfl, fun periods time => ?_⟩
      have sums : (s.tb.judge s.settings.mode).refPeriods = s.tb.refPeriods ∧
          (s.tb.judge s.settings.mode).refTime = s.tb.refTime := by
        rw [kept]
        exact ⟨rfl, rfl⟩
      have has : (s.tb.judge s.settings.mode).hasRefRate = true := by
        rw [Timebase.hasRefRate, sums.1, sums.2, decide_eq_true periods, decide_eq_true time]
        rfl
      show (if _ then _ else _) = _
      rw [if_pos has, Timebase.refRate, sums.1, sums.2, secondFs]
  · obtain rfl := Host.Outcome.next.inj row
    rw [← Timebase.nextQual_eq] at hq
    subst hq hh
    refine ⟨fun slave free below holds => ?_, fun rests => ?_⟩
    · have holds' : s.tb.lock = .holdover → s.tb.nextHoldover < 12000 := holds
      obtain ⟨lock, qual, holdover, _⟩ := boundary_judged (Timebase.judge_goesOn slave free below holds')
      exact ⟨qual, holdover, lock⟩
    · obtain ⟨lock, qual, holdover, _⟩ := boundary_judged (Timebase.judge_rests rests)
      exact ⟨qual, holdover, lock⟩
  · rw [← Timebase.nextQual_eq] at hq
    subst hq
    refine ⟨fun slave free reached => ?_, fun slave hold below reached => ?_, fun stays => ?_, fun stays => ?_⟩
    · have acquires := Timebase.acquires_iff.2 ⟨slave, free, reached⟩
      obtain ⟨lock, qual, holdover, _, _, counters⟩ := boundary_judged (Timebase.judge_acquires acquires)
      exact ⟨_, congrArg Host.Outcome.next (if_pos acquires), rfl, lock, qual, holdover, counters⟩
    · have givesUp := Timebase.givesUp_iff.2 ⟨slave, hold, reached, below⟩
      obtain ⟨lock, qual, holdover, rate, _, counters⟩ := boundary_judged (Timebase.judge_givesUp givesUp)
      exact ⟨_, congrArg Host.Outcome.next (if_pos givesUp), rfl, lock, qual, holdover, rate, counters⟩
    · refine congrArg Host.Outcome.next (if_neg ?_)
      rw [Timebase.acquires_iff]
      rintro ⟨slave, free, reached⟩
      rcases stays with master | locked | below
      · rw [slave] at master
        cases master
      · exact free locked
      · omega
    · refine congrArg Host.Outcome.next (if_neg ?_)
      rw [Timebase.givesUp_iff]
      rintro ⟨slave, hold, reached, below⟩
      rcases stays with master | other | few | above
      · rw [slave] at master
        cases master
      · exact other hold
      · omega
      · omega

end Sys2Proof.Machine

/-! PROOFS. Eligibility, the choice, and the transitions of a sequencer (R86, R87, R105 to R117). -/

namespace Sys2Proof.Machine

/-! ### Eligibility and choice -/

theorem eligible_iff (s : State) (p : OutId) (c : Claim) : eligible s p c = true ↔
    c.target.getLsbD p.val = true ∧ (s.lane p).run = true ∧ (s.outCfg p).tc = true ∧
      (s.settings.groupSets.get (match (s.out p).source with
        | .network => (s.outCfg p).accNet
        | .regional => (s.outCfg p).accReg)).getLsbD c.group.toNat = true := by
  have set : acceptedSet s p = (match (s.out p).source with
      | .network => (s.outCfg p).accNet
      | .regional => (s.outCfg p).accReg) := by
    unfold acceptedSet
    cases (s.out p).source <;> rfl
  rw [← set]
  simp only [eligible, Bool.and_eq_true, and_assoc]
  rfl

theorem highest_none {cs : List Claim} : highest cs = none ↔ cs = [] := by
  cases cs with
  | nil => simp [highest]
  | cons c cs =>
    unfold highest
    cases highest cs with
    | none => simp
    | some d =>
      simp only [reduceCtorEq, iff_false]
      split <;> nofun

theorem not_outranks_iff {a b : Claim} : ¬ outranks a b = true ↔
    a.priority < b.priority ∨ (a.priority = b.priority ∧ b.stamp.toNat ≤ a.stamp.toNat) := by
  rw [outranks_iff]
  omega

theorem not_outranks_trans {a b c : Claim} (h : ¬ outranks a b = true) (k : ¬ outranks b c = true) :
    ¬ outranks a c = true := by
  rw [not_outranks_iff] at *
  omega

/-- The highest of some claims is one of them, and none of them outranks it. -/
theorem highest_some {cs : List Claim} {c : Claim} (h : highest cs = some c) :
    c ∈ cs ∧ ∀ d, d ∈ cs → ¬ outranks d c = true := by
  induction cs generalizing c with
  | nil => cases h
  | cons b cs ih =>
    have self : ¬ outranks b b = true := by rw [not_outranks_iff]; omega
    unfold highest at h
    cases hr : highest cs with
    | none =>
      rw [hr] at h
      obtain rfl := Option.some.inj h
      rw [highest_none.1 hr]
      exact ⟨List.mem_singleton_self _, fun d hd => by rw [List.mem_singleton.1 hd]; exact self⟩
    | some d =>
      rw [hr] at h
      replace h : (if outranks d b = true then some d else some b) = some c := h
      obtain ⟨mem, best⟩ := ih hr
      by_cases above : outranks d b = true
      · rw [if_pos above] at h
        obtain rfl := Option.some.inj h
        refine ⟨List.mem_cons_of_mem _ mem, fun e he => ?_⟩
        rcases List.mem_cons.1 he with rfl | he
        · exact Bool.eq_false_iff.1 (outranks_asymm above)
        · exact best e he
      · rw [if_neg above] at h
        obtain rfl := Option.some.inj h
        refine ⟨List.mem_cons_self, fun e he => ?_⟩
        rcases List.mem_cons.1 he with rfl | he
        · exact self
        · exact not_outranks_trans (best e he) above

theorem choice_none {s : State} {p : OutId} : choice s p = none ↔ ∀ c, c ∈ s.claims.table → eligible s p c = false := by
  rw [choice, highest_none, List.filter_eq_nil_iff]
  simp only [Bool.not_eq_true]

theorem choice_some {s : State} {p : OutId} {c : Claim} (h : choice s p = some c) :
    c ∈ s.claims.table ∧ eligible s p c = true ∧ ∀ d, d ∈ s.claims.table → eligible s p d = true →
      d.priority < c.priority ∨ (d.priority = c.priority ∧ c.stamp.toNat ≤ d.stamp.toNat) := by
  obtain ⟨mem, best⟩ := highest_some h
  obtain ⟨held, elig⟩ := List.mem_filter.1 mem
  exact ⟨held, elig, fun d hd he => not_outranks_iff.1 (best d (List.mem_filter.2 ⟨hd, he⟩))⟩

/-! ### The transitions -/

namespace Sequencer

section
variable {cfg : OutSettings} {chosen : Option ClaimRef} {q u : Sequencer}

theorem transition_quiet_none (h : q.phase = .quiet) : q.transition cfg none = q := by simp only [transition, h]

theorem transition_quiet_some (h : q.phase = .quiet) (r : ClaimRef) : q.transition cfg (some r) = q.begin cfg r := by
  simp only [transition, h]

theorem transition_onset_none (h : q.phase = .onset) : q.transition cfg none = q.abort := by
  simp only [transition, h]

theorem transition_onset_some (h : q.phase = .onset) (r : ClaimRef) :
    q.transition cfg (some r) = (q.handTo r).lessLead := by simp only [transition, h]

theorem transition_onAir_none (h : q.phase = .onAir) : q.transition cfg none = q.finish cfg := by
  simp only [transition, h]

theorem transition_onAir_some (h : q.phase = .onAir) (r : ClaimRef) : q.transition cfg (some r) = q.handTo r := by
  simp only [transition, h]

theorem transition_trail_none (h : q.phase = .trail) : q.transition cfg none = q.lessTrail := by
  simp only [transition, h]

theorem transition_trail_some (h : q.phase = .trail) (r : ClaimRef) : q.transition cfg (some r) = q.resume r := by
  simp only [transition, h]

/-- What a boundary makes of a sequencer, given its transition: the burst counter is set where phase or current claim
changed, and the cue output follows the phase. -/
theorem boundary_of (h : (if cfg.tc then q.transition cfg chosen else q.countDrop.silence) = u) :
    q.boundary cfg chosen = { u with
      burst := if u.phase = q.phase ∧ u.current = q.current then u.burst else cfg.burst, co := u.phase == .onAir } := by
  rw [boundary, h, setBurst]
  by_cases same : u.phase = q.phase ∧ u.current = q.current
  · obtain ⟨phase, current⟩ := same
    rw [if_neg (by simp [phase, current]), if_pos ⟨phase, current⟩]
    rfl
  · rw [if_pos (by rwa [ne_eq, ne_eq, ← Decidable.not_and_iff_or_not]), if_neg same]
    rfl

theorem boundary_tc (tc : cfg.tc = true) (h : q.transition cfg chosen = u) :
    q.boundary cfg chosen = { u with
      burst := if u.phase = q.phase ∧ u.current = q.current then u.burst else cfg.burst, co := u.phase == .onAir } :=
  boundary_of ((if_pos tc).trans h)

theorem countDrop_counters (q : Sequencer) : q.countDrop.counters = { q.counters with
    drops := if q.phase = .quiet then q.counters.drops else satInc q.counters.drops } := by
  unfold countDrop satIncIf
  by_cases quiet : q.phase = .quiet <;> simp [quiet]

theorem handTo_counters (r : ClaimRef) (q : Sequencer) : (q.handTo r).counters = { q.counters with
    handovers := if q.current = some r then q.counters.handovers else satInc q.counters.handovers } := by
  unfold handTo satIncIf
  by_cases same : q.current = some r <;> simp [same]

theorem boundary_tcOff (tc : cfg.tc = false) (chosen : Option ClaimRef) : ∃ t, boundary cfg chosen q = t ∧
    t.phase = .quiet ∧ t.current = none ∧ t.lead = 0 ∧ t.trail = 0 ∧ t.view = none ∧ t.co = false ∧
    t.burst = (if q.phase = .quiet ∧ q.current = none then q.burst else cfg.burst) ∧
    t.counters = { q.counters with
      drops := if q.phase = .quiet then q.counters.drops else satInc q.counters.drops } := by
  refine ⟨_, boundary_of (if_neg (Bool.eq_false_iff.1 tc)), rfl, rfl, rfl, rfl, rfl, rfl, ?_, countDrop_counters q⟩
  exact if_of_iff (and_congr eq_comm eq_comm)

theorem boundary_quiet (tc : cfg.tc = true) (quiet : q.phase = .quiet) (free : q.current = none) (r : ClaimRef) :
    (∃ t, boundary cfg none q = t ∧ t = { q with co := false }) ∧
      (∃ t, boundary cfg (some r) q = t ∧ t.current = some r ∧ t.burst = cfg.burst ∧
        t.counters = { q.counters with onsets := satInc q.counters.onsets } ∧ t.lead = cfg.lead ∧
        (cfg.lead = 0 → t.phase = .onAir ∧ t.co = true) ∧ (cfg.lead ≠ 0 → t.phase = .onset ∧ t.co = false)) := by
  have rests : q.transition cfg none = q := transition_quiet_none quiet
  have begins : q.transition cfg (some r) = q.begin cfg r := transition_quiet_some quiet r
  refine ⟨⟨_, boundary_tc tc rests, ?_⟩, ⟨_, boundary_tc tc begins, rfl, ?_, rfl, rfl, fun none => ?_, fun lead => ?_⟩⟩
  · rw [if_pos ⟨rfl, rfl⟩, quiet]
    rfl
  · have other : ¬ (q.begin cfg r).current = q.current := by rw [free]; nofun
    exact if_neg fun h => other h.2
  · have phase : (q.begin cfg r).phase = .onAir := if_pos none
    exact ⟨phase, by rw [phase]; rfl⟩
  · have phase : (q.begin cfg r).phase = .onset := if_neg lead
    exact ⟨phase, by rw [phase]; rfl⟩

theorem boundary_onset (tc : cfg.tc = true) (onset : q.phase = .onset) (r : ClaimRef) :
    (∃ t, boundary cfg none q = t ∧ t.phase = .quiet ∧ t.current = none ∧ t.burst = cfg.burst ∧
        t.lead = 0 ∧ t.co = false ∧ t.counters = { q.counters with aborted := satInc q.counters.aborted }) ∧
      (∃ t, boundary cfg (some r) q = t ∧ t.current = some r ∧ t.lead = q.lead - 1 ∧
        t.phase = (if q.lead - 1 = 0 then .onAir else .onset) ∧ t.co = decide (q.lead - 1 = 0) ∧
        t.burst = (if q.lead - 1 = 0 ∨ q.current ≠ some r then cfg.burst else q.burst) ∧
        t.counters = { q.counters with
          handovers := if q.current = some r then q.counters.handovers else satInc q.counters.handovers }) := by
  have aborts : q.transition cfg none = q.abort := transition_onset_none onset
  have goesOn : q.transition cfg (some r) = (q.handTo r).lessLead := transition_onset_some onset r
  have phase : (q.handTo r).lessLead.phase = if q.lead - 1 = 0 then .onAir else .onset := rfl
  refine ⟨⟨_, boundary_tc tc aborts, rfl, rfl, ?_, rfl, rfl, rfl⟩, ⟨_, boundary_tc tc goesOn, rfl, rfl, phase, ?_, ?_,
    handTo_counters r q⟩⟩
  · refine if_neg fun h => ?_
    rw [onset] at h
    cases h.1
  · rw [phase]
    by_cases last : q.lead - 1 = 0 <;> simp [last]
  · rw [phase, onset]
    by_cases last : q.lead - 1 = 0
    · rw [if_pos last, if_neg (by rintro ⟨⟨⟩, _⟩), if_pos (.inl last)]
    · rw [if_neg last]
      by_cases same : q.current = some r
      · rw [if_pos ⟨rfl, same.symm⟩, if_neg (by simp [last, same])]
        rfl
      · rw [if_neg fun h => same h.2.symm, if_pos (.inr same)]

theorem boundary_onAir (tc : cfg.tc = true) (onAir : q.phase = .onAir) (r : ClaimRef) :
    (∃ t, boundary cfg none q = t ∧ t.current = none ∧ t.burst = cfg.burst ∧ t.co = false ∧
        t.trail = cfg.trail ∧ t.phase = (if cfg.trail = 0 then .quiet else .trail) ∧
        t.counters = { q.counters with onAirEnds := satInc q.counters.onAirEnds }) ∧
      (∃ t, boundary cfg (some r) q = t ∧ t.current = some r ∧ t.phase = .onAir ∧ t.co = true ∧
        t.burst = (if q.current = some r then q.burst else cfg.burst) ∧
        t.counters = { q.counters with
          handovers := if q.current = some r then q.counters.handovers else satInc q.counters.handovers }) := by
  have ends : q.transition cfg none = q.finish cfg := transition_onAir_none onAir
  have goesOn : q.transition cfg (some r) = q.handTo r := transition_onAir_some onAir r
  have phase : (q.finish cfg).phase = if cfg.trail = 0 then .quiet else .trail := rfl
  have stays : (q.handTo r).phase = .onAir := onAir
  refine ⟨⟨_, boundary_tc tc ends, rfl, ?_, ?_, rfl, phase, rfl⟩, ⟨_, boundary_tc tc goesOn, rfl, stays, ?_, ?_,
    handTo_counters r q⟩⟩
  · rw [phase, onAir]
    refine if_neg fun h => ?_
    by_cases none : cfg.trail = 0 <;> simp [none] at h
  · rw [phase]
    by_cases none : cfg.trail = 0 <;> simp [none]
  · rw [stays]
    rfl
  · refine if_of_iff ⟨fun h => h.2.symm, fun h => ⟨rfl, h.symm⟩⟩

theorem boundary_trail (tc : cfg.tc = true) (trail : q.phase = .trail) (free : q.current = none) (r : ClaimRef) :
    (∃ t, boundary cfg none q = t ∧ t.current = none ∧ t.co = false ∧ t.trail = q.trail - 1 ∧
        t.phase = (if q.trail - 1 = 0 then .quiet else .trail) ∧
        t.burst = (if q.trail - 1 = 0 then cfg.burst else q.burst) ∧ t.counters = q.counters) ∧
      (∃ t, boundary cfg (some r) q = t ∧ t.current = some r ∧ t.phase = .onAir ∧ t.co = true ∧
        t.burst = cfg.burst ∧
        t.counters = { q.counters with resumptions := satInc q.counters.resumptions }) := by
  have ends : q.transition cfg none = q.lessTrail := transition_trail_none trail
  have resumes : q.transition cfg (some r) = q.resume r := transition_trail_some trail r
  have phase : q.lessTrail.phase = if q.trail - 1 = 0 then .quiet else .trail := rfl
  refine ⟨⟨_, boundary_tc tc ends, free, ?_, rfl, phase, ?_, rfl⟩, ⟨_, boundary_tc tc resumes, rfl, rfl, rfl, ?_, rfl⟩⟩
  · rw [phase]
    by_cases last : q.trail - 1 = 0 <;> simp [last]
  · rw [phase, trail]
    by_cases last : q.trail - 1 = 0
    · rw [if_pos last, if_pos last, if_neg (by rintro ⟨⟨⟩, _⟩)]
    · rw [if_neg last, if_neg last]
      exact if_pos ⟨rfl, rfl⟩
  · refine if_neg fun h => ?_
    rw [trail] at h
    cases h.1

end

end Sequencer

/-- Settles O34: eligibility, the choice, and the transitions phase by phase. -/
theorem theSequencerFollowsItsClaim : Obligations.TheSequencerFollowsItsClaim :=
  ⟨eligible_iff, fun _ _ => ⟨choice_none, fun _ => choice_some⟩, fun _ _ =>
    ⟨fun chosen tc => Sequencer.boundary_tcOff tc chosen, Sequencer.boundary_quiet, Sequencer.boundary_onset,
      Sequencer.boundary_onAir, Sequencer.boundary_trail⟩⟩

end Sys2Proof.Machine

/-! PROOFS. LEAD_END and TRAIL_END (R108, R110). -/

namespace Sys2Proof.Machine

section
variable {s : State} {p : OutId} (h : PlainBoundary s) (hr : (s.lane p).run = true) (he : (s.outCfg p).enable = true)
  (tc : (s.outCfg p).tc = true)
include h hr he tc

/-- The sequencer of a running output with TC 1 after a plain boundary, given its transition. -/
theorem PlainBoundary.seq_of {u : Sequencer}
    (hu : (s.lane p).seq.transition (s.outCfg p) ((choice (updateSources s) p).map Claim.ref) = u) :
    ∃ b v, ((boundary .free s).lane p).seq = { u with burst := b, co := u.phase == .onAir, view := v } ∧
      (u.current = none → v = u.view) := by
  obtain ⟨b, held, e⟩ := h.seq p hr he
  rw [Sequencer.boundary_tc tc hu] at e
  obtain ⟨v, hv⟩ := writeView_keeps held { u with
    burst := if u.phase = (s.lane p).seq.phase ∧ u.current = (s.lane p).seq.current then u.burst else (s.outCfg p).burst
    co := u.phase == .onAir }
  refine ⟨b, v, by rw [e, hv], fun none => ?_⟩
  rw [writeView_none held _ (by exact none)] at hv
  exact (congrArg Sequencer.view hv).symm

end

theorem inService_of {s : State} {p : OutId} (hr : (s.lane p).run = true) (he : (s.outCfg p).enable = true)
    (tc : (s.outCfg p).tc = true) : inService s p = true := by
  rw [inService, hr, he, tc]
  rfl

/-- Settles O33: the last cell of lead, the last of trail, an onset abandoned, a trail resumed. -/
theorem leadAndTrailEnd : Obligations.LeadAndTrailEnd := by
  intro s p h hr he tc
  have serves := inService_of hr he tc
  refine ⟨fun c onset last chosen => ?_, fun trail last free none => ?_, fun onset none => ?_, fun c trail chosen => ?_⟩
  · obtain ⟨b, v, e, _⟩ := h.seq_of hr he tc (u := ((s.lane p).seq.handTo c.ref).lessLead)
      (by rw [chosen]; exact Sequencer.transition_onset_some onset c.ref)
    have lead : ((s.lane p).seq.handTo c.ref).lessLead.lead = 0 := by
      show (s.lane p).seq.lead - 1 = 0
      omega
    have phase : ((s.lane p).seq.handTo c.ref).lessLead.phase = .onAir := if_pos lead
    rw [phase] at e
    have onAir : ((boundary .free s).lane p).seq.phase = .onAir := by rw [e]
    refine ⟨_, execLeadEnd_next rfl serves onset onAir, rfl, onAir, ?_, ?_, ?_⟩
    · rw [e]; rfl
    · rw [e]; rfl
    · rw [e]; exact lead
  · obtain ⟨b, v, e, view⟩ := h.seq_of hr he tc (u := (s.lane p).seq.lessTrail)
      (by rw [none]; exact Sequencer.transition_trail_none trail)
    have left : (s.lane p).seq.trail - 1 = 0 := by omega
    have phase : (s.lane p).seq.lessTrail.phase = .quiet := if_pos left
    have viewNone : v = Option.none := (view free).trans (if_pos left)
    rw [phase, viewNone] at e
    have quiet : ((boundary .free s).lane p).seq.phase = .quiet := by rw [e]
    refine ⟨_, execTrailEnd_next rfl serves trail quiet, rfl, quiet, ?_, ?_, ?_, ?_⟩
    · rw [e]; rfl
    · rw [e]; exact free
    · rw [e]
    · rw [e]; exact left
  · obtain ⟨b, v, e, _⟩ := h.seq_of hr he tc (u := (s.lane p).seq.abort)
      (by rw [none]; exact Sequencer.transition_onset_none onset)
    have quiet : ((boundary .free s).lane p).seq.phase = .quiet := by rw [e]; rfl
    refine ⟨congrArg Host.Outcome.next (if_neg fun goes => ?_), _, rfl, quiet, ?_, ?_, ?_⟩
    · obtain ⟨_, _, onAir⟩ := goes
      rw [quiet] at onAir
      cases onAir
    · rw [e]; rfl
    · rw [e]; rfl
    · rw [e]; rfl
  · obtain ⟨b, v, e, _⟩ := h.seq_of hr he tc (u := (s.lane p).seq.resume c.ref)
      (by rw [chosen]; exact Sequencer.transition_trail_some trail c.ref)
    have onAir : ((boundary .free s).lane p).seq.phase = .onAir := by rw [e]; rfl
    refine ⟨congrArg Host.Outcome.next (if_neg fun ends => ?_), _, rfl, onAir, ?_, ?_, ?_⟩
    · obtain ⟨_, _, quiet⟩ := ends
      rw [onAir] at quiet
      cases quiet
    · rw [e]; rfl
    · rw [e]; rfl
    · rw [e]; rfl

end Sys2Proof.Machine

/-! PROOFS. EPOCH strobes inside a cell (R12, R16, R29, R30). -/

namespace Sys2Proof.Machine

/-! ### What a boundary reads of the timebase -/

/-- The mark and the arm of a timebase, set. -/
def Timebase.setMark (mark arm : Option Count) (t : Timebase) : Timebase := { t with markNext := mark, arm := arm }

theorem judge_setMark (mark arm : Option Count) (mode : TimingMode) (t : Timebase) :
    (t.setMark mark arm).judge mode = (t.judge mode).setMark mark arm := by
  have acquires : (t.setMark mark arm).acquires mode = t.acquires mode := rfl
  have givesUp : (t.setMark mark arm).givesUp mode = t.givesUp mode := rfl
  have lock : (t.setMark mark arm).lock = t.lock := rfl
  unfold Timebase.judge
  rw [acquires, givesUp, lock]
  repeat' split
  all_goals rfl

theorem chooseRate_setMark (mark arm : Option Count) (free : Rate) (t : Timebase) :
    (t.setMark mark arm).chooseRate free = (t.chooseRate free).setMark mark arm := by
  have lock : (t.setMark mark arm).lock = t.lock := rfl
  unfold Timebase.chooseRate
  rw [lock]
  cases t.lock <;> rfl

theorem judgeCell_setMark (mark arm : Option Count) (s : State) :
    judgeCell (s.modTb (Timebase.setMark mark arm)) = (judgeCell s).modTb (Timebase.setMark mark arm) := by
  have judged : (s.modTb (Timebase.setMark mark arm)).tb.judge (s.modTb (Timebase.setMark mark arm)).settings.mode =
      (s.tb.judge s.settings.mode).setMark mark arm := judge_setMark ..
  have lock : ((s.tb.judge s.settings.mode).setMark mark arm).lock = (s.tb.judge s.settings.mode).lock := rfl
  have rate : ((s.tb.judge s.settings.mode).setMark mark arm).hasRefRate = (s.tb.judge s.settings.mode).hasRefRate := rfl
  unfold judgeCell
  simp only [judged, chooseRate_setMark, lock, rate]
  split <;> rfl

/-- A boundary with a given count reads neither the mark nor the arm. -/
theorem boundaryAt_setMark (o : Order) (expected new : Count) (arm : Option Count) (marked : Bool) (s : State)
    (mark armed : Option Count) : boundaryAt o expected new arm marked (s.modTb (Timebase.setMark mark armed)) =
      boundaryAt o expected new arm marked s := by
  have start : (s.modTb (Timebase.setMark mark armed)).tb.start = s.tb.start := rfl
  have begun : (judgeCell (s.modTb (Timebase.setMark mark armed))).modTb (Timebase.beginCell new arm marked) =
      (judgeCell s).modTb (Timebase.beginCell new arm marked) := by
    rw [judgeCell_setMark]
    rfl
  have tables : beforeTables expected new arm marked (s.modTb (Timebase.setMark mark armed)) =
      beforeTables expected new arm marked s := by
    unfold beforeTables
    rw [begun]
  rw [boundaryAt_eq, boundaryAt_eq, beforeCells, beforeCells, tables, start]

theorem runLane_truncated (enable : Bool) (ln : Lane) : (runLane enable ln).asm.truncated = ln.asm.truncated := by
  unfold runLane
  split <;> rfl

theorem sequencedLane_asm (u : State) (p : OutId) : (sequencedLane u p).asm = (u.lane p).asm := by
  unfold sequencedLane
  split <;> rfl

theorem boundaryAt_truncated (o : Order) (expected new : Count) (arm : Option Count) (marked : Bool) (s : State)
    (p : OutId) : ((boundaryAt o expected new arm marked s).lane p).asm.truncated = (s.lane p).asm.truncated := by
  obtain ⟨s', k, lane, _, _, _, _, after, _⟩ := boundaryAt_lane o expected new arm marked s p
  obtain ⟨f, before⟩ := beforeCells_lane o expected new arm marked s p
  rw [after]
  show ((schedule _ p s').lane p).asm.truncated = _
  rw [(schedule_same _ p s').truncated, lane, sequencedLane_asm, before]
  exact runLane_truncated ..

/-- A strobe inside a cell is the boundary of the cut cells. -/
theorem exec_epochStrobe_cut {s : State} (slave : s.settings.mode = .slave) (running : s.tb.start = .running)
    (low : 1 ≤ s.tb.bitPos) (high : s.tb.bitPos ≤ 112) : exec .epochStrobe s = .next (strobeCut s) :=
  congrArg Host.Outcome.next ((if_pos ((listens_iff s).2 ⟨slave, running⟩)).trans
    ((if_neg (by omega)).trans (if_pos (by omega))))

/-- Settles O43: the strobe is the boundary of the cut cells, and that of the state so marked. -/
theorem strobesCutCells : Obligations.StrobesCutCells := by
  intro s v slave running low high hv
  obtain ⟨u, hu⟩ : ∃ u, u = (cutCells s).modTb fun t =>
      { t with counters := { t.counters with realignments := satInc t.counters.realignments } } := ⟨_, rfl⟩
  have cut : strobeCut s = boundaryAt .free (s.tb.count + 1) v none true u := by rw [hu, hv]; rfl
  have tb : u.tb = { s.tb with counters := { s.tb.counters with
      realignments := satInc s.tb.counters.realignments } } := by rw [hu]; rfl
  have store : u.store = s.store := by rw [hu]; rfl
  have settings : u.settings = s.settings := by rw [hu]; rfl
  refine ⟨_, exec_epochStrobe_cut slave running low high, ?_⟩
  rw [cut]
  have begins : (boundaryAt .free (s.tb.count + 1) v none true u).tb.count = v ∧
      (boundaryAt .free (s.tb.count + 1) v none true u).tb.bitPos = 0 ∧
      (boundaryAt .free (s.tb.count + 1) v none true u).tb.markThis = true ∧
      (boundaryAt .free (s.tb.count + 1) v none true u).tb.arm = none ∧
      (boundaryAt .free (s.tb.count + 1) v none true u).tb.counters.realignments =
        satInc s.tb.counters.realignments ∧
      (boundaryAt .free (s.tb.count + 1) v none true u).tb.counters.jumps =
        if v = s.tb.count + 1 then s.tb.counters.jumps else satInc s.tb.counters.jumps := by
    rw [boundaryAt_tb, boundaryTb_eq, Timebase.judge_eq, tb]
    exact ⟨rfl, rfl, rfl, rfl, rfl, rfl⟩
  obtain ⟨count, bit, mark, arm, realignments, jumps⟩ := begins
  refine ⟨count, bit, mark, arm, realignments, jumps, ?_, fun p => ?_, ?_⟩
  · by_cases same : v = s.tb.count + 1
    · rw [if_pos same, boundaryAt_store_kept .free same, store]
    · rw [if_neg same, boundaryAt_store_jumps .free same, store]
  · rw [boundaryAt_truncated]
    have lane : u.lane p = (cutCells s).lane p := by rw [hu]; rfl
    rw [lane, cutCells_lane]
    split <;> rfl
  · have lanes : (cutCells s).lanes = .tabulate fun p => if (s.lane p).run then
        { s.lane p with asm := { (s.lane p).asm with truncated := satInc (s.lane p).asm.truncated } }
        else s.lane p := by
      refine Table.eq_of_get fun p => ?_
      rw [Table.get_tabulate]
      exact cutCells_lane s p
    have marked : { s with
        tb := { s.tb with
          markNext := some v, arm := none
          counters := { s.tb.counters with realignments := satInc s.tb.counters.realignments } }
        lanes := .tabulate fun p =>
          if (s.lane p).run then { s.lane p with asm := { (s.lane p).asm with
            truncated := satInc (s.lane p).asm.truncated } }
          else s.lane p } = u.modTb (Timebase.setMark (some v) none) := by
      rw [← lanes, hu]
      rfl
    rw [marked]
    refine congrArg Host.Outcome.next ?_
    have start : u.tb.start ≠ .afterPowerOn := by
      rw [tb]
      exact fun first => by rw [running] at first; cases first
    have expected : (u.modTb (Timebase.setMark (some v) none)).tb.expected = s.tb.count + 1 := by
      refine (Timebase.expected_running (t := (u.modTb (Timebase.setMark (some v) none)).tb) start).trans ?_
      show u.tb.count + 1 = _
      rw [tb]
    have next : (u.modTb (Timebase.setMark (some v) none)).tb.decideNext
        (u.modTb (Timebase.setMark (some v) none)).settings.mode = (v, none) :=
      Timebase.decideNext_marked rfl
    rw [boundary_eq, next, expected]
    exact boundaryAt_setMark ..

end Sys2Proof.Machine

/-! PROOFS. The activation queue: its order, the application of entries, boundaries and jumps (R131 to R141). -/

namespace Sys2Proof.Machine

/-! ### Saturating counts -/

theorem satInc_eq (c : Counter) : satInc c = satAdd c 1 := by
  have top := c.isLt
  refine BitVec.eq_of_toNat_eq ?_
  unfold satInc satAdd
  split
  next h =>
    rw [h]
    decide
  next h =>
    have below : c.toNat ≠ 4294967295 := fun e => h (BitVec.eq_of_toNat_eq e)
    rw [BitVec.toNat_add, BitVec.toNat_ofNat]
    simp only [BitVec.ofNat_eq_ofNat, BitVec.toNat_ofNat]
    omega

theorem satAdd_satAdd (c : Counter) (m n : Nat) : satAdd (satAdd c m) n = satAdd c (m + n) := by
  have top := c.isLt
  refine BitVec.eq_of_toNat_eq ?_
  unfold satAdd
  simp only [BitVec.toNat_ofNat]
  omega

theorem satAdd_zero (c : Counter) : satAdd c 0 = c := by
  have top := c.isLt
  refine BitVec.eq_of_toNat_eq ?_
  unfold satAdd
  simp only [BitVec.toNat_ofNat]
  omega

theorem satAdd_satInc (c : Counter) (n : Nat) : satAdd (satInc c) n = satAdd c (n + 1) := by
  rw [satInc_eq, satAdd_satAdd, Nat.add_comm]

theorem satAdd_satIncIf (b : Bool) (c : Counter) (n : Nat) : satAdd (satIncIf b c) n = satAdd c (n + b.toNat) := by
  cases b with
  | true => exact satAdd_satInc c n
  | false => rfl

/-! ### The order of the queue (R133) -/

theorem insertEntry_split (n : Count) (e : QueueEntry) {es : List QueueEntry}
    (h : es.Pairwise fun a b => (a.cell - n).toNat ≤ (b.cell - n).toNat) :
    ∃ near far, es = near ++ far ∧ insertEntry n e es = near ++ e :: far ∧
      (∀ a, a ∈ near → (a.cell - n).toNat ≤ (e.cell - n).toNat) ∧
      ∀ a, a ∈ far → (e.cell - n).toNat < (a.cell - n).toNat := by
  induction es with
  | nil => exact ⟨[], [], rfl, rfl, nofun, nofun⟩
  | cons d ds ih =>
    obtain ⟨first, rest⟩ := List.pairwise_cons.1 h
    by_cases before : delta n e.cell < delta n d.cell
    · refine ⟨[], d :: ds, rfl, if_pos before, nofun, fun a ha => ?_⟩
      rcases List.mem_cons.1 ha with rfl | ha
      · exact before
      · exact Nat.lt_of_lt_of_le before (first a ha)
    · obtain ⟨near, far, all, inserted, low, high⟩ := ih rest
      refine ⟨d :: near, far, by rw [all]; rfl, ?_, fun a ha => ?_, high⟩
      · exact (if_neg before).trans (by rw [inserted]; rfl)
      · rcases List.mem_cons.1 ha with rfl | ha
        · exact Nat.not_lt.1 before
        · exact low a ha

/-- Entries in order with one put between the nearer and the farther are in order. -/
theorem pairwise_inserted {n : Count} {e : QueueEntry} {near far : List QueueEntry}
    (h : (near ++ far).Pairwise fun a b => (a.cell - n).toNat ≤ (b.cell - n).toNat)
    (low : ∀ a, a ∈ near → (a.cell - n).toNat ≤ (e.cell - n).toNat)
    (high : ∀ a, a ∈ far → (e.cell - n).toNat < (a.cell - n).toNat) :
    (near ++ e :: far).Pairwise fun a b => (a.cell - n).toNat ≤ (b.cell - n).toNat := by
  obtain ⟨nears, fars, across⟩ := List.pairwise_append.1 h
  refine List.pairwise_append.2 ⟨nears, List.pairwise_cons.2 ⟨fun a ha => Nat.le_of_lt (high a ha), fars⟩,
    fun a ha b hb => ?_⟩
  rcases List.mem_cons.1 hb with rfl | hb
  · exact low a ha
  · exact across a ha b hb

/-! ### The application of an entry (R135 to R137, R141) -/

/-- No owner's act touches the queue. -/
theorem applyCmd_queue (cmd : TimedCmd) (m : Mask) (l : LinkId) (count : Count) (s : State) :
    (applyCmd cmd m l count s).state.queue = s.queue := by
  cases cmd with
  | label v lab => rfl
  | text v chars => rfl
  | freqlist codes => rfl
  | neighbour slot identity freq carriers link chars =>
    simp only [applyCmd, applyNeighbour]
    split <;> rfl
  | neighbourFlags slot flags =>
    simp only [applyCmd, applyNeighbourFlags]
    split
    · rfl
    · split <;> rfl
  | optoutBegin =>
    simp only [applyCmd, applyOptoutBegin]
    split <;> rfl
  | optoutEnd => rfl
  | setInterval sv v => rfl
  | claim number cls priority group hold wait =>
    simp only [applyCmd, applyClaim]
    generalize hn : (Newcomer.mk _ _ _ _ _ _ _ _) = n
    have tables := (admit_tables n count s).queue
    split <;> next e => rw [e] at tables; exact tables
  | release number =>
    simp only [applyCmd, applyRelease]
    split <;> rfl
  | tmsgAdd key content reps spacing =>
    simp only [applyCmd, applyTmsgAdd]
    split
    · rfl
    · split <;> rfl
  | tmsgCancel key =>
    simp only [applyCmd, applyTmsgCancel]
    split <;> rfl

theorem applyEntry_eq (late : Bool) (n : Count) (e : QueueEntry) (s : State) {a : Answer}
    (ha : a = applyCmd e.cmd e.target e.link n s) : applyEntry late n e s =
      { a.state with
        links := if a.status.isRefusal then
            a.state.links.modify e.link fun k => { k with
              counters := { k.counters with timedFailures := satInc k.counters.timedFailures } }
          else a.state.links
        queue := { a.state.queue with
          results := a.state.queue.results.set e.link
            (some { tag := e.tag, cmd := e.cmd.cmd, status := a.status, count := n })
          counters := { a.state.queue.counters with
            applied := satInc a.state.queue.counters.applied
            failed := if a.status.isRefusal then satInc a.state.queue.counters.failed
              else a.state.queue.counters.failed
            appliedLate := if late then satInc a.state.queue.counters.appliedLate
              else a.state.queue.counters.appliedLate } } } := by
  subst ha
  unfold applyEntry
  cases hr : (applyCmd e.cmd e.target e.link n s).status.isRefusal <;> simp only [hr] <;> rfl

/-- What the application of `ds`, in this order, makes of the queue: `q` has become `t`. -/
structure Applied (n : Count) (ds : List Due) (q t : Queue) : Prop where
  entries : t.entries = q.entries
  applied : t.counters.applied = satAdd q.counters.applied ds.length
  appliedLate : t.counters.appliedLate = satAdd q.counters.appliedLate (ds.countP Due.late)
  discarded : t.counters.discarded = q.counters.discarded
  untouched : ∀ l, (∀ d, d ∈ ds → d.entry.link ≠ l) → t.results.get l = q.results.get l
  recorded : ∀ before d later, ds = before ++ d :: later → (∀ f, f ∈ later → f.entry.link ≠ d.entry.link) →
    ∃ status, t.results.get d.entry.link =
      some { tag := d.entry.tag, cmd := d.entry.cmd.cmd, status := status, count := n }

theorem Applied.refl (n : Count) (q : Queue) : Applied n [] q q where
  entries := rfl
  applied := (satAdd_zero _).symm
  appliedLate := (satAdd_zero _).symm
  discarded := rfl
  untouched _ _ := rfl
  recorded before _ _ h := by cases before <;> cases h

/-- An entry applied, then the others. -/
theorem Applied.cons {n : Count} {d : Due} {ds : List Due} {s : State} {t : Queue}
    (h : Applied n ds (applyEntry d.late n d.entry s).queue t) : Applied n (d :: ds) s.queue t := by
  have queue := applyCmd_queue d.entry.cmd d.entry.target d.entry.link n s
  obtain ⟨a, ha⟩ : ∃ a, a = applyCmd d.entry.cmd d.entry.target d.entry.link n s := ⟨_, rfl⟩
  have step := congrArg State.queue (applyEntry_eq d.late n d.entry s ha)
  rw [← ha] at queue
  simp only [queue] at step
  obtain ⟨entries, applied, appliedLate, discarded, untouched, recorded⟩ := h
  rw [step] at entries applied appliedLate discarded untouched
  have counted : (if d.late then satInc s.queue.counters.appliedLate else s.queue.counters.appliedLate) =
      satIncIf d.late s.queue.counters.appliedLate := rfl
  refine ⟨entries, applied.trans (satAdd_satInc ..), ?_, discarded, fun l other => ?_, fun before e later split last => ?_⟩
  · simp only [counted] at appliedLate
    rw [appliedLate, satAdd_satIncIf, List.countP_cons]
    cases d.late <;> rfl
  · rw [untouched l fun e he => other e (List.mem_cons_of_mem _ he)]
    exact Table.get_set_ne _ _ (other d List.mem_cons_self)
  · cases before with
    | nil =>
      obtain ⟨rfl, rfl⟩ := List.cons.inj split
      refine ⟨a.status, (untouched _ last).trans (Table.get_set_self ..)⟩
    | cons b before => exact recorded before e later (List.cons.inj split).2 last

/-! ### The changes that meet at a boundary (R99) -/

theorem pickChange_lt (o : Order) {n : Nat} (h : 0 < n) (s : State) : (pickChange o n s).1 < n := by
  unfold pickChange
  split
  · exact h
  · cases o with
    | free => exact Nat.mod_lt _ h
    | expiriesFirst => exact h

theorem pickChange_queue (o : Order) (n : Nat) (s : State) : (pickChange o n s).2.queue = s.queue := by
  unfold pickChange
  split
  · rfl
  · cases o <;> rfl

theorem takeChanges_succ_change {o : Order} {count : Count} {fuel : Nat} {timed : List Due} {others : List Change}
    {s : State} {ch : Change} {i : Nat} {u : State}
    (hi : pickChange o (others.length + if timed.isEmpty then 0 else 1) s = (i, u)) (h : others[i]? = some ch) :
    takeChanges o count (fuel + 1) timed others s =
      takeChanges o count fuel timed (others.eraseIdx i) (takeChange count ch u) := by
  simp only [takeChanges, hi, h]

theorem takeChanges_succ_entry {o : Order} {count : Count} {fuel : Nat} {d : Due} {ds : List Due}
    {others : List Change} {s : State} {i : Nat} {u : State} (hi : pickChange o (others.length + 1) s = (i, u))
    (h : others[i]? = none) : takeChanges o count (fuel + 1) (d :: ds) others s =
      takeChanges o count fuel ds others (applyEntry d.late count d.entry u) := by
  have hi' : pickChange o (others.length + if (d :: ds).isEmpty then 0 else 1) s = (i, u) := hi
  simp only [takeChanges, hi', h]

/-- However the changes and the entries are interleaved, the queue sees the entries in their order. -/
theorem takeChanges_applied (o : Order) (n : Count) : ∀ (fuel : Nat) (timed : List Due) (others : List Change)
    (s : State), timed.length + others.length ≤ fuel →
      Applied n timed s.queue (takeChanges o n fuel timed others s).queue := by
  intro fuel
  induction fuel with
  | zero =>
    intro timed others s enough
    have none : timed = [] := List.eq_nil_of_length_eq_zero (by omega)
    subst none
    exact .refl n s.queue
  | succ fuel ih =>
    intro timed others s enough
    obtain ⟨i, u, hi⟩ : ∃ i u, pickChange o (others.length + if timed.isEmpty then 0 else 1) s = (i, u) := ⟨_, _, rfl⟩
    have queue : u.queue = s.queue := by rw [← pickChange_queue o _ s, hi]
    cases h : others[i]? with
    | some ch =>
      rw [takeChanges_succ_change hi h, ← queue, ← (takeChange_tables n ch u).queue]
      refine ih _ _ _ ?_
      have inside : i < others.length := by
        refine Classical.byContradiction fun out => ?_
        rw [List.getElem?_eq_none (Nat.not_lt.1 out)] at h
        cases h
      rw [List.length_eraseIdx_of_lt inside]
      omega
    | none =>
      have outside : others.length ≤ i := List.getElem?_eq_none_iff.1 h
      cases timed with
      | nil =>
        have none : others = [] := by
          refine Classical.byContradiction fun some => ?_
          have picked := pickChange_lt o (n := others.length + 0) (by
            have := List.length_pos_iff.2 some
            omega) s
          have hi' : pickChange o (others.length + 0) s = (i, u) := hi
          rw [hi'] at picked
          exact absurd picked (Nat.not_lt.2 outside)
        subst none
        have rest : takeChanges o n (fuel + 1) [] [] s = s := rfl
        rw [rest]
        exact .refl n s.queue
      | cons d ds =>
        rw [takeChanges_succ_entry hi h, ← queue]
        exact .cons (ih _ _ _ (by simp only [List.length_cons] at enough; omega))

/-- Entries alone are applied one after the other. -/
theorem takeChanges_timed (o : Order) (n : Count) : ∀ (ds : List Due) (s : State),
    takeChanges o n ds.length ds [] s = ds.foldl (fun u d => applyEntry d.late n d.entry u) s := by
  intro ds
  induction ds with
  | nil => exact fun _ => rfl
  | cons d ds ih =>
    intro s
    refine (takeChanges_succ_entry (i := 0) (u := s) ?_ rfl).trans (ih _)
    simp [pickChange]

/-- What the table changes of a boundary make of the queue that the entries taken have left. -/
theorem tableChanges_applied (o : Order) (expected new : Count) (s : State) {timed : List Due} {u : State}
    (h : takeEntries expected new s = (timed, u)) :
    Applied new timed u.queue (tableChanges o expected new s).queue := by
  have e : tableChanges o expected new s =
      takeChanges o new (timed.length + (changes u).length) timed (changes u) u := by
    unfold tableChanges
    rw [h]
  rw [e]
  exact takeChanges_applied o new _ _ _ _ (Nat.le_refl _)

theorem boundaryAt_queue (o : Order) (expected new : Count) (arm : Option Count) (marked : Bool) (s : State) :
    (boundaryAt o expected new arm marked s).queue =
      (tableChanges o expected new (beforeTables expected new arm marked s)).queue := by
  rw [boundaryAt_eq, beginBits_queue, selectMonitor_queue, gainTokens_queue, (compareNeighbours_same _ _).queue,
    (fillCells_same _).queue, beforeCells, commitTexts_queue, holdPool_queue, updateSources_queue]

/-! ### The entries a boundary takes -/

theorem takeEntries_onTime (n : Count) (s : State) : takeEntries n n s =
    ((s.queue.entries.filter fun e => e.cell == n).map (Due.mk false),
      s.setEntries (s.queue.entries.filter fun e => e.cell != n)) := if_pos rfl

theorem takeEntries_discards {expected new : Count} (s : State) (jump : new ≠ expected)
    (far : 36000 < delta expected new) : takeEntries expected new s = ([], (s.setEntries []).modQueueCounters fun k =>
      { k with discarded := satAdd k.discarded s.queue.entries.length }) := by
  refine (if_neg jump).trans ?_
  rw [takeLate, if_pos far]
  rfl

theorem takeEntries_late {expected new : Count} (s : State) (jump : new ≠ expected)
    (near : delta expected new ≤ 36000) : takeEntries expected new s =
      ((s.queue.entries.filter fun e => decide (delta (expected - 1) e.cell ≤ delta expected new)).map (Due.mk true) ++
          ((s.queue.entries.filter fun e => decide (delta expected new < delta (expected - 1) e.cell)).filter
            fun e => e.cell == new).map (Due.mk false),
        s.setEntries ((s.queue.entries.filter fun e =>
          decide (delta expected new < delta (expected - 1) e.cell)).filter fun e => e.cell != new)) := by
  refine (if_neg jump).trans ?_
  rw [takeLate, if_neg (Nat.not_lt.2 near)]
  rfl

/-- Entries of a boundary by whether each is late, and the entries alone. -/
theorem Applied.of_entries {n : Count} {ds : List Due} {q t : Queue} (h : Applied n ds q t) {es : List QueueEntry}
    (he : ds.map Due.entry = es) : (∀ l, (∀ e, e ∈ es → e.link ≠ l) → t.results.get l = q.results.get l) ∧
      ∀ before e later, es = before ++ e :: later → (∀ f, f ∈ later → f.link ≠ e.link) →
        ∃ status, t.results.get e.link = some { tag := e.tag, cmd := e.cmd.cmd, status := status, count := n } := by
  subst he
  refine ⟨fun l other => h.untouched l fun d hd => other d.entry (List.mem_map_of_mem hd), fun before e later split last => ?_⟩
  obtain ⟨before', tail, rfl, rfl, rest⟩ := List.map_eq_append_iff.1 split
  obtain ⟨d, later', rfl, rfl, rfl⟩ := List.map_eq_cons_iff.1 rest
  exact h.recorded before' d later' rfl fun f hf => last f.entry (List.mem_map_of_mem hf)

theorem map_entry_mk (late : Bool) (es : List QueueEntry) : (es.map (Due.mk late)).map Due.entry = es := by
  rw [List.map_map]
  exact List.map_id _

theorem countP_late_mk (late : Bool) (es : List QueueEntry) :
    (es.map (Due.mk late)).countP Due.late = if late then es.length else 0 := by
  rw [List.countP_map]
  cases late with
  | true => exact congrFun List.countP_true es
  | false => exact congrFun List.countP_false es

/-- With no change asked for, a boundary without a jump applies its entries one after the other. -/
theorem tableChanges_entries (o : Order) (n : Count) {s : State} (quiet : ∀ x, ¬ s.asks x) : tableChanges o n n s =
    (s.queue.entries.filter fun e => e.cell == n).foldl (fun u e => applyEntry false n e u)
      (s.setEntries (s.queue.entries.filter fun e => e.cell != n)) := by
  have none : changes (s.setEntries (s.queue.entries.filter fun e => e.cell != n)) = [] :=
    (changes_congr rfl rfl rfl).trans ((changes_eq_nil s).2 quiet)
  unfold tableChanges
  rw [takeEntries_onTime]
  simp only [none, List.length_nil, Nat.add_zero]
  rw [takeChanges_timed, List.foldl_map]

/-- The queue's part of a boundary that discards every entry (§8.3). -/
theorem discardAll_queue (b : State) :
    ((b.setEntries []).modQueueCounters fun k =>
      { k with discarded := satAdd k.discarded b.queue.entries.length }).queue =
    { b.queue with
      entries := []
      counters := { b.queue.counters with discarded := satAdd b.queue.counters.discarded b.queue.entries.length } } := rfl

/-- Settles O24: the order, the application, and boundaries without and with a jump. -/
theorem entriesAreQueuedAndApplied : Obligations.EntriesAreQueuedAndApplied := by
  refine ⟨fun n e es sorted => ?_, fun late n e s a ha => applyEntry_eq late n e s ha, ?_,
    fun o n s quiet => tableChanges_entries o n quiet, ?_⟩
  · obtain ⟨near, far, all, inserted, low, high⟩ := insertEntry_split n e sorted
    subst all
    exact ⟨near, far, rfl, inserted, low, high, by rw [inserted]; exact pairwise_inserted sorted low high⟩
  · intro s t n due rest running free unarmed hn row hdue hrest
    obtain rfl := Host.Outcome.next.inj row
    have start : s.tb.start ≠ .afterPowerOn := by rw [running]; nofun
    have expected : s.tb.expected = n := (Timebase.expected_running start).trans hn.symm
    have next := Timebase.decideNext_advances (mode := s.settings.mode) free (by
      cases mode : s.settings.mode with
      | slave => exact .inl rfl
      | master => exact .inr (.inl (unarmed mode)))
    have entries : (beforeTables n n s.tb.arm s.tb.markNext.isSome s).queue = s.queue := beforeTables_entries ..
    have taken := takeEntries_onTime n (beforeTables n n s.tb.arm s.tb.markNext.isSome s)
    rw [entries, ← hdue, ← hrest] at taken
    have run := tableChanges_applied .free n n _ taken
    rw [← boundaryAt_queue, ← expected] at run
    have whole : boundary .free s =
        boundaryAt .free s.tb.expected s.tb.expected s.tb.arm s.tb.markNext.isSome s := by rw [boundary_eq, next]
    rw [← whole, expected] at run
    obtain ⟨untouched, recorded⟩ := run.of_entries (map_entry_mk false due)
    have queue : ((beforeTables n n s.tb.arm s.tb.markNext.isSome s).setEntries rest).queue =
        { s.queue with entries := rest } := by rw [← entries]; rfl
    rw [queue] at run untouched
    refine ⟨run.entries, ?_, ?_, run.discarded, untouched, recorded⟩
    · rw [run.applied, List.length_map]
    · rw [run.appliedLate, countP_late_mk]
      exact satAdd_zero _
  · intro s t v d late due running decided jump hd row hlate hdue
    obtain rfl := Host.Outcome.next.inj row
    have start : s.tb.start ≠ .afterPowerOn := by rw [running]; nofun
    have expected := Timebase.expected_running start
    obtain ⟨arm, next⟩ : ∃ arm, s.tb.decideNext s.settings.mode = (v, arm) := by
      rcases decided with marked | ⟨free, master, armed, epoch⟩
      · exact ⟨_, Timebase.decideNext_marked marked⟩
      · rw [master, Timebase.decideNext_epoch free (by rw [expected]; exact epoch), armed]
        exact ⟨_, rfl⟩
    have distance : delta (s.tb.count + 1) v = d := hd.symm
    have last : s.tb.count + 1 - 1 = s.tb.count := BitVec.add_sub_cancel ..
    have entries : (beforeTables (s.tb.count + 1) v arm s.tb.markNext.isSome s).queue = s.queue :=
      beforeTables_entries ..
    have whole : (boundary .free s).queue = (tableChanges .free (s.tb.count + 1) v
        (beforeTables (s.tb.count + 1) v arm s.tb.markNext.isSome s)).queue := by
      rw [boundary_eq, next, expected, boundaryAt_queue]
    refine ⟨fun far => ?_, fun near => ?_⟩
    · have run := tableChanges_applied .free (s.tb.count + 1) v _
        (takeEntries_discards (beforeTables (s.tb.count + 1) v arm s.tb.markNext.isSome s) jump (by rw [distance]; exact far))
      rw [← whole] at run
      rw [discardAll_queue, entries] at run
      refine ⟨run.entries, Table.eq_of_get fun l => run.untouched l nofun, ?_, ?_, run.discarded⟩
      · exact run.applied.trans (satAdd_zero _)
      · exact run.appliedLate.trans (satAdd_zero _)
    · have taken := takeEntries_late (beforeTables (s.tb.count + 1) v arm s.tb.markNext.isSome s) jump
        (by rw [distance]; exact near)
      rw [entries, distance, last] at taken
      have onTime : ((s.queue.entries.filter fun e => decide (d < delta s.tb.count e.cell)).filter fun e => e.cell == v) =
          s.queue.entries.filter fun e => decide (d < (e.cell - s.tb.count).toNat) && e.cell == v := by
        rw [List.filter_filter]
        exact List.filter_congr fun e _ => Bool.and_comm ..
      have left : ((s.queue.entries.filter fun e => decide (d < delta s.tb.count e.cell)).filter fun e => e.cell != v) =
          s.queue.entries.filter fun e => decide (d < (e.cell - s.tb.count).toNat) && e.cell != v := by
        rw [List.filter_filter]
        exact List.filter_congr fun e _ => Bool.and_comm ..
      have lates : (s.queue.entries.filter fun e => decide (delta s.tb.count e.cell ≤ d)) = late := hlate.symm
      rw [onTime, left, lates] at taken
      have run := tableChanges_applied .free (s.tb.count + 1) v _ taken
      rw [← whole] at run
      have all : (late.map (Due.mk true) ++ (s.queue.entries.filter fun e =>
          decide (d < (e.cell - s.tb.count).toNat) && e.cell == v).map (Due.mk false)).map Due.entry = due := by
        rw [List.map_append, map_entry_mk, map_entry_mk, hdue]
      obtain ⟨untouched, recorded⟩ := run.of_entries all
      generalize (s.queue.entries.filter fun e => decide (d < (e.cell - s.tb.count).toNat) && e.cell != v) = rest at *
      have queue : ((beforeTables (s.tb.count + 1) v arm s.tb.markNext.isSome s).setEntries rest).queue =
          { s.queue with entries := rest } := by rw [← entries]; rfl
      rw [queue] at run untouched
      refine ⟨run.entries, run.discarded, ?_, ?_, untouched, recorded⟩
      · rw [run.appliedLate, List.countP_append, countP_late_mk, countP_late_mk]
        rfl
      · have lengths := congrArg List.length all
        rw [List.length_map] at lengths
        rw [run.applied, lengths]

end Sys2Proof.Machine

/-! PROOFS. EPOCH strobes near a boundary: marks, aligned strobes and jumps inside a cell (R28, R29, R33, R34, R139). -/

namespace Sys2Proof.Machine

/-! ### The nearest epoch (R29) -/

theorem Timebase.nearestEpoch_toNat (c : Count) :
    (Timebase.nearestEpoch c).toNat = (c.toNat + 512) / 1024 * 1024 % 16777216 :=
  BitVec.toNat_ofNat ..

theorem Timebase.nearestEpoch_near (c : Count) : (Timebase.nearestEpoch c).toNat % 1024 = 0 ∧
    ((Timebase.nearestEpoch c - c).toNat ≤ 512 ∨ (c - Timebase.nearestEpoch c).toNat < 512) := by
  have top := c.isLt
  have nearest := Timebase.nearestEpoch_toNat c
  rw [BitVec.toNat_sub, BitVec.toNat_sub]
  omega

/-! ### Entries applied late (R139, R141) -/

theorem takeLate_far {last : Count} {d : Nat} (s : State) (far : 36000 < d) : takeLate last d s =
    ([], (s.setEntries []).modQueueCounters fun k =>
      { k with discarded := satAdd k.discarded s.queue.entries.length }) := if_pos far

theorem takeLate_near {last : Count} {d : Nat} (s : State) (near : d ≤ 36000) : takeLate last d s =
    (s.queue.entries.filter fun e => decide (delta last e.cell ≤ d),
      s.setEntries (s.queue.entries.filter fun e => decide (d < delta last e.cell))) := if_neg (Nat.not_lt.2 near)

theorem applyLate_applied (n : Count) : ∀ (es : List QueueEntry) (s : State),
    Applied n (es.map (Due.mk true)) s.queue (applyLate n es s).queue := by
  intro es
  induction es with
  | nil => exact fun s => .refl n s.queue
  | cons e es ih => exact fun s => .cons (d := ⟨true, e⟩) (ih (applyEntry true n e s))

theorem applyLate_same (n : Count) : ∀ (es : List QueueEntry) (s : State), SameOutside s (applyLate n es s) := by
  intro es
  induction es with
  | nil => exact fun s => .refl s
  | cons e es ih => exact fun s => (applyEntry_same true n e s).trans (ih _)

/-- Every record of the pool is eligible from count `n`. -/
def State.freshAt (n : Count) (s : State) : Prop := ∀ r, r ∈ s.pool.records → r.nextEligible = .replicate 4 n

theorem applyTmsgAdd_freshAt {n : Count} (key : Word) (content : BitVec 48) (reps spacing : Nat) (m : Mask) {s : State}
    (h : s.freshAt n) : (applyTmsgAdd key content reps spacing m n s).state.freshAt n := by
  simp only [applyTmsgAdd]
  split
  next i _ =>
    intro r hr
    rcases List.mem_or_eq_of_mem_set hr with old | rfl
    · exact h r old
    · rfl
  next =>
    split
    · intro r hr
      rcases List.mem_append.1 hr with old | new
      · exact h r old
      · rw [List.mem_singleton.1 new]
        rfl
    · exact h

theorem applyTmsgCancel_freshAt {n : Count} (key : Word) {s : State} (h : s.freshAt n) :
    (applyTmsgCancel key s).state.freshAt n := by
  simp only [applyTmsgCancel]
  split
  · exact h
  · exact fun r hr => h r (List.mem_of_mem_eraseIdx hr)

/-- An owner's act adds no record of another count. -/
theorem applyCmd_freshAt {n : Count} (cmd : TimedCmd) (m : Mask) (l : LinkId) {s : State} (h : s.freshAt n) :
    (applyCmd cmd m l n s).state.freshAt n := by
  cases cmd with
  | tmsgAdd key content reps spacing => exact applyTmsgAdd_freshAt key content reps spacing m h
  | tmsgCancel key => exact applyTmsgCancel_freshAt key h
  | label v lab => exact h
  | text v chars => exact h
  | freqlist codes => exact h
  | neighbour slot identity freq carriers link chars =>
    simp only [applyCmd, applyNeighbour]
    split <;> exact h
  | neighbourFlags slot flags =>
    simp only [applyCmd, applyNeighbourFlags]
    split
    · exact h
    · split <;> exact h
  | optoutBegin =>
    simp only [applyCmd, applyOptoutBegin]
    split <;> exact h
  | optoutEnd => exact h
  | setInterval sv v => exact h
  | claim number cls priority group hold wait =>
    simp only [applyCmd, applyClaim]
    generalize hn : (Newcomer.mk _ _ _ _ _ _ _ _) = new
    have pool := (admit_tables new n s).pool
    split
    all_goals
      next e =>
        rw [e] at pool
        exact fun r hr => h r (by rw [← pool]; exact hr)
  | release number =>
    simp only [applyCmd, applyRelease]
    split <;> exact h

theorem applyEntry_freshAt {n : Count} (late : Bool) (e : QueueEntry) {s : State} (h : s.freshAt n) :
    (applyEntry late n e s).freshAt n := by
  rw [applyEntry_eq late n e s rfl]
  exact applyCmd_freshAt e.cmd e.target e.link h

theorem applyLate_freshAt {n : Count} : ∀ (es : List QueueEntry) {s : State}, s.freshAt n →
    (applyLate n es s).freshAt n := by
  intro es
  induction es with
  | nil => exact fun h => h
  | cons e es ih => exact fun h => ih (applyEntry_freshAt true e h)

/-! ### The jump (R33, R81) -/

theorem noteJump_eq (new : Count) (s : State) : noteJump new s =
    { s with
      tb := s.tb.countJump
      store := { s.store with
        faults := s.store.faults ||| 4
        alert := decide ((s.store.faults ||| 4) &&& s.settings.alertMask ≠ 0) }
      pool := { s.pool with records := s.pool.records.map fun r => { r with nextEligible := .replicate 4 new } } } := by
  have store := raiseFault_store .timebaseJump (s.modTb Timebase.countJump)
  have raised : noteJump new s =
      { s with
        tb := s.tb.countJump
        store := ((s.modTb Timebase.countJump).raiseFault .timebaseJump).store
        pool := { s.pool with records := s.pool.records.map fun r =>
          { r with nextEligible := .replicate 4 new } } } := rfl
  rw [raised, store]
  rfl

/-! ### The strobe in the first and in the last bit period (R28, R29, R34) -/

/-- The timebase of a strobe that moves the count of the cell in progress to `v`, the jump counted. -/
def Timebase.strobed (v : Count) (t : Timebase) : Timebase :=
  { t with
    count := v, markThis := true, arm := none
    epout := t.epout || !Timebase.isEpoch t.count
    epoutEnds := if !Timebase.isEpoch t.count then 2 else t.epoutEnds
    counters := { t.counters with jumps := satInc t.counters.jumps } }

/-- The state in which the entries of a jump to `v` are taken. -/
def State.strobed (v : Count) (s : State) : State :=
  { s with
    tb := s.tb.strobed v
    store := { s.store with
      faults := s.store.faults ||| 4
      alert := decide ((s.store.faults ||| 4) &&& s.settings.alertMask ≠ 0) }
    pool := { s.pool with records := s.pool.records.map fun r => { r with nextEligible := .replicate 4 v } } }

theorem State.strobed_freshAt (v : Count) (s : State) : (s.strobed v).freshAt v := by
  intro r hr
  obtain ⟨old, _, rfl⟩ := List.mem_map.1 hr
  rfl

section
variable {s : State} (hears : listens s = true)
include hears

theorem exec_epochStrobe_first (h : s.tb.bitPos = 0) : exec .epochStrobe s = .next (strobeFirstBit s) :=
  congrArg Host.Outcome.next ((if_pos hears).trans (if_pos h))

theorem exec_epochStrobe_last (h : s.tb.bitPos = 113) : exec .epochStrobe s = .next (strobeLastBit s) :=
  congrArg Host.Outcome.next ((if_pos hears).trans ((if_neg (by omega)).trans (if_neg (by omega))))

end

theorem strobeFirstBit_marked {s : State} (h : s.tb.markThis = true) : strobeFirstBit s = countAligned s := if_pos h

theorem strobeFirstBit_aligned {s : State} (h : s.tb.markThis = false)
    (same : s.tb.strobeCount s.tb.count = s.tb.count) :
    strobeFirstBit s = countAligned (s.modTb fun t => { t with markThis := true, arm := none }) :=
  (if_neg (Bool.eq_false_iff.1 h)).trans (if_pos same)

theorem strobeFirstBit_jumps {s : State} {v : Count} (h : s.tb.markThis = false)
    (hv : v = s.tb.strobeCount s.tb.count) (jump : v ≠ s.tb.count) {late : List QueueEntry} {u : State}
    (taken : takeLate s.tb.count (delta s.tb.count v) (s.strobed v) = (late, u)) :
    strobeFirstBit s = applyLate v late u := by
  subst hv
  refine (if_neg (Bool.eq_false_iff.1 h)).trans ((if_neg jump).trans ?_)
  simp only [noteJump_eq]
  exact congrArg (fun p : List QueueEntry × State => applyLate _ p.1 p.2) taken

theorem strobeLastBit_marked {s : State} (h : s.tb.markNext ≠ none) : strobeLastBit s = countAligned s :=
  if_pos (Option.isSome_iff_ne_none.2 h)

theorem strobeLastBit_marks {s : State} {v : Count} (h : s.tb.markNext = none)
    (hv : v = s.tb.strobeCount (s.tb.count + 1)) : strobeLastBit s = { s with
      tb := { (if v = s.tb.count + 1 then (countAligned s).tb else s.tb) with markNext := some v, arm := none } } := by
  subst hv
  refine (if_neg (by rw [h]; exact Bool.false_ne_true)).trans ?_
  by_cases same : s.tb.strobeCount (s.tb.count + 1) = s.tb.count + 1
  · simp only [if_pos same]
    rfl
  · simp only [if_neg same]
    rfl

theorem isEpoch_iff (c : Count) : Timebase.isEpoch c = true ↔ c.toNat % 1024 = 0 := beq_iff_eq

/-- Settles O42: near a boundary, a strobe in the first bit period and one in the last. -/
theorem strobesAreMeasured : Obligations.StrobesAreMeasured := by
  refine ⟨Timebase.nearestEpoch_near, fun s slave running => ?_⟩
  intro aligned
  have hears := (listens_iff s).2 ⟨slave, running⟩
  refine ⟨fun first => ?_, fun last => ?_⟩
  · rw [exec_epochStrobe_first hears first]
    refine ⟨fun marked => congrArg Host.Outcome.next (strobeFirstBit_marked marked),
      fun unmarked same => congrArg Host.Outcome.next (strobeFirstBit_aligned unmarked same), fun v unmarked hv jump => ?_⟩
    obtain ⟨late, u, taken⟩ : ∃ late u,
        takeLate s.tb.count (delta s.tb.count v) (s.strobed v) = (late, u) := ⟨_, _, rfl⟩
    rw [strobeFirstBit_jumps unmarked hv jump taken]
    have before : u.tb = (s.strobed v).tb ∧ u.store = (s.strobed v).store ∧ u.pool = (s.strobed v).pool := by
      rcases Nat.lt_or_ge 36000 (delta s.tb.count v) with far | near
      · rw [takeLate_far _ far] at taken
        obtain ⟨-, rfl⟩ := Prod.mk.inj taken
        exact ⟨rfl, rfl, rfl⟩
      · rw [takeLate_near _ near] at taken
        obtain ⟨-, rfl⟩ := Prod.mk.inj taken
        exact ⟨rfl, rfl, rfl⟩
    obtain ⟨tbBefore, storeBefore, poolBefore⟩ := before
    have tb : (applyLate v late u).tb = s.tb.strobed v := (applyLate_same v late u).tb.trans tbBefore
    have store : (applyLate v late u).store = (s.strobed v).store := (applyLate_same v late u).store.trans storeBefore
    have fresh : u.freshAt v := fun r hr => State.strobed_freshAt v s r (by rw [← poolBefore]; exact hr)
    refine ⟨_, rfl, ?_⟩
    refine ⟨by rw [tb]; rfl, by rw [tb]; rfl, by rw [tb]; rfl, by rw [tb]; exact first, by rw [tb]; rfl,
      fun odd => ?_, fun epoch => ?_, by rw [store]; rfl, applyLate_freshAt late fresh, fun far => ?_,
      fun lates near hlates => ?_⟩
    · have pulse : Timebase.isEpoch s.tb.count = false :=
        Bool.eq_false_iff.2 fun h => odd ((isEpoch_iff _).1 h)
      rw [tb, Timebase.strobed, pulse]
      exact ⟨Bool.or_true _, rfl⟩
    · have still : Timebase.isEpoch s.tb.count = true := (isEpoch_iff _).2 epoch
      rw [tb, Timebase.strobed, still]
      exact ⟨Bool.or_false _, rfl⟩
    · obtain ⟨rfl, rfl⟩ := Prod.mk.inj ((takeLate_far (last := s.tb.count) (s.strobed v) far).symm.trans taken)
      exact ⟨rfl, rfl, rfl⟩
    · obtain ⟨found, rfl⟩ := Prod.mk.inj ((takeLate_near (last := s.tb.count) (s.strobed v) near).symm.trans taken)
      obtain rfl : lates = late := hlates.trans found
      have run := applyLate_applied v lates ((s.strobed v).setEntries
        (s.queue.entries.filter fun e => decide (delta s.tb.count v < delta s.tb.count e.cell)))
      obtain ⟨untouched, recorded⟩ := run.of_entries (map_entry_mk true lates)
      refine ⟨run.entries, ?_, ?_, run.discarded, untouched, recorded, ?_⟩
      · exact run.applied.trans (congrArg _ (List.length_map _))
      · exact run.appliedLate.trans (congrArg _ (countP_late_mk true lates))
      · rw [tb]
        rfl
  · rw [exec_epochStrobe_last hears last]
    exact ⟨fun marked => congrArg Host.Outcome.next (strobeLastBit_marked marked),
      fun v unmarked hv => congrArg Host.Outcome.next (strobeLastBit_marks unmarked hv)⟩

end Sys2Proof.Machine

/-! SUPPORT. The outputs in turn at a boundary: the state in which each makes its choice, and what of it stands after
the boundary (R58, R66, R105). -/

namespace Sys2Proof.Machine

/-! ### What the schedulers keep about every output -/

/-- What an output's choice reads of the others, and the statuses of the claims: the choices and cells of the outputs
keep it, and so do the views and the neighbour comparison. -/
structure SameChoices (s t : State) : Prop where
  settings : t.settings = s.settings
  tb : t.tb = s.tb
  neighbours : t.content.neighbours = s.content.neighbours
  run : ∀ q, (t.lane q).run = (s.lane q).run
  phase : ∀ q, (t.lane q).seq.phase = (s.lane q).seq.phase
  current : ∀ q, (t.lane q).seq.current = (s.lane q).seq.current
  source : ∀ q, (t.out q).source = (s.out q).source

theorem SameChoices.refl (s : State) : SameChoices s s :=
  ⟨rfl, rfl, rfl, fun _ => rfl, fun _ => rfl, fun _ => rfl, fun _ => rfl⟩

theorem SameChoices.trans {s t u : State} (h : SameChoices s t) (k : SameChoices t u) : SameChoices s u :=
  ⟨k.settings.trans h.settings, k.tb.trans h.tb, k.neighbours.trans h.neighbours, fun q => (k.run q).trans (h.run q),
    fun q => (k.phase q).trans (h.phase q), fun q => (k.current q).trans (h.current q),
    fun q => (k.source q).trans (h.source q)⟩

theorem SameChoices.symm {s t : State} (h : SameChoices s t) : SameChoices t s :=
  ⟨h.settings.symm, h.tb.symm, h.neighbours.symm, fun q => (h.run q).symm, fun q => (h.phase q).symm,
    fun q => (h.current q).symm, fun q => (h.source q).symm⟩

theorem SameButCell.choices {p : OutId} {s t : State} (h : SameButCell p s t) : SameChoices s t := by
  obtain ⟨b, seq⟩ := h.seq
  have lane : ∀ q, (t.lane q).run = (s.lane q).run ∧ (t.lane q).seq.phase = (s.lane q).seq.phase ∧
      (t.lane q).seq.current = (s.lane q).seq.current := by
    intro q
    rcases equal_or_other p q with rfl | other
    · exact ⟨h.run, by rw [seq], by rw [seq]⟩
    · rw [h.lane q other]
      exact ⟨rfl, rfl, rfl⟩
  refine ⟨h.settings, h.tb, h.neighbours, fun q => (lane q).1, fun q => (lane q).2.1, fun q => (lane q).2.2, fun q => ?_⟩
  rcases equal_or_other p q with rfl | other
  · exact h.face.source
  · rw [h.out q other]

theorem SameChoices.anOf {s t : State} (h : SameChoices s t) (q : OutId) :
    Sys2Proof.Machine.anOf t q = Sys2Proof.Machine.anOf s q := by
  unfold Sys2Proof.Machine.anOf
  rw [h.run q, h.phase q]

theorem SameChoices.outCfg {s t : State} (h : SameChoices s t) (q : OutId) : t.outCfg q = s.outCfg q :=
  congrArg (fun g : Settings => g.outputs.get q) h.settings

theorem SameChoices.carriedFlags {s t : State} (h : SameChoices s t) (r : Neighbour) :
    Sys2Proof.Machine.carriedFlags t r = Sys2Proof.Machine.carriedFlags s r := by
  unfold Sys2Proof.Machine.carriedFlags
  cases r.link with
  | none => rfl
  | some q =>
    show Flags3.mk _ _ _ = Flags3.mk _ _ _
    rw [h.outCfg q, h.anOf q, h.source q]

theorem SameChoices.carries {s t : State} (h : SameChoices s t) (p : OutId) (slot : SlotId) :
    Sys2Proof.Machine.carries t p slot = Sys2Proof.Machine.carries s p slot := by
  unfold Sys2Proof.Machine.carries
  rw [h.neighbours]

theorem SameChoices.eligible {s t : State} (h : SameChoices s t) (p : OutId) (c : Claim) :
    Sys2Proof.Machine.eligible t p c = Sys2Proof.Machine.eligible s p c := by
  unfold Sys2Proof.Machine.eligible acceptedSet
  rw [h.run p, h.outCfg p, h.source p, h.settings]

theorem SameChoices.statusOn {s t : State} (h : SameChoices s t) (c : Claim) (p : OutId) :
    Sys2Proof.Machine.statusOn t c p = Sys2Proof.Machine.statusOn s c p := by
  unfold Sys2Proof.Machine.statusOn
  rw [h.eligible, h.current]

theorem SameChoices.advanceClaim {s t : State} (h : SameChoices s t) (c : Claim) :
    Sys2Proof.Machine.advanceClaim t c = Sys2Proof.Machine.advanceClaim s c := by
  have status : Sys2Proof.Machine.statusOn t c = Sys2Proof.Machine.statusOn s c := funext fun p => h.statusOn c p
  have onAir : onAirSomewhere t c = onAirSomewhere s c := by
    unfold onAirSomewhere
    refine congrArg outputs.any (funext fun p => ?_)
    rw [status, h.phase p]
  unfold Sys2Proof.Machine.advanceClaim
  rw [status, onAir]

/-! ### The outputs in turn -/

/-- The state once the outputs before number `n` have chosen and fixed their cells. -/
def schedulesTo (held : List Claim) (n : Nat) (s : State) : State :=
  (outputs.take n).foldl (fun s p => schedule held p s) s

theorem schedulesTo_zero (held : List Claim) (s : State) : schedulesTo held 0 s = s := rfl

theorem schedulesTo_succ (held : List Claim) (p : OutId) (s : State) :
    schedulesTo held (p.val + 1) s = schedule held p (schedulesTo held p.val s) := by
  rw [schedulesTo, outputs_take, List.foldl_append]
  rfl

theorem schedulesTo_four (held : List Claim) (s : State) : schedulesTo held 4 s = s.eachOut (schedule held) := rfl

theorem schedulesTo_same (held : List Claim) (s : State) : ∀ n, n ≤ 4 → SameChoices s (schedulesTo held n s) := by
  intro n
  induction n with
  | zero => exact fun _ => .refl s
  | succ n ih =>
    intro bound
    have step := schedulesTo_succ held ⟨n, by omega⟩ s
    rw [step]
    exact (ih (by omega)).trans (schedule_same held _ _).choices

/-- Before its own turn an output stands as the first found it. -/
theorem schedulesTo_before (held : List Claim) (s : State) (p : OutId) : ∀ n, n ≤ p.val →
    (schedulesTo held n s).lane p = s.lane p ∧ (schedulesTo held n s).out p = s.out p := by
  intro n
  induction n with
  | zero => exact fun _ => ⟨rfl, rfl⟩
  | succ n ih =>
    intro bound
    obtain ⟨lane, out⟩ := ih (by omega)
    have other : (⟨n, by omega⟩ : OutId) ≠ p := fun e => by
      have : n = p.val := congrArg Fin.val e
      omega
    have same := schedule_same held ⟨n, by omega⟩ (schedulesTo held n s)
    have step := schedulesTo_succ held ⟨n, by omega⟩ s
    rw [step]
    exact ⟨(same.lane p other).trans lane, (same.out p other).trans out⟩

/-- After its own turn an output stays as its turn left it. -/
theorem schedulesTo_after (held : List Claim) (s : State) (p : OutId) : ∀ n, p.val + 1 ≤ n → n ≤ 4 →
    (schedulesTo held n s).lane p = (schedule held p (schedulesTo held p.val s)).lane p ∧
      (schedulesTo held n s).out p = (schedule held p (schedulesTo held p.val s)).out p := by
  intro n
  induction n with
  | zero => exact fun low => absurd low (by omega)
  | succ n ih =>
    intro low bound
    rcases Nat.lt_or_eq_of_le low with before | here
    · obtain ⟨lane, out⟩ := ih (by omega) (by omega)
      have other : (⟨n, by omega⟩ : OutId) ≠ p := fun e => by
        have : n = p.val := congrArg Fin.val e
        omega
      have same := schedule_same held ⟨n, by omega⟩ (schedulesTo held n s)
      have step := schedulesTo_succ held ⟨n, by omega⟩ s
      rw [step]
      exact ⟨(same.lane p other).trans lane, (same.out p other).trans out⟩
    · rw [← here, schedulesTo_succ]
      exact ⟨rfl, rfl⟩

/-! ### The neighbour comparison -/

/-- The lane of a running output once the neighbour comparison has made its request. -/
def Lane.asked (slot : Option SlotId) (ln : Lane) : Lane :=
  match slot with
  | none => ln
  | some slot => ln.modSched (Scheduler.requestBurst slot)

theorem modSched_choices (p : OutId) (f : Scheduler → Scheduler) (s : State) :
    SameChoices s (s.modLane p (Lane.modSched f)) :=
  (SameButCell.modLane s rfl rfl rfl rfl ⟨_, rfl⟩ : SameButCell p s (s.modLane p (Lane.modSched f))).choices

theorem requestBursts_choices (first : Bool) (p : OutId) (s : State) : SameChoices s (requestBursts first p s) := by
  unfold requestBursts
  split
  · split
    · exact .refl s
    · exact modSched_choices ..
  · exact .refl s

theorem requestBursts_prevAn (first : Bool) (p : OutId) (s : State) :
    (requestBursts first p s).content.prevAn = s.content.prevAn :=
  requestBursts_keeps (fun t => t.content.prevAn) (fun _ _ => rfl) first p s

theorem SameChoices.carriedAn {s t : State} (h : SameChoices s t) :
    Sys2Proof.Machine.carriedAn t = Sys2Proof.Machine.carriedAn s := by
  have flags : (fun r => (Sys2Proof.Machine.carriedFlags t r).an) = fun r => (Sys2Proof.Machine.carriedFlags s r).an :=
    funext fun r => by rw [h.carriedFlags]
  unfold Sys2Proof.Machine.carriedAn
  rw [h.neighbours, flags]

theorem SameChoices.burstRequest {s t : State} (h : SameChoices s t)
    (kept : t.content.prevAn = s.content.prevAn) (first : Bool) (p : OutId) :
    Sys2Proof.Machine.burstRequest t first p = Sys2Proof.Machine.burstRequest s first p := by
  have changed : anChanged t first = anChanged s first := by
    funext slot
    unfold anChanged
    rw [h.carriedAn, kept]
  unfold Sys2Proof.Machine.burstRequest
  rw [changed, h.neighbours]

theorem requestBursts_lane_self (first : Bool) (p : OutId) (s : State) : (requestBursts first p s).lane p =
    if (s.lane p).run then (s.lane p).asked (burstRequest s first p) else s.lane p := by
  unfold requestBursts
  split
  · cases burstRequest s first p with
    | none => rfl
    | some slot => exact State.modLane_lane_self ..
  · rfl

theorem requestBursts_lane_ne (first : Bool) {p q : OutId} (h : q ≠ p) (s : State) :
    (requestBursts first q s).lane p = s.lane p := by
  unfold requestBursts
  split
  · split
    · rfl
    · exact (State.modLane_lane _ q p _).trans (if_neg h)
  · rfl

/-- The lane after the comparison: its scheduler asked for the burst that the state before it calls for. -/
theorem compareNeighbours_asks (first : Bool) (p : OutId) (s : State) : (compareNeighbours first s).lane p =
    if (s.lane p).run then (s.lane p).asked (burstRequest s first p) else s.lane p := by
  obtain ⟨u, before, after⟩ := eachOut_at (fun t => (t.lane p, burstRequest t first p)) (requestBursts first) p
    (fun q t other => Prod.ext (requestBursts_lane_ne first other t) ((requestBursts_choices first q t).burstRequest (requestBursts_prevAn first q t) first p)) s
  obtain ⟨lane, request⟩ := Prod.mk.inj before
  have same : (compareNeighbours first s).lane p = (requestBursts first p u).lane p := (Prod.mk.inj after).1
  rw [same, requestBursts_lane_self, lane, request]

theorem requests_choices (first : Bool) (s : State) : SameChoices s (s.eachOut (requestBursts first)) :=
  eachOut_induct (P := SameChoices s) _ (fun p t h => h.trans (requestBursts_choices first p t)) (.refl s)

theorem compareNeighbours_prevAn (first : Bool) (s : State) :
    (compareNeighbours first s).content.prevAn = carriedAn s :=
  (requests_choices first s).carriedAn

/-! ### The boundary as a whole -/

/-- The state in which the first output makes its choice, from that in which the sequencers begin. -/
def afterViews (u : State) : State := writeViews (advanceClaims (u.eachOut sequence))

/-- The state in which output `p` makes its choice, from that in which the sequencers begin. -/
def turnOf (p : OutId) (u : State) : State := schedulesTo u.claims.table p.val (afterViews u)

theorem fillCells_eq (u : State) : fillCells u = schedulesTo u.claims.table 4 (afterViews u) := by
  rw [schedulesTo_four, ← sequences_claims u]
  rfl

theorem afterViews_settings (u : State) : (afterViews u).settings = u.settings := by
  rw [afterViews, writeViews_settings, advanceClaims_settings]
  exact eachOut_keeps (·.settings) _ (fun q t => sequence_keeps (·.settings) (fun _ _ => rfl) q t) u

theorem afterViews_tb (u : State) : (afterViews u).tb = u.tb := by
  rw [afterViews, writeViews_tb, advanceClaims_tb]
  exact eachOut_keeps (·.tb) _ (fun q t => sequence_keeps (·.tb) (fun _ _ => rfl) q t) u

theorem afterViews_content (u : State) : (afterViews u).content = u.content := by
  rw [afterViews, writeViews_content, advanceClaims_content]
  exact eachOut_keeps (·.content) _ (fun q t => sequence_keeps (·.content) (fun _ _ => rfl) q t) u

theorem afterViews_pool (u : State) : (afterViews u).pool = u.pool := by
  rw [afterViews, writeViews_pool, advanceClaims_pool]
  exact eachOut_keeps (·.pool) _ (fun q t => sequence_keeps (·.pool) (fun _ _ => rfl) q t) u

theorem turnOf_choices (p : OutId) (u : State) : SameChoices (afterViews u) (turnOf p u) :=
  schedulesTo_same _ _ _ (by omega)

theorem turnOf_lane (p : OutId) (u : State) : (turnOf p u).lane p = sequencedLane u p :=
  (schedulesTo_before _ _ p p.val (Nat.le_refl _)).1.trans (views_lane p u)

theorem turnOf_out (p : OutId) (u : State) : (turnOf p u).out p = u.out p :=
  (schedulesTo_before _ _ p p.val (Nat.le_refl _)).2.trans
    (congrArg (fun c : Content => c.outs.get p) (afterViews_content u))

theorem fillCells_turn (p : OutId) (u : State) :
    (fillCells u).lane p = (schedule u.claims.table p (turnOf p u)).lane p ∧
      (fillCells u).out p = (schedule u.claims.table p (turnOf p u)).out p := by
  rw [fillCells_eq]
  exact schedulesTo_after _ _ p 4 (by omega) (Nat.le_refl _)

theorem fillCells_choices (u : State) : SameChoices (afterViews u) (fillCells u) := by
  rw [fillCells_eq]
  exact schedulesTo_same _ _ 4 (Nat.le_refl _)

/-- The cue pins' last stages of a boundary leave all that is read of other outputs. -/
theorem lastStages_choices (u : State) : SameChoices u (beginBits 0 (selectMonitor (gainTokens u))) := by
  have lane : ∀ q, (beginBits 0 (selectMonitor (gainTokens u))).lane q =
      { u.lane q with asm := (u.lane q).asm.beginBit 0 } := fun q => beginBits_lane ..
  exact ⟨rfl, rfl, rfl, fun q => by rw [lane], fun q => by rw [lane], fun q => by rw [lane], fun _ => rfl⟩

theorem keepAn_choices (s : State) : SameChoices s (keepAn s) :=
  ⟨rfl, rfl, rfl, fun _ => rfl, fun _ => rfl, fun _ => rfl, fun _ => rfl⟩

section
variable (o : Order) (expected new : Count) (arm : Option Count) (marked : Bool) (s : State)

theorem boundaryAt_choices : SameChoices (afterViews (beforeCells o expected new arm marked s))
    (boundaryAt o expected new arm marked s) := by
  rw [boundaryAt_eq]
  exact (((fillCells_choices _).trans (requests_choices _ _)).trans (keepAn_choices _)).trans (lastStages_choices _)

/-- What an output reads of the others at its turn is what stands after the boundary. -/
theorem boundaryAt_turn (p : OutId) : SameChoices (turnOf p (beforeCells o expected new arm marked s))
    (boundaryAt o expected new arm marked s) :=
  (turnOf_choices p _).symm.trans (boundaryAt_choices ..)

end

theorem Sequencer.writeView_names (held : List Claim) (q : Sequencer) :
    (q.writeView held).phase = q.phase ∧ (q.writeView held).current = q.current := by
  obtain ⟨v, hv⟩ := writeView_keeps held q
  rw [hv]
  exact ⟨rfl, rfl⟩

theorem writeViews_choices (s : State) : SameChoices s (writeViews s) := by
  have names : ∀ q, ((writeViews s).lane q).run = (s.lane q).run ∧
      ((writeViews s).lane q).seq.phase = (s.lane q).seq.phase ∧
      ((writeViews s).lane q).seq.current = (s.lane q).seq.current := by
    intro q
    rw [writeViews_lane]
    split
    · exact ⟨rfl, Sequencer.writeView_names ..⟩
    · exact ⟨rfl, rfl, rfl⟩
  exact ⟨rfl, rfl, rfl, fun q => (names q).1, fun q => (names q).2.1, fun q => (names q).2.2, fun _ => rfl⟩

theorem advanceClaims_choices (s : State) : SameChoices s (advanceClaims s) :=
  ⟨rfl, rfl, rfl, fun _ => rfl, fun _ => rfl, fun _ => rfl, fun _ => rfl⟩

/-- The sequencers' names stand in the state whose outputs then choose. -/
theorem afterViews_choices (u : State) : SameChoices (u.eachOut sequence) (afterViews u) :=
  (advanceClaims_choices _).trans (writeViews_choices _)

theorem lastStages_claims (u : State) : (beginBits 0 (selectMonitor (gainTokens u))).claims = u.claims := rfl

theorem compareNeighbours_claims (first : Bool) (u : State) : (compareNeighbours first u).claims = u.claims := by
  have kept : ∀ v, (keepAn v).claims = v.claims := fun _ => rfl
  rw [compareNeighbours, kept]
  exact eachOut_keeps (·.claims) _ (fun q t => requestBursts_keeps (·.claims) (fun _ _ => rfl) first q t) u

theorem fillCells_claims (u : State) : (fillCells u).claims = (afterViews u).claims := by
  rw [fillCells_eq, schedulesTo_four]
  exact eachOut_keeps (·.claims) _ (fun q t => (schedule_same _ q t).claims) _

theorem afterViews_claims (u : State) : (afterViews u).claims =
    { u.claims with table := u.claims.table.map (advanceClaim (u.eachOut sequence)) } := by
  have advanced : ∀ v, (advanceClaims v).claims = { v.claims with table := v.claims.table.map (advanceClaim v) } :=
    fun _ => rfl
  rw [afterViews, writeViews_claims, advanced, sequences_claims]

/-- The claims after a boundary: their statuses and times are those of the state after it (R85, R98). -/
theorem boundaryAt_advanced (o : Order) (expected new : Count) (arm : Option Count) (marked : Bool) (s : State) :
    (boundaryAt o expected new arm marked s).claims =
      { (beforeCells o expected new arm marked s).claims with
        table := (beforeCells o expected new arm marked s).claims.table.map
          (advanceClaim (boundaryAt o expected new arm marked s)) } := by
  have same := (afterViews_choices (beforeCells o expected new arm marked s)).trans (boundaryAt_choices ..)
  have advanced : advanceClaim (boundaryAt o expected new arm marked s) =
      advanceClaim ((beforeCells o expected new arm marked s).eachOut sequence) := funext same.advanceClaim
  rw [advanced, ← afterViews_claims, boundaryAt_eq, lastStages_claims, compareNeighbours_claims, fillCells_claims]

/-- The lane of output `p` after a boundary: as its turn left it, asked for a burst where it is in RUN, its first bit
begun. -/
theorem boundaryAt_laneOf (o : Order) (expected new : Count) (arm : Option Count) (marked : Bool) (s : State)
    (p : OutId) {u : State} (hu : u = beforeCells o expected new arm marked s) {sent : Lane}
    (hs : sent = (schedule u.claims.table p (turnOf p u)).lane p) :
    (boundaryAt o expected new arm marked s).lane p =
      { (if sent.run then sent.asked (burstRequest (fillCells u) (s.tb.start != .running) p) else sent) with
        asm := sent.asm.beginBit 0 } := by
  have last : ∀ v : State, (beginBits 0 (selectMonitor (gainTokens v))).lane p =
      { v.lane p with asm := (v.lane p).asm.beginBit 0 } := fun v => beginBits_lane ..
  have pins : ∀ r, (Lane.asked r sent).asm = sent.asm := fun r => by cases r <;> rfl
  rw [boundaryAt_eq, last, ← hu, compareNeighbours_asks, (fillCells_turn p u).1, ← hs]
  split
  · rw [pins]
  · rfl

theorem boundaryAt_outOf (o : Order) (expected new : Count) (arm : Option Count) (marked : Bool) (s : State)
    (p : OutId) {u : State} (hu : u = beforeCells o expected new arm marked s) :
    (boundaryAt o expected new arm marked s).out p = (schedule u.claims.table p (turnOf p u)).out p := by
  have last : ∀ v : State, (beginBits 0 (selectMonitor (gainTokens v))).out p = v.out p := fun _ => rfl
  rw [boundaryAt_eq, last, ← hu, compareNeighbours_out, (fillCells_turn p u).2]

end Sys2Proof.Machine

/-! SUPPORT. An output's turn: what its winner is, and what it sends (R56 to R67). -/

namespace Sys2Proof.Machine

/-! ### The winner's kind, payload, content and records (R66) -/

def Winner.kind : Winner → CellKind
  | .announceBurst => .announce
  | .neighbourBurst _ => .neighbour
  | .service sv => sv.kind
  | .filler => .filler

/-- The payload of a NEIGHBOUR cell from a slot. -/
def slotPayload (s : State) (slot : SlotId) (second : Bool) : List Byte :=
  match s.content.neighbours.get slot with
  | none => List.replicate 8 0
  | some r => neighbourPayload r (carriedFlags s r) second

/-- The payload of the cell of a service. -/
def Service.payload (held : List Claim) (p : OutId) (s : State) : Service → List Byte
  | .announce => announcePayload held (s.lane p).seq
  | .tmsg => ((firstDue s s.tb.count p).map tmsgPayload).getD (List.replicate 8 0)
  | .label => labelPayload (s.out p).commitLabel
  | .freq => freqPayload (s.out p)
  | .neighbour => ((cycleChoice s p).map fun c => slotPayload s c.1 c.2).getD (List.replicate 8 0)
  | .text => textPayload (s.out p)

/-- The payload of the winner's cell. -/
def Winner.payload (held : List Claim) (p : OutId) (s : State) : Winner → List Byte
  | .announceBurst => announcePayload held (s.lane p).seq
  | .neighbourBurst b => slotPayload s b.slot b.second
  | .service sv => sv.payload held p s
  | .filler => fillerPayload s.tb.count

/-- The output's content once a service's cell is fixed. -/
def Service.content (p : OutId) (s : State) : Service → OutContent
  | .announce => s.out p
  | .tmsg => s.out p
  | .label => (s.out p).commitLabel.advanceLabel
  | .freq => (s.out p).advanceFreqs
  | .neighbour => ((cycleChoice s p).map fun c => advanceCycle c.1 c.2 (s.out p)).getD (s.out p)
  | .text => (s.out p).advanceText

/-- The output's content once the winner's cell is fixed. -/
def Winner.content (p : OutId) (s : State) : Winner → OutContent
  | .announceBurst => s.out p
  | .neighbourBurst _ => s.out p
  | .service sv => sv.content p s
  | .filler => s.out p

/-- The pool's records once a cell of kind `k` is fixed. -/
def CellKind.records (p : OutId) (s : State) (k : CellKind) : List PoolRecord :=
  if k = .tmsg then sendFirst s.tb.count p s.pool.records else s.pool.records

/-- A cell of kind `k` fixed: what it makes of lane, content and pool. -/
structure Fixes (p : OutId) (k : CellKind) (payload : List Byte) (content : OutContent) (records : List PoolRecord)
    (s t : State) : Prop where
  lane : t.lane p = { s.lane p with
    asm := { (s.lane p).asm with
      cell := some (makeCell (identityOf s p) (controlByte k (s.outCfg p).tc (anOf s p)
        ((s.out p).source == .regional) content.lv) payload)
      kinds := (s.lane p).asm.kinds.modify k.index satInc } }
  out : t.out p = content
  records : t.pool.records = records

theorem fixCell_does (p : OutId) (k : CellKind) (payload : List Byte) (s : State) :
    Fixes p k payload (s.out p) s.pool.records s (fixCell p k payload s) :=
  ⟨State.modLane_lane_self .., rfl, rfl⟩

/-- Content that changes once the cell is fixed, LV apart. -/
theorem Fixes.modOut {p : OutId} {k : CellKind} {payload : List Byte} {content : OutContent}
    {records : List PoolRecord} {s t : State} (h : Fixes p k payload content records s t) {f : OutContent → OutContent}
    (lv : (f content).lv = content.lv) : Fixes p k payload (f content) records s (t.modOut p f) := by
  refine ⟨?_, by rw [State.modOut_out_self, h.out], h.records⟩
  rw [lv]
  exact h.lane

theorem sendFirst_of_none {c : Count} {p : OutId} : ∀ {rs : List PoolRecord}, rs.find? (due c p) = none →
    sendFirst c p rs = rs := by
  intro rs
  induction rs with
  | nil => exact fun _ => rfl
  | cons r rs ih =>
    intro nothing
    have not := List.find?_eq_none.1 nothing
    rw [sendFirst, if_neg (not r List.mem_cons_self),
      ih (List.find?_eq_none.2 fun q hq => not q (List.mem_cons_of_mem _ hq))]

theorem neighbourCell_does (p : OutId) (slot : SlotId) (second : Bool) (s : State) :
    Fixes p .neighbour (slotPayload s slot second) (s.out p) s.pool.records s (neighbourCell p slot second s) := by
  unfold neighbourCell slotPayload
  cases s.content.neighbours.get slot with
  | none => exact fixCell_does ..
  | some r => exact fixCell_does ..

theorem serviceCell_does (held : List Claim) (p : OutId) (sv : Service) (s : State) :
    Fixes p sv.kind (sv.payload held p s) (sv.content p s) (sv.kind.records p s) s (serviceCell held p sv s) := by
  cases sv with
  | announce => exact fixCell_does ..
  | tmsg =>
    have records : Service.tmsg.kind.records p s = sendFirst s.tb.count p s.pool.records := if_pos rfl
    rw [records]
    simp only [serviceCell, Service.payload]
    cases found : firstDue s s.tb.count p with
    | none =>
      rw [sendFirst_of_none found]
      exact fixCell_does ..
    | some r => exact ⟨State.modLane_lane_self .., rfl, rfl⟩
  | label =>
    have fixed := fixCell_does p .label (labelPayload (s.out p).commitLabel) (s.modOut p OutContent.commitLabel)
    have out : (s.modOut p OutContent.commitLabel).out p = (s.out p).commitLabel := State.modOut_out_self ..
    have source : ((s.modOut p OutContent.commitLabel).out p).source = (s.out p).source := by
      rw [out]
      exact (commitLabel_face _).source
    have identity : identityOf (s.modOut p OutContent.commitLabel) p = identityOf s p := by
      unfold identityOf
      rw [source]
      rfl
    have done := fixed.modOut (f := OutContent.advanceLabel) rfl
    refine ⟨?_, ?_, done.records⟩
    · have lane := done.lane
      rw [identity, source, out] at lane
      simp only [serviceCell]
      rw [out]
      exact lane
    · have content := done.out
      rw [out] at content
      simp only [serviceCell]
      rw [out]
      exact content
  | freq => exact (fixCell_does ..).modOut (f := OutContent.advanceFreqs) rfl
  | neighbour =>
    simp only [serviceCell, Service.payload, Service.content]
    cases cycleChoice s p with
    | none => exact fixCell_does ..
    | some c => exact (neighbourCell_does ..).modOut (advanceCycle_lv ..)
  | text => exact (fixCell_does ..).modOut (f := OutContent.advanceText) rfl

theorem winnerCell_does (held : List Claim) (p : OutId) (w : Winner) (s : State) :
    Fixes p w.kind (w.payload held p s) (w.content p s) (w.kind.records p s) s (winnerCell held p w s) := by
  cases w with
  | announceBurst => exact fixCell_does ..
  | neighbourBurst b => exact neighbourCell_does ..
  | service sv => exact serviceCell_does ..
  | filler => exact fixCell_does ..

/-! ### Before and after the choice (R59 to R65) -/

/-- The scheduler as output `p` finds it at its choice. -/
def Scheduler.prepared (valid : SlotId → Bool) (k : Scheduler) : Scheduler :=
  ((k.advanceAges).startBurst).checkBurst valid

/-- The scheduler's burst once the winner is known. -/
def Winner.burst (w : Winner) (k : Scheduler) : Scheduler :=
  match w with
  | .neighbourBurst b => k.stepBurst b
  | .announceBurst => k
  | .service _ => k
  | .filler => k

/-- The scheduler's entries once the winner is known. -/
def Winner.entry (intervals : Table 6 Nat) (w : Winner) (k : Scheduler) : Scheduler :=
  match w.service? with
  | none => k
  | some sv => k.sendEntry intervals sv

/-- The sequencer once the winner is known: the announce burst has one cell less. -/
def Winner.sequencer (w : Winner) (q : Sequencer) : Sequencer :=
  match w with
  | .announceBurst => { q with burst := q.burst - 1 }
  | .neighbourBurst _ => q
  | .service _ => q
  | .filler => q

theorem beforeChoice_lane (p : OutId) (s : State) : (beforeChoice p s).lane p =
    { s.lane p with sched := (s.lane p).sched.prepared (carries s p) } := State.modLane_lane_self ..

theorem afterChoice_lane (p : OutId) (w : Winner) (s : State) : (afterChoice p w s).lane p =
    { s.lane p with
      seq := w.sequencer (s.lane p).seq
      sched := w.entry (s.outCfg p).intervals (w.burst (s.lane p).sched) } := by
  have e : (afterChoice p w s).lane p = _ := State.modLane_lane_self ..
  rw [e]
  cases w <;> rfl

/-- What a payload reads of an output's own lane and content, and of the pool. -/
structure SameSource (p : OutId) (s t : State) : Prop where
  choices : SameChoices s t
  seq : ∃ b, (t.lane p).seq = { (s.lane p).seq with burst := b }
  out : t.out p = s.out p
  records : t.pool.records = s.pool.records

theorem announcePayload_burst (held : List Claim) (q : Sequencer) (b : Nat) :
    announcePayload held { q with burst := b } = announcePayload held q := rfl

theorem SameSource.slotPayload {p : OutId} {s t : State} (h : SameSource p s t) (slot : SlotId) (second : Bool) :
    Sys2Proof.Machine.slotPayload t slot second = Sys2Proof.Machine.slotPayload s slot second := by
  unfold Sys2Proof.Machine.slotPayload
  rw [h.choices.neighbours]
  cases s.content.neighbours.get slot with
  | none => rfl
  | some r => exact congrArg (neighbourPayload r · second) (h.choices.carriedFlags r)

theorem SameSource.cycleChoice {p : OutId} {s t : State} (h : SameSource p s t) :
    Sys2Proof.Machine.cycleChoice t p = Sys2Proof.Machine.cycleChoice s p := by
  unfold Sys2Proof.Machine.cycleChoice
  rw [h.out, h.choices.neighbours]

theorem SameSource.firstDue {p : OutId} {s t : State} (h : SameSource p s t) (c : Count) :
    Sys2Proof.Machine.firstDue t c p = Sys2Proof.Machine.firstDue s c p := by
  unfold Sys2Proof.Machine.firstDue
  rw [h.records]

theorem SameSource.announce {p : OutId} {s t : State} (h : SameSource p s t) (held : List Claim) :
    announcePayload held (t.lane p).seq = announcePayload held (s.lane p).seq := by
  obtain ⟨b, hb⟩ := h.seq
  rw [hb]
  rfl

theorem SameSource.service_payload {p : OutId} {s t : State} (h : SameSource p s t) (held : List Claim) (sv : Service) :
    sv.payload held p t = sv.payload held p s := by
  cases sv with
  | announce => exact h.announce held
  | tmsg =>
    unfold Service.payload
    simp only
    rw [h.choices.tb, h.firstDue]
  | label => exact congrArg (fun o : OutContent => labelPayload o.commitLabel) h.out
  | freq => exact congrArg freqPayload h.out
  | neighbour =>
    have slots : (fun c : SlotId × Bool => Sys2Proof.Machine.slotPayload t c.1 c.2) =
        fun c => Sys2Proof.Machine.slotPayload s c.1 c.2 := funext fun c => h.slotPayload c.1 c.2
    unfold Service.payload
    simp only
    rw [h.cycleChoice, slots]
  | text => exact congrArg textPayload h.out

theorem SameSource.payload {p : OutId} {s t : State} (h : SameSource p s t) (held : List Claim) (w : Winner) :
    w.payload held p t = w.payload held p s := by
  cases w with
  | announceBurst => exact h.announce held
  | neighbourBurst b => exact h.slotPayload b.slot b.second
  | service sv => exact h.service_payload held sv
  | filler => exact congrArg (fun tb : Timebase => fillerPayload tb.count) h.choices.tb

theorem SameSource.content {p : OutId} {s t : State} (h : SameSource p s t) (w : Winner) :
    w.content p t = w.content p s := by
  have service : ∀ sv : Service, sv.content p t = sv.content p s := by
    intro sv
    unfold Service.content
    rw [h.out, h.cycleChoice]
  cases w with
  | announceBurst => exact h.out
  | neighbourBurst b => exact h.out
  | service sv => exact service sv
  | filler => exact h.out

theorem beforeChoice_source (p : OutId) (s : State) : SameSource p s (beforeChoice p s) :=
  ⟨(beforeChoice_same p s).choices, (beforeChoice_same p s).seq, rfl, rfl⟩

theorem afterChoice_source (p : OutId) (w : Winner) (s : State) : SameSource p s (afterChoice p w s) :=
  ⟨(afterChoice_same p w s).choices, (afterChoice_same p w s).seq, rfl, rfl⟩

theorem SameSource.trans {p : OutId} {s t u : State} (h : SameSource p s t) (k : SameSource p t u) :
    SameSource p s u := by
  refine ⟨h.choices.trans k.choices, ?_, k.out.trans h.out, k.records.trans h.records⟩
  obtain ⟨b, hb⟩ := h.seq
  obtain ⟨b', hb'⟩ := k.seq
  exact ⟨b', by rw [hb', hb]⟩

/-! ### The turn of an output (R56 to R67) -/

/-- The winner of output `p`'s turn. -/
def turnWinner (p : OutId) (s : State) : Winner := winner (beforeChoice p s) p

/-- What output `p`'s turn makes of its lane, its content and the pool. -/
structure Turn (held : List Claim) (p : OutId) (w : Winner) (s t : State) : Prop where
  run : (t.lane p).run = (s.lane p).run
  cell : (t.lane p).asm.cell = some (makeCell (identityOf s p) (controlByte w.kind (s.outCfg p).tc (anOf s p)
    ((s.out p).source == .regional) (w.content p s).lv) (w.payload held p s))
  kinds : (t.lane p).asm.kinds = (s.lane p).asm.kinds.modify w.kind.index satInc
  seq : (t.lane p).seq = w.sequencer (s.lane p).seq
  sched : (t.lane p).sched =
    w.entry (s.outCfg p).intervals (w.burst ((s.lane p).sched.prepared (carries s p)))
  out : t.out p = w.content p s
  records : t.pool.records = w.kind.records p s

theorem schedule_turn (held : List Claim) (p : OutId) (s : State) (run : (s.lane p).run = true) :
    Turn held p (turnWinner p s) s (schedule held p s) := by
  have e : schedule held p s = winnerCell held p (turnWinner p s)
      (afterChoice p (turnWinner p s) (beforeChoice p s)) := if_pos run
  obtain ⟨w, hw⟩ : ∃ w, w = turnWinner p s := ⟨_, rfl⟩
  have source := (beforeChoice_source p s).trans (afterChoice_source p w (beforeChoice p s))
  have lane := afterChoice_lane p w (beforeChoice p s)
  rw [beforeChoice_lane] at lane
  have does := winnerCell_does held p w (afterChoice p w (beforeChoice p s))
  have identity : identityOf (afterChoice p w (beforeChoice p s)) p = identityOf s p := rfl
  have cfg : (beforeChoice p s).outCfg p = s.outCfg p := rfl
  have cfg' : (afterChoice p w (beforeChoice p s)).outCfg p = s.outCfg p := rfl
  rw [e, ← hw]
  obtain ⟨fixed, out, records⟩ := does
  rw [lane, identity, cfg, cfg', source.choices.anOf, source.out, source.payload held w, source.content w] at fixed
  rw [source.content w] at out
  refine ⟨by rw [fixed], by rw [fixed], by rw [fixed], by rw [fixed], by rw [fixed], out, ?_⟩
  exact records

theorem schedule_rests (held : List Claim) (p : OutId) (s : State) (off : (s.lane p).run = false) :
    schedule held p s = s := if_neg (Bool.eq_false_iff.1 off)

end Sys2Proof.Machine

/-! SUPPORT. The outputs after a boundary: run state, cell, sequencer, scheduler and content, each from the output's
turn (R2 to R5, R13, R16, R66). -/

namespace Sys2Proof.Machine

/-! ### The length of a payload -/

theorem slotPayload_length (s : State) (slot : SlotId) (second : Bool) : (slotPayload s slot second).length = 8 := by
  unfold slotPayload
  split
  · rfl
  · exact neighbourPayload_length ..

theorem Service.payload_length (held : List Claim) (p : OutId) (s : State) (sv : Service) :
    (sv.payload held p s).length = 8 := by
  cases sv with
  | announce => exact announcePayload_length ..
  | tmsg =>
    unfold Service.payload
    cases firstDue s s.tb.count p with
    | none => rfl
    | some r => exact tmsgPayload_length r
  | label => exact labelPayload_length _
  | freq => exact freqPayload_length _
  | neighbour =>
    unfold Service.payload
    cases cycleChoice s p with
    | none => rfl
    | some c => exact slotPayload_length ..
  | text => exact textPayload_length _

theorem Winner.payload_length (held : List Claim) (p : OutId) (s : State) (w : Winner) :
    (w.payload held p s).length = 8 := by
  cases w with
  | announceBurst => exact announcePayload_length ..
  | neighbourBurst b => exact slotPayload_length ..
  | service sv => exact sv.payload_length held p s
  | filler => exact fillerPayload_length _

/-! ### The control field (R4, R174) -/

theorem controlByte_toNat (k : CellKind) (tc an rg lv : Bool) : (controlByte k tc an rg lv).toNat =
    k.index.val * 16 + tc.toNat * 8 + an.toNat * 4 + rg.toNat * 2 + lv.toNat := by
  have kind := k.index.isLt
  have htc := Bool.toNat_le tc
  have han := Bool.toNat_le an
  have hrg := Bool.toNat_le rg
  have hlv := Bool.toNat_le lv
  have code : k.code = k.index.val := rfl
  rw [controlByte, BitVec.toNat_ofNat, code]
  omega

theorem controlByte_kind (k : CellKind) (tc an rg lv : Bool) : (controlByte k tc an rg lv).toNat / 16 = k.index.val := by
  have htc := Bool.toNat_le tc
  have han := Bool.toNat_le an
  have hrg := Bool.toNat_le rg
  have hlv := Bool.toNat_le lv
  rw [controlByte_toNat]
  omega

/-! ### An output after a boundary -/

theorem sequencedLane_run (u : State) (p : OutId) : (sequencedLane u p).run = (u.lane p).run := by
  unfold sequencedLane
  split <;> rfl

theorem sequencedLane_sched (u : State) (p : OutId) : (sequencedLane u p).sched = (u.lane p).sched := by
  unfold sequencedLane
  split <;> rfl

/-- The scheduler asked for a burst. -/
def Scheduler.asked (slot : Option SlotId) (k : Scheduler) : Scheduler :=
  match slot with
  | none => k
  | some slot => k.requestBurst slot

theorem asked_begun (r : Option SlotId) (ln : Lane) {after : Lane}
    (h : after = { (Lane.asked r ln) with asm := ln.asm.beginBit 0 }) :
    after.run = ln.run ∧ after.asm.cell = ln.asm.cell ∧ after.asm.kinds = ln.asm.kinds ∧ after.seq = ln.seq ∧
      after.sched = ln.sched.asked r := by
  subst h
  cases r <;> exact ⟨rfl, rfl, rfl, rfl, rfl⟩

/-- What a boundary from `s` to `t` makes of a running output `p`: `u` is the state in which the sequencers begin, `x`
that in which the output makes its choice, `w` its winner. -/
structure Sent (s : State) (p : OutId) (u x : State) (w : Winner) (t : State) : Prop where
  choices : SameChoices x t
  lane : x.lane p = sequencedLane u p
  atTurn : x.out p = u.out p
  winner : w = turnWinner p x
  run : (t.lane p).run = true
  cell : (t.lane p).asm.cell = some (makeCell (identityOf t p) (controlByte w.kind (t.outCfg p).tc (anOf t p)
    ((t.out p).source == .regional) (t.out p).lv) (w.payload u.claims.table p x))
  kinds : (t.lane p).asm.kinds = (s.lane p).asm.kinds.modify w.kind.index satInc
  seq : (t.lane p).seq = w.sequencer (x.lane p).seq
  sched : (t.lane p).sched = (w.entry (x.outCfg p).intervals
    (w.burst ((x.lane p).sched.prepared (carries x p)))).asked (burstRequest (fillCells u) (s.tb.start != .running) p)
  out : t.out p = w.content p x

section
variable (o : Order) (expected new : Count) (arm : Option Count) (marked : Bool) (s : State) (p : OutId)

theorem beforeCells_run : ((beforeCells o expected new arm marked s).lane p).run = (s.outCfg p).enable := by
  obtain ⟨f, lane⟩ := beforeCells_lane o expected new arm marked s p
  rw [lane]
  exact runLane_run ..

theorem boundaryAt_sent (enabled : (s.outCfg p).enable = true) {u : State}
    (hu : u = beforeCells o expected new arm marked s) : Sent s p u (turnOf p u) (turnWinner p (turnOf p u))
      (boundaryAt o expected new arm marked s) := by
  obtain ⟨t, ht⟩ : ∃ t, t = boundaryAt o expected new arm marked s := ⟨_, rfl⟩
  obtain ⟨x, hx⟩ : ∃ x, x = turnOf p u := ⟨_, rfl⟩
  have before : x.lane p = sequencedLane u p := by rw [hx, turnOf_lane]
  have running : (x.lane p).run = true := by rw [before, sequencedLane_run, hu, beforeCells_run, enabled]
  have turn := schedule_turn u.claims.table p x running
  have choices : SameChoices x t := by
    rw [hx, hu, ht]
    exact boundaryAt_turn ..
  have out : t.out p = (turnWinner p x).content p x := by
    rw [ht, boundaryAt_outOf o expected new arm marked s p hu, ← hx]
    exact turn.out
  have lane := boundaryAt_laneOf o expected new arm marked s p hu rfl
  rw [← hx, if_pos (turn.run.trans running), ← ht] at lane
  obtain ⟨run, cell, kinds, seq, sched⟩ := asked_begun _ _ lane
  have counted : (x.lane p).asm.kinds = (s.lane p).asm.kinds := by
    obtain ⟨f, found⟩ := beforeCells_lane o expected new arm marked s p
    rw [before, sequencedLane_asm, hu, found]
    unfold runLane
    split <;> rfl
  have identity : identityOf t p = identityOf x p := by
    unfold identityOf
    rw [choices.source, choices.outCfg]
  rw [← ht, ← hx]
  refine ⟨choices, before, by rw [hx, turnOf_out], rfl, run.trans (turn.run.trans running), ?_, ?_, seq.trans turn.seq,
    ?_, out⟩
  · rw [cell, turn.cell, identity, choices.outCfg, choices.anOf, choices.source, out]
  · rw [kinds, turn.kinds, counted]
  · rw [sched, turn.sched]

/-- An output that is not enabled is left by a boundary as the table changes found it, still and without a cell. -/
theorem boundaryAt_off (off : (s.outCfg p).enable = false) {u : State}
    (hu : u = beforeCells o expected new arm marked s) : (boundaryAt o expected new arm marked s).lane p =
      { u.lane p with asm := (u.lane p).asm.beginBit 0 } := by
  have stopped : ((turnOf p u).lane p).run = false := by
    rw [turnOf_lane, sequencedLane_run, hu, beforeCells_run, off]
  have still : (u.lane p).run = false := by rw [hu, beforeCells_run, off]
  have lane : (turnOf p u).lane p = u.lane p :=
    (turnOf_lane p u).trans (if_neg (Bool.eq_false_iff.1 still))
  have rests := schedule_rests u.claims.table p _ stopped
  rw [boundaryAt_laneOf o expected new arm marked s p hu rfl, rests, lane, if_neg (Bool.eq_false_iff.1 still)]

end

/-- The kind of the cell a running output has after a boundary is that of its winner. -/
theorem Sent.kind {s : State} {p : OutId} {u x : State} {w : Winner} {t : State} (h : Sent s p u x w t) :
    t.cellKind p = some w.kind.index.val := by
  unfold State.cellKind
  rw [if_pos h.run, h.cell]
  exact congrArg some (controlByte_kind ..)

/-- The state in which the sequencers begin at the coming boundary. -/
def cellsOf (s : State) : State := beforeCells .free s.tb.expected (s.tb.decideNext s.settings.mode).1
  (s.tb.decideNext s.settings.mode).2 s.tb.markNext.isSome s

section
variable {s t : State} (row : exec .cellBoundary s = .next t)
include row

/-- Every boundary is one with some count that begins. -/
theorem exec_cellBoundary : t = boundaryAt .free s.tb.expected (s.tb.decideNext s.settings.mode).1
    (s.tb.decideNext s.settings.mode).2 s.tb.markNext.isSome s := (Host.Outcome.next.inj row).symm

theorem cellBoundary_sent {p : OutId} (enabled : (s.outCfg p).enable = true) :
    Sent s p (cellsOf s) (turnOf p (cellsOf s)) (turnWinner p (turnOf p (cellsOf s))) t := by
  rw [exec_cellBoundary row]
  exact boundaryAt_sent _ _ _ _ _ s p enabled rfl

theorem cellBoundary_off {p : OutId} (off : (s.outCfg p).enable = false) :
    t.lane p = { (cellsOf s).lane p with asm := ((cellsOf s).lane p).asm.beginBit 0 } := by
  rw [exec_cellBoundary row]
  exact boundaryAt_off _ _ _ _ _ s p off rfl

theorem cellBoundary_choices : SameChoices (afterViews (cellsOf s)) t := by
  rw [exec_cellBoundary row]
  exact boundaryAt_choices ..

theorem cellBoundary_claims :
    t.claims = { (cellsOf s).claims with table := (cellsOf s).claims.table.map (advanceClaim t) } := by
  rw [exec_cellBoundary row]
  exact boundaryAt_advanced ..

/-- What an output's settings keep through a boundary. -/
theorem cellBoundary_outCfg (p : OutId) : ∃ iv, t.outCfg p = { s.outCfg p with intervals := iv } := by
  obtain ⟨iv, cells⟩ := beforeCells_outCfg .free s.tb.expected (s.tb.decideNext s.settings.mode).1
    (s.tb.decideNext s.settings.mode).2 s.tb.markNext.isSome s p
  have views : (afterViews (cellsOf s)).outCfg p = (cellsOf s).outCfg p :=
    congrArg (fun g : Settings => g.outputs.get p) (afterViews_settings _)
  exact ⟨iv, ((cellBoundary_choices row).outCfg p).trans (views.trans cells)⟩

end

theorem cellsOf_run (s : State) (p : OutId) : ((cellsOf s).lane p).run = (s.outCfg p).enable := beforeCells_run ..

theorem cellsOf_lane (s : State) (p : OutId) : ∃ f, (cellsOf s).lane p =
    { runLane (s.outCfg p).enable (s.lane p) with
      seq := { (runLane (s.outCfg p).enable (s.lane p)).seq with
        current := (runLane (s.outCfg p).enable (s.lane p)).seq.current.map f } } := beforeCells_lane ..

end Sys2Proof.Machine

/-! PROOFS. The cells: the check word, the 114 bits, and what a running output fixes (R1, R3 to R5, R16). -/

namespace Sys2Proof.Machine

/-! ### The check word (R5) -/

theorem crcBit_eq (r : Word) (b : Bool) :
    crcBit r b = if r.msb = b then r <<< 1 else (r <<< 1) ^^^ 0x1021 := by
  unfold crcBit
  by_cases same : r.msb = b
  · rw [if_pos same, if_neg (by rw [same, bne_self_eq_false]; exact Bool.false_ne_true)]
  · rw [if_neg same, if_pos (bne_iff_ne.2 same)]

theorem crc_append (bytes : List Byte) (b : Byte) : crc (bytes ++ [b]) = (List.range 8).foldl
    (fun (r : Word) i => if r.msb = b.getMsbD i then r <<< 1 else (r <<< 1) ^^^ 0x1021) (crc bytes) := by
  have step : (fun (r : Word) i => if r.msb = b.getMsbD i then r <<< 1 else (r <<< 1) ^^^ 0x1021) =
      fun r i => crcBit r (b.getMsbD i) := funext fun r => funext fun i => (crcBit_eq r _).symm
  rw [crc, List.foldl_append, step]
  rfl

theorem crc_known : crc [0x31, 0x32, 0x33, 0x34, 0x35, 0x36, 0x37, 0x38, 0x39] = 0x29B1 := by decide +kernel

/-! ### The bits of a cell (R1) -/

/-- A bit of two words side by side, from the left. -/
theorem getMsbD_append_left {m n : Nat} (x : BitVec m) (y : BitVec n) {i : Nat} (h : i < m) :
    (x ++ y).getMsbD i = x.getMsbD i := by
  rw [BitVec.getMsbD_append, if_neg (Nat.not_le.2 h)]

theorem getMsbD_append_right {m n : Nat} (x : BitVec m) (y : BitVec n) (i : Nat) :
    (x ++ y).getMsbD (m + i) = y.getMsbD i := by
  rw [BitVec.getMsbD_append, if_pos (Nat.le_add_right m i), Nat.add_sub_cancel_left]

theorem Cell.bits_fields (c : Cell) :
    (∀ i : Nat, i < 10 → c.bits.getMsbD i = (0b1010110100#10).getMsbD i) ∧
    (∀ i : Nat, i < 16 → c.bits.getMsbD (10 + i) = c.identity.getMsbD i) ∧
    (∀ i : Nat, i < 8 → c.bits.getMsbD (26 + i) = c.control.getMsbD i) ∧
    (∀ i : Nat, i < 64 → c.bits.getMsbD (34 + i) = c.payload.getMsbD i) ∧
    (∀ i : Nat, i < 16 → c.bits.getMsbD (98 + i) = c.check.getMsbD i) := by
  have guard : (0b10#2 ++ 0b10110100#8 : BitVec 10) = 0b1010110100#10 := by decide
  have bits : c.bits = (0b10#2 ++ 0b10110100#8 : BitVec 10) ++ c.identity ++ c.control ++ c.payload ++ c.check := rfl
  rw [bits, guard]
  refine ⟨fun i h => ?_, fun i h => ?_, fun i h => ?_, fun i h => ?_, fun i h => ?_⟩
  · rw [getMsbD_append_left _ _ (by omega), getMsbD_append_left _ _ (by omega), getMsbD_append_left _ _ (by omega),
      getMsbD_append_left _ _ h]
  · rw [getMsbD_append_left _ _ (by omega), getMsbD_append_left _ _ (by omega), getMsbD_append_left _ _ (by omega),
      getMsbD_append_right]
  · rw [getMsbD_append_left _ _ (by omega), getMsbD_append_left _ _ (by omega)]
    exact getMsbD_append_right ..
  · rw [getMsbD_append_left _ _ (by omega)]
    exact getMsbD_append_right ..
  · exact getMsbD_append_right ..

/-! ### The cell of an output -/

theorem makeCell_fields {identity : Word} {control : Byte} {bytes : List Byte} {c : Cell}
    (h : c = makeCell identity control bytes) : c.identity = identity ∧ c.control = control ∧
      c.payload = BitVec.ofNat 64 (natOf bytes) ∧ c.check = crc (bytesOf 2 c.identity.toNat ++ [c.control] ++ bytes) := by
  have identity : c.identity = identity := by rw [h]; rfl
  have control : c.control = control := by rw [h]; rfl
  refine ⟨identity, control, by rw [h]; rfl, ?_⟩
  rw [identity, control, h, makeCell]

/-- Settles O53: the check word bit by bit, the fields in their places, and the cell of the output's turn. -/
theorem cellsAreFixedAndSent : Obligations.CellsAreFixedAndSent := by
  refine ⟨⟨rfl, crc_known, crc_append⟩, Cell.bits_fields, fun s t p row enabled => ?_⟩
  have sent := cellBoundary_sent row enabled
  obtain ⟨iv, cfg⟩ := cellBoundary_outCfg row p
  obtain ⟨c, hc⟩ : ∃ c, c = makeCell (identityOf t p) (controlByte (turnWinner p (turnOf p (cellsOf s))).kind
    (t.outCfg p).tc (anOf t p) ((t.out p).source == .regional) (t.out p).lv)
    ((turnWinner p (turnOf p (cellsOf s))).payload (cellsOf s).claims.table p (turnOf p (cellsOf s))) := ⟨_, rfl⟩
  obtain ⟨identity, control, payload, check⟩ := makeCell_fields hc
  refine ⟨_, _, c, by rw [sent.cell, hc], Winner.payload_length _ _ _ _, ?_, ?_, payload, check, sent.kinds⟩
  · have network : (t.outCfg p).netId = (s.outCfg p).netId := by rw [cfg]
    have regional : (t.outCfg p).regId = (s.outCfg p).regId := by rw [cfg]
    rw [identity]
    unfold identityOf
    cases (t.out p).source with
    | network => exact network
    | regional => exact regional
  · rw [control, controlByte_toNat, cfg]
    unfold anOf
    rw [sent.run, Bool.true_and]

end Sys2Proof.Machine

/-! PROOFS. The claims after a boundary: statuses, times and views (R85, R98, R112). -/

namespace Sys2Proof.Machine

theorem satInc_toNat (c : Counter) : (satInc c).toNat = min (c.toNat + 1) 4294967295 := by
  have top := c.isLt
  rw [satInc_eq, satAdd, BitVec.toNat_ofNat]
  omega

/-! ### Statuses (R85) -/

theorem statusOn_eq (t : State) (c : Claim) (p : OutId) : statusOn t c p =
    if c.target.getLsbD p.val = false then .notTarget
    else if (t.lane p).run = true ∧ (t.outCfg p).tc = true ∧
        (t.settings.groupSets.get (match (t.out p).source with
          | .network => (t.outCfg p).accNet
          | .regional => (t.outCfg p).accReg)).getLsbD c.group.toNat = true then
      if (t.lane p).seq.current = some ⟨c.key, c.stamp⟩ then .current else .waiting
    else .ineligible := by
  have elig := eligible_iff t p c
  unfold statusOn inMask
  cases target : c.target.getLsbD p.val with
  | false => rfl
  | true =>
    rw [target] at elig
    refine (if_pos rfl).trans (Eq.trans ?_ (if_neg Bool.true_eq_false.mp).symm)
    by_cases h : eligible t p c = true
    · exact (if_pos h).trans (if_pos (elig.1 h).2).symm
    · exact (if_neg h).trans (if_neg fun k => h (elig.2 ⟨rfl, k⟩)).symm

theorem advanceClaim_status (t : State) (c : Claim) (p : OutId) :
    (advanceClaim t c).status.get p = statusOn t c p := Table.get_tabulate ..

/-! ### Times (R98) -/

theorem onAirSomewhere_iff (t : State) (c : Claim) : onAirSomewhere t c = true ↔
    ∃ p, (advanceClaim t c).status.get p = .current ∧ (t.lane p).seq.phase = .onAir := by
  have mem : ∀ p : OutId, p ∈ outputs := by decide
  unfold onAirSomewhere
  rw [List.any_eq_true]
  constructor
  · rintro ⟨p, _, h⟩
    obtain ⟨current, phase⟩ := Bool.and_eq_true_iff.1 h
    exact ⟨p, (advanceClaim_status ..).trans (beq_iff_eq.1 current), beq_iff_eq.1 phase⟩
  · rintro ⟨p, current, phase⟩
    refine ⟨p, mem p, Bool.and_eq_true_iff.2 ⟨beq_iff_eq.2 ?_, beq_iff_eq.2 phase⟩⟩
    exact (advanceClaim_status t c p).symm.trans current

theorem Table.all_iff {n : Nat} {α : Type} (t : Table n α) (f : α → Bool) :
    t.items.all f = true ↔ ∀ i, f (t.get i) = true := by
  rw [List.all_eq_true]
  constructor
  · exact fun h i => h _ (List.getElem_mem _)
  · intro h x hx
    obtain ⟨i, hi, rfl⟩ := List.mem_iff_getElem.1 hx
    exact h ⟨i, by rw [← t.size_eq]; exact hi⟩

/-- A claim CURRENT nowhere counts as waiting. -/
theorem waits_iff (t : State) (c : Claim) : ((advanceClaim t c).status.items.all fun st => st != .current) = true ↔
    ∀ p, (advanceClaim t c).status.get p ≠ .current := by
  rw [Table.all_iff]
  exact forall_congr' fun p => bne_iff_ne

theorem advanceClaim_holdUsed (t : State) (c : Claim) :
    (advanceClaim t c).holdUsed = satIncIf (onAirSomewhere t c) c.holdUsed := rfl

theorem advanceClaim_waitUsed (t : State) (c : Claim) : (advanceClaim t c).waitUsed =
    satIncIf ((advanceClaim t c).status.items.all fun st => st != .current) c.waitUsed := rfl

/-- What a boundary makes of a claim's times. -/
theorem advanceClaim_times (t : State) (c : Claim) :
    ((∃ p, (advanceClaim t c).status.get p = .current ∧ (t.lane p).seq.phase = .onAir) →
      (advanceClaim t c).holdUsed.toNat = min (c.holdUsed.toNat + 1) 4294967295) ∧
    ((∀ p, (advanceClaim t c).status.get p = .current → (t.lane p).seq.phase ≠ .onAir) →
      (advanceClaim t c).holdUsed = c.holdUsed) ∧
    ((∀ p, (advanceClaim t c).status.get p ≠ .current) →
      (advanceClaim t c).waitUsed.toNat = min (c.waitUsed.toNat + 1) 4294967295) ∧
    ((∃ p, (advanceClaim t c).status.get p = .current) → (advanceClaim t c).waitUsed = c.waitUsed) := by
  refine ⟨fun airs => ?_, fun silent => ?_, fun waits => ?_, fun ⟨p, current⟩ => ?_⟩
  · rw [advanceClaim_holdUsed, (onAirSomewhere_iff t c).2 airs]
    exact satInc_toNat _
  · have off : onAirSomewhere t c = false := by
      refine Bool.eq_false_iff.2 fun on => ?_
      obtain ⟨p, current, phase⟩ := (onAirSomewhere_iff t c).1 on
      exact silent p current phase
    rw [advanceClaim_holdUsed, off]
    rfl
  · rw [advanceClaim_waitUsed, (waits_iff t c).2 waits]
    exact satInc_toNat _
  · have not : ((advanceClaim t c).status.items.all fun st => st != .current) = false :=
      Bool.eq_false_iff.2 fun waits => (waits_iff t c).1 waits p current
    rw [advanceClaim_waitUsed, not]
    rfl

theorem advanceClaim_keeps (t : State) (c : Claim) : advanceClaim t c =
    { c with
      status := (advanceClaim t c).status, holdUsed := (advanceClaim t c).holdUsed
      waitUsed := (advanceClaim t c).waitUsed } := rfl

theorem advanceClaim_ref (t : State) (c : Claim) : (advanceClaim t c).ref = c.ref := rfl

/-! ### Views (R112) -/

theorem Winner.sequencer_keeps (w : Winner) (q : Sequencer) : ∃ b, w.sequencer q = { q with burst := b } := by
  cases w <;> exact ⟨_, rfl⟩

theorem Sequencer.writeView_of {held : List Claim} {q : Sequencer} {c : Claim} {r : ClaimRef} (current : q.current = some r)
    (found : held.find? (fun c => c.ref == r) = some c) : q.writeView held =
      { q with view := some { cls := c.cls, group := c.group, holdUsed := c.holdUsed } } := by
  unfold writeView
  rw [current]
  simp only
  rw [found]

/-- A trail that begins or goes on keeps the view it holds, and names no claim. -/
theorem Sequencer.boundary_inTrail {cfg : OutSettings} {chosen : Option ClaimRef} {q : Sequencer}
    (free : q.phase = .quiet ∨ q.phase = .trail → q.current = none)
    (trail : (q.boundary cfg chosen).phase = .trail) :
    (q.boundary cfg chosen).view = q.view ∧ (q.boundary cfg chosen).current = none ∧ q.phase ≠ .quiet := by
  cases tc : cfg.tc with
  | false =>
    rw [(boundary_names cfg chosen q).1, tc] at trail
    cases trail
  | true =>
    rw [boundary_tc tc rfl] at trail ⊢
    simp only at trail ⊢
    cases phase : q.phase with
    | quiet =>
      cases chosen with
      | none =>
        rw [transition_quiet_none phase, phase] at trail
        cases trail
      | some r =>
        rw [transition_quiet_some phase, begin] at trail
        simp only at trail
        split at trail <;> cases trail
    | onset =>
      cases chosen with
      | none =>
        rw [transition_onset_none phase, abort] at trail
        cases trail
      | some r =>
        rw [transition_onset_some phase, lessLead] at trail
        simp only at trail
        split at trail <;> cases trail
    | onAir =>
      cases chosen with
      | none =>
        rw [transition_onAir_none phase] at trail ⊢
        refine ⟨if_neg fun ends => ?_, rfl, nofun⟩
        rw [finish, ends] at trail
        cases trail
      | some r =>
        have stays : (q.handTo r).phase = q.phase := rfl
        rw [transition_onAir_some phase, stays, phase] at trail
        cases trail
    | trail =>
      cases chosen with
      | none =>
        rw [transition_trail_none phase] at trail ⊢
        refine ⟨if_neg fun ends => ?_, free (.inr phase), nofun⟩
        rw [lessTrail, if_pos ends] at trail
        cases trail
      | some r =>
        rw [transition_trail_some phase, resume] at trail
        cases trail

theorem runLane_view (enable : Bool) (ln : Lane) :
    (runLane enable ln).seq.phase ≠ .quiet → (runLane enable ln).seq.view = ln.seq.view := by
  unfold runLane
  split
  · exact fun h => absurd rfl h
  · exact fun h => absurd rfl h
  · exact fun _ => rfl
  · exact fun _ => rfl

/-- Whether a sequencer names no claim in QUIET and TRAIL. -/
theorem cellsOf_free {s : State} {p : OutId}
    (free : (s.lane p).seq.phase = .quiet ∨ (s.lane p).seq.phase = .trail → (s.lane p).seq.current = none) :
    ((cellsOf s).lane p).seq.phase = .quiet ∨ ((cellsOf s).lane p).seq.phase = .trail →
      ((cellsOf s).lane p).seq.current = none := by
  obtain ⟨f, lane⟩ := cellsOf_lane s p
  rw [lane]
  simp only
  unfold runLane
  intro h
  split at h
  · rfl
  · rfl
  · rw [free h]
    rfl
  · rw [free h]
    rfl

theorem sequencedLane_seq {u : State} {p : OutId} (run : (u.lane p).run = true) : (sequencedLane u p).seq =
    Sequencer.writeView (afterViews u).claims.table
      (Sequencer.boundary (u.outCfg p) ((choice u p).map Claim.ref) (u.lane p).seq) := by
  rw [sequencedLane, if_pos run, afterViews, writeViews_claims]
  rfl

section
variable {s t : State} (row : exec .cellBoundary s = .next t)
include row

theorem cellBoundary_viewClaims : t.claims = (afterViews (cellsOf s)).claims := by
  have same := (afterViews_choices (cellsOf s)).trans (cellBoundary_choices row)
  have advanced : advanceClaim t = advanceClaim ((cellsOf s).eachOut sequence) := funext same.advanceClaim
  rw [cellBoundary_claims row, afterViews_claims, advanced]

/-- The sequencer of a running output after a boundary, but for its burst counter. -/
theorem cellBoundary_seq {p : OutId} (enabled : (s.outCfg p).enable = true) : ∃ b, (t.lane p).seq =
    { Sequencer.writeView t.claims.table (Sequencer.boundary ((cellsOf s).outCfg p)
        ((choice (cellsOf s) p).map Claim.ref) ((cellsOf s).lane p).seq) with burst := b } := by
  have sent := cellBoundary_sent row enabled
  obtain ⟨b, hb⟩ := (turnWinner p (turnOf p (cellsOf s))).sequencer_keeps ((turnOf p (cellsOf s)).lane p).seq
  refine ⟨b, ?_⟩
  rw [sent.seq, hb, sent.lane, sequencedLane_seq (by rw [cellsOf_run, enabled]), cellBoundary_viewClaims row]

theorem cellBoundary_view {p : OutId} (enabled : (s.outCfg p).enable = true)
    (free : (s.lane p).seq.phase = .quiet ∨ (s.lane p).seq.phase = .trail → (s.lane p).seq.current = none)
    {r : ClaimRef} (current : (t.lane p).seq.current = some r) : ∃ c, c ∈ t.claims.table ∧ r = ⟨c.key, c.stamp⟩ ∧
      (t.lane p).seq.view = some { cls := c.cls, group := c.group, holdUsed := c.holdUsed } := by
  obtain ⟨b, seq⟩ := cellBoundary_seq row enabled
  obtain ⟨q, hq⟩ : ∃ q, q = Sequencer.boundary ((cellsOf s).outCfg p) ((choice (cellsOf s) p).map Claim.ref)
    ((cellsOf s).lane p).seq := ⟨_, rfl⟩
  rw [← hq] at seq
  have named : q.current = some r := by
    rw [seq] at current
    exact ((Sequencer.writeView_names _ q).2).symm.trans current
  have chosen := Sequencer.boundary_current ((cellsOf s).outCfg p) ((choice (cellsOf s) p).map Claim.ref)
    ((cellsOf s).lane p).seq (cellsOf_free free)
  rw [← hq, named] at chosen
  obtain ⟨c, hc, ref⟩ : ∃ c, choice (cellsOf s) p = some c ∧ c.ref = r := by
    split at chosen
    · exact Option.map_eq_some_iff.1 chosen.symm
    · cases chosen
  have held : advanceClaim t c ∈ t.claims.table := by
    rw [cellBoundary_claims row]
    exact List.mem_map_of_mem (choice_some hc).1
  obtain ⟨d, found⟩ : ∃ d, t.claims.table.find? (fun d => d.ref == r) = some d :=
    Option.isSome_iff_exists.1 (List.find?_isSome.2 ⟨_, held, beq_iff_eq.2 ((advanceClaim_ref t c).trans ref)⟩)
  refine ⟨d, List.mem_of_find?_eq_some found, ?_, ?_⟩
  · exact (beq_iff_eq.1 (List.find?_some (p := fun d : Claim => d.ref == r) found)).symm
  · rw [seq, Sequencer.writeView_of named found]

theorem cellBoundary_trailView {p : OutId}
    (free : (s.lane p).seq.phase = .quiet ∨ (s.lane p).seq.phase = .trail → (s.lane p).seq.current = none)
    (trail : (t.lane p).seq.phase = .trail) : (t.lane p).seq.view = (s.lane p).seq.view := by
  obtain ⟨f, lane⟩ := cellsOf_lane s p
  have kept : ((cellsOf s).lane p).seq.phase ≠ .quiet → ((cellsOf s).lane p).seq.view = (s.lane p).seq.view := by
    rw [lane]
    exact runLane_view _ _
  cases enabled : (s.outCfg p).enable with
  | false =>
    have off := congrArg Lane.seq (cellBoundary_off row enabled)
    simp only at off
    rw [off] at trail ⊢
    exact kept (by rw [trail]; nofun)
  | true =>
    obtain ⟨b, seq⟩ := cellBoundary_seq row enabled
    obtain ⟨q, hq⟩ : ∃ q, q = Sequencer.boundary ((cellsOf s).outCfg p) ((choice (cellsOf s) p).map Claim.ref)
      ((cellsOf s).lane p).seq := ⟨_, rfl⟩
    rw [← hq] at seq
    have phase : q.phase = .trail := by
      rw [seq] at trail
      exact ((Sequencer.writeView_names _ q).1).symm.trans trail
    obtain ⟨view, current, sounding⟩ := Sequencer.boundary_inTrail (cellsOf_free free) (by rw [← hq]; exact phase)
    rw [← hq] at view current
    rw [seq, writeView_none _ _ current]
    exact view.trans (kept sounding)

end

theorem cellsOf_plain {s : State} (h : PlainBoundary s) : (cellsOf s).claims = s.claims := by
  obtain ⟨expected, next⟩ := h.next
  rw [cellsOf, expected, next, h.beforeCells_eq, commitTexts_claims, holdPool_claims, updateSources_claims,
    beforeTables_claims]

/-- Settles O36: statuses and times of the state after the boundary, and the views written from its claims. -/
theorem claimStatusesAndTimesAdvance : Obligations.ClaimStatusesAndTimesAdvance := by
  refine ⟨fun s t c p row held => ?_, fun s t plain row => ?_, fun s t p free row => ⟨fun r enabled current =>
    cellBoundary_view row enabled free current, cellBoundary_trailView row free⟩⟩
  · rw [cellBoundary_claims row] at held
    obtain ⟨d, _, rfl⟩ := List.mem_map.1 held
    exact (advanceClaim_status t d p).trans (statusOn_eq t d p)
  · refine ⟨advanceClaim t, ?_, fun c => ⟨advanceClaim_keeps t c, advanceClaim_times t c⟩⟩
    rw [cellBoundary_claims row, cellsOf_plain plain]

end Sys2Proof.Machine

/-! PROOFS. The changes of the claim table that meet at a boundary without timed entries (R97, R99, R100, R101). -/

namespace Sys2Proof.Machine

/-- The count advances by one at the coming boundary, and nothing is timed for it. -/
structure Advances (s : State) : Prop where
  running : s.tb.start = .running
  unmarked : s.tb.markNext = none
  unarmed : s.settings.mode = .master → s.tb.arm = none
  noEntries : s.queue.entries = []

/-- What a change finds at a boundary: claims, lines and settings are those before it. -/
structure Finds (s b : State) : Prop where
  claims : b.claims = s.claims
  cues : b.cues = s.cues
  settings : b.settings = s.settings

theorem Finds.cue {s b : State} (h : Finds s b) (c : LineId) : b.cue c = s.cue c :=
  congrArg (fun t : Table 8 CueLine => t.get c) h.cues

theorem Finds.cueCfg {s b : State} (h : Finds s b) (c : LineId) : b.cueCfg c = s.cueCfg c :=
  congrArg (fun g : Settings => g.cues.get c) h.settings

theorem Finds.claimHeld {s b : State} (h : Finds s b) (k : ClaimKey) :
    Sys2Proof.Machine.claimHeld b k = Sys2Proof.Machine.claimHeld s k :=
  congrArg (fun m : ClaimManager => m.table.find? fun c : Claim => c.key == k) h.claims

/-- What the state after a boundary holds of the state `u` its table changes leave. -/
structure Follows (u t : State) : Prop where
  claims : t.claims = { u.claims with table := u.claims.table.map (advanceClaim t) }
  cues : t.cues = u.cues

theorem Follows.cue {u t : State} (h : Follows u t) (c : LineId) : t.cue c = u.cue c :=
  congrArg (fun t : Table 8 CueLine => t.get c) h.cues

theorem boundaryAt_follows (o : Order) (expected new : Count) (arm : Option Count) (marked : Bool) (s : State) :
    Follows (tableChanges o expected new (beforeTables expected new arm marked s))
      (boundaryAt o expected new arm marked s) := by
  have claims : (beforeCells o expected new arm marked s).claims =
      (tableChanges o expected new (beforeTables expected new arm marked s)).claims := by
    rw [beforeCells, commitTexts_claims, holdPool_claims, updateSources_claims]
  refine ⟨by rw [← claims, boundaryAt_advanced], ?_⟩
  rw [boundaryAt_eq, beginBits_cues, selectMonitor_cues, gainTokens_cues, (compareNeighbours_same _ _).cues,
    (fillCells_same _).cues, beforeCells, commitTexts_cues, holdPool_cues, updateSources_cues]

theorem Advances.next {s : State} (h : Advances s) :
    s.tb.expected = s.tb.count + 1 ∧ (s.tb.decideNext s.settings.mode).1 = s.tb.count + 1 := by
  have expected : s.tb.expected = s.tb.count + 1 := Timebase.expected_running (by rw [h.running]; nofun)
  refine ⟨expected, ?_⟩
  have advances := Timebase.decideNext_advances (mode := s.settings.mode) h.unmarked (by
    cases mode : s.settings.mode with
    | slave => exact .inl rfl
    | master => exact .inr (.inl (h.unarmed mode)))
  rw [advances, expected]

section
variable {s : State} (h : Advances s)
include h

/-- A boundary's table changes are the changes that ask, in some state that finds what stands before it. -/
theorem Advances.changes : ∃ b, Finds s b ∧ ∀ o, ∃ t, boundary o s = t ∧
    Follows (takeChanges o (s.tb.count + 1) (changes s).length [] (changes s) b) t ∧
    t = boundaryAt o (s.tb.count + 1) (s.tb.count + 1) (s.tb.decideNext s.settings.mode).2 s.tb.markNext.isSome s := by
  obtain ⟨expected, next⟩ := h.next
  refine ⟨beforeTables (s.tb.count + 1) (s.tb.count + 1) (s.tb.decideNext s.settings.mode).2 s.tb.markNext.isSome s,
    ⟨beforeTables_claims .., beforeTables_cues .., beforeTables_settings ..⟩, fun o => ⟨_, ?_, ?_, rfl⟩⟩
  · rw [boundary_eq, expected, next]
  · have follows := boundaryAt_follows o (s.tb.count + 1) (s.tb.count + 1) (s.tb.decideNext s.settings.mode).2
      s.tb.markNext.isSome s
    rwa [tableChanges_onTime _ _ _ (by rw [beforeTables_entries, h.noEntries]), beforeTables_changes] at follows

/-- A single change meets the boundary alone, whatever the order. -/
theorem Advances.one {x : Change} (only : Sys2Proof.Machine.changes s = [x]) : ∃ b t, Finds s b ∧
    boundary .free s = t ∧ boundary .expiriesFirst s = t ∧ Follows (takeChange (s.tb.count + 1) x b) t := by
  obtain ⟨b, finds, follows⟩ := h.changes
  obtain ⟨t, ht, free, at'⟩ := follows .free
  rw [only] at free
  have one : takeChanges .free (s.tb.count + 1) [x].length [] [x] b = takeChange (s.tb.count + 1) x b :=
    takeChanges_one ..
  rw [one] at free
  refine ⟨b, t, finds, ht, ?_, free⟩
  obtain ⟨u, hu, _, atU⟩ := follows .expiriesFirst
  rw [hu, atU, at', boundaryAt_eq, boundaryAt_eq, beforeCells, beforeCells,
    tableChanges_onTime _ _ _ (by rw [beforeTables_entries, h.noEntries]),
    tableChanges_onTime _ _ _ (by rw [beforeTables_entries, h.noEntries]), beforeTables_changes, only]
  have same : ∀ o v, takeChanges o (s.tb.count + 1) [x].length [] [x] v = takeChange (s.tb.count + 1) x v :=
    fun o v => takeChanges_one ..
  rw [same, same]

/-- Two changes that meet are taken in one of the two orders. -/
theorem Advances.two {x y : Change} (both : Sys2Proof.Machine.changes s = [x, y]) : ∃ b t, Finds s b ∧
    boundary .free s = t ∧ (Follows (takeChange (s.tb.count + 1) y (takeChange (s.tb.count + 1) x b)) t ∨
      Follows (takeChange (s.tb.count + 1) x (takeChange (s.tb.count + 1) y b)) t) := by
  obtain ⟨b, finds, follows⟩ := h.changes
  obtain ⟨t, ht, free, _⟩ := follows .free
  rw [both] at free
  refine ⟨b.draw, t, ⟨finds.claims, finds.cues, finds.settings⟩, ht, ?_⟩
  have picks : pickChange .free (2 + 0) b = (Config.freePick b.draws % 2, b.draw) := rfl
  rcases Nat.mod_two_eq_zero_or_one (Config.freePick b.draws) with first | second
  · left
    rw [first] at picks
    have taken : takeChanges .free (s.tb.count + 1) [x, y].length [] [x, y] b = _ :=
      takeChanges_succ_change (ch := x) picks rfl
    rw [taken] at free
    have last : takeChanges .free (s.tb.count + 1) [y].length [] ([x, y].eraseIdx 0) (takeChange (s.tb.count + 1) x b.draw) =
      takeChange (s.tb.count + 1) y (takeChange (s.tb.count + 1) x b.draw) := takeChanges_one ..
    rwa [last] at free
  · right
    rw [second] at picks
    have taken : takeChanges .free (s.tb.count + 1) [x, y].length [] [x, y] b = _ :=
      takeChanges_succ_change (ch := y) picks rfl
    rw [taken] at free
    have last : takeChanges .free (s.tb.count + 1) [y].length [] ([x, y].eraseIdx 1) (takeChange (s.tb.count + 1) y b.draw) =
      takeChange (s.tb.count + 1) x (takeChange (s.tb.count + 1) y b.draw) := takeChanges_one ..
    rwa [last] at free

end

/-! ### Limits (R97, R100, R101) -/

theorem expiryReason_hold {c : Claim} (limited : c.holdLimit ≠ 0) (reached : c.holdLimit ≤ c.holdUsed.toNat) :
    expiryReason c = some (if c.kind = .pulseCue then .elapsed else .overrun) := if_pos ⟨limited, reached⟩

theorem expiryReason_wait {c : Claim} (free : c.holdLimit = 0 ∨ c.holdUsed.toNat < c.holdLimit) (limited : c.waitLimit ≠ 0)
    (reached : c.waitLimit ≤ c.waitUsed.toNat) : expiryReason c = some .stale :=
  (if_neg fun ⟨bound, held⟩ => free.elim bound (Nat.not_lt.2 held)).trans (if_pos ⟨limited, reached⟩)

theorem expire_of {k : ClaimKey} {c : Claim} {reason : EndReason} {count : Count} {s : State} (held : claimHeld s k = some c)
    (ends : expiryReason c = some reason) : expire k count s = endClaim c reason count s := by
  unfold expire
  rw [held]
  simp only
  rw [ends]

/-- The claim that alone reaches a limit is gone after the boundary, and its end is recorded. -/
theorem Advances.expires {s : State} (h : Advances s) {k : ClaimKey} {c : Claim} {reason : EndReason}
    (only : s.onlyAsk [.expiry k]) (held : claimHeld s k = some c) (ends : expiryReason c = some reason) :
    ∃ t, boundary .free s = t ∧ boundary .expiriesFirst s = t ∧ (∀ d, d ∈ t.claims.table → d.key ≠ k) ∧
      t.claims.lastEnded.get (originIndex k.origin) = some { number := k.number, cls := c.cls, reason := reason
                                                             count := s.tb.count + 1, onAir := c.holdUsed } ∧
      t.claims.counters.ended = s.claims.counters.ended.modify reason.index satInc := by
  obtain ⟨b, t, finds, free, first, follows⟩ := h.one only.one
  have taken : takeChange (s.tb.count + 1) (.expiry k) b = endClaim c reason (s.tb.count + 1) b :=
    expire_of ((finds.claimHeld k).trans held) ends
  rw [taken, endClaim_of_held held] at follows
  refine ⟨t, free, first, fun d hd => ?_, ?_, ?_⟩
  · rw [follows.claims] at hd
    obtain ⟨e, he, rfl⟩ := List.mem_map.1 hd
    exact bne_iff_ne.1 (List.mem_filter.1 he).2
  · rw [follows.claims]
    exact Table.get_set_self ..
  · rw [follows.claims, ← finds.claims]

theorem expiresAs_of {s : State} {k : ClaimKey} {c : Claim} {reason : EndReason} (held : claimHeld s k = some c)
    (ends : expiryReason c = some reason) (byWait : Bool) : expiresAs byWait k s = ((reason == .stale) == byWait) := by
  unfold expiresAs
  rw [held]
  simp only
  rw [ends]

/-- Settles O35: the end at the hold limit and the end at the wait limit, with the rows that are this boundary. -/
theorem claimsEndAtTheirLimits : Obligations.ClaimsEndAtTheirLimits := by
  intro s k c running unmarked unarmed noEntries only held
  have advances : Advances s := ⟨running, unmarked, unarmed, noEntries⟩
  refine ⟨fun limited reached => ?_, fun free limited reached => ?_⟩
  · have ends := expiryReason_hold limited reached
    obtain ⟨t, atBoundary, first, gone, record, counted⟩ := advances.expires only held ends
    have row : expiresAs false k s = true := by
      rw [expiresAs_of held ends]
      split <;> rfl
    refine ⟨t, ?_, congrArg Host.Outcome.next atBoundary, gone, record, ?_⟩
    · exact congrArg Host.Outcome.next ((if_pos row).trans first)
    · rw [counted]
      split <;> rfl
  · have ends := expiryReason_wait free limited reached
    obtain ⟨t, atBoundary, first, gone, record, counted⟩ := advances.expires only held ends
    have row : expiresAs true k s = true := by
      rw [expiresAs_of held ends]
      rfl
    refine ⟨t, ?_, congrArg Host.Outcome.next atBoundary, gone, record, counted⟩
    exact congrArg Host.Outcome.next ((if_pos row).trans first)

end Sys2Proof.Machine

/-! PROOFS. The requests of cue lines between boundaries in a full table, and at a boundary (R92, R93, R99, R121 to
R126). -/

namespace Sys2Proof.Machine

/-! ### Retries -/

section
variable {c : LineId} {count : Count} {s : State}

section
variable (target : (s.cueCfg c).target ≠ 0) (free : ∀ d, d ∈ s.claims.table → d.key ≠ ⟨.cue c, 0⟩)
include target free

theorem retryRequest_enters (room : s.claims.table.length < 8) (below : s.claims.nextStamp ≠ BitVec.allOnes 32) :
    (retryRequest c count s).claims = { s.claims with
        table := s.claims.table ++ [(cueNewcomer c s).claim s.claims.nextStamp]
        nextStamp := s.claims.nextStamp + 1
        counters := { s.claims.counters with admitted := satInc s.claims.counters.admitted } } ∧
      (retryRequest c count s).cue c = { countAdmitted (s.cue c) with pending := false } := by
  rw [retryRequest_admitted (cueEntry_enters target free room), enterTable_below below]
  exact ⟨rfl, State.modCue_cue_self ..⟩

theorem retryRequest_full (full : s.claims.table.length = 8)
    (above : ∀ d, d ∈ s.claims.table → d.currentNowhere = true → (s.cueCfg c).priority ≤ d.priority) :
    retryRequest c count s = countFull s :=
  retryRequest_refused (cueEntry_full target free full above) rfl

theorem retryRequest_displaces (full : s.claims.table.length = 8) {d : Claim} (hd : displaceable s = some d)
    (lower : d.priority < (s.cueCfg c).priority) (below : s.claims.nextStamp ≠ BitVec.allOnes 32) :
    (retryRequest c count s).claims = {
        table := (s.claims.table.filter fun e => e.key != d.key) ++ [(cueNewcomer c s).claim s.claims.nextStamp]
        nextStamp := s.claims.nextStamp + 1
        lastEnded := s.claims.lastEnded.set (originIndex d.key.origin)
          (some { number := d.key.number, cls := d.cls, reason := .displaced, count := count, onAir := d.holdUsed })
        counters := { s.claims.counters with
          admitted := satInc s.claims.counters.admitted, ended := s.claims.counters.ended.modify 4 satInc } } ∧
      (retryRequest c count s).cue c = { countAdmitted (s.cue c) with pending := false } := by
  rw [retryRequest_admitted (cueEntry_displaces target free full hd lower),
    enterTable_below (s := endClaim d .displaced count s) below]
  exact ⟨rfl, State.modCue_cue_self ..⟩

end

theorem retryRequest_fails (h : (s.cueCfg c).target = 0 ∨ ∃ d, d ∈ s.claims.table ∧ d.key = ⟨.cue c, 0⟩) :
    retryRequest c count s = s := by
  obtain ⟨a, entry, refused⟩ := cueEntry_fails (count := count) h
  exact retryRequest_refused entry refused

end

/-! ### Entries at a boundary: a waiting request, or a retry -/

/-- The line once its entry is admitted: a request waits no longer. -/
def admittedLine (c : LineId) (asked : Change) (k : CueLine) : CueLine :=
  { countAdmitted k with pending := false, due := if asked = .retry c then k.due else none }

/-- The line once its entry is refused: a retry leaves it as it stands. -/
def refusedLine (c : LineId) (asked : Change) (mode : CueMode) (k : CueLine) : CueLine :=
  if asked = .retry c then k else { countFailure k with pending := mode == .level, due := none }

theorem request_ne_retry {c : LineId} {r : CueRequest} : Change.request c r ≠ .retry c := nofun

theorem admittedLine_request (c : LineId) (k : CueLine) : admittedLine c (.request c .entry) k =
    { countAdmitted k with pending := false, due := none } :=
  congrArg (fun due => { countAdmitted k with pending := false, due := due }) (if_neg request_ne_retry)

theorem admittedLine_retry (c : LineId) (k : CueLine) : admittedLine c (.retry c) k =
    { countAdmitted k with pending := false } :=
  congrArg (fun due => { countAdmitted k with pending := false, due := due }) (if_pos rfl)

theorem refusedLine_request (c : LineId) (mode : CueMode) (k : CueLine) : refusedLine c (.request c .entry) mode k =
    { countFailure k with pending := mode == .level, due := none } := if_neg request_ne_retry

theorem refusedLine_retry (c : LineId) (mode : CueMode) (k : CueLine) : refusedLine c (.retry c) mode k = k := if_pos rfl

section
variable {c : LineId} {count : Count} {s : State} {asked : Change}
  (entry : asked = .request c .entry ∨ asked = .retry c)
include entry

section
variable (target : (s.cueCfg c).target ≠ 0) (free : ∀ d, d ∈ s.claims.table → d.key ≠ ⟨.cue c, 0⟩)
include target free

theorem takeEntry_enters (room : s.claims.table.length < 8) (below : s.claims.nextStamp ≠ BitVec.allOnes 32) :
    (takeChange count asked s).claims = { s.claims with
        table := s.claims.table ++ [(cueNewcomer c s).claim s.claims.nextStamp]
        nextStamp := s.claims.nextStamp + 1
        counters := { s.claims.counters with admitted := satInc s.claims.counters.admitted } } ∧
      (takeChange count asked s).cue c = admittedLine c asked (s.cue c) := by
  rcases entry with rfl | rfl
  · rw [admittedLine_request]
    exact entryRequest_enters target free room below
  · rw [admittedLine_retry]
    exact retryRequest_enters target free room below

theorem takeEntry_displaces (full : s.claims.table.length = 8) {d : Claim} (hd : displaceable s = some d)
    (lower : d.priority < (s.cueCfg c).priority) (below : s.claims.nextStamp ≠ BitVec.allOnes 32) :
    (takeChange count asked s).claims = {
        table := (s.claims.table.filter fun e => e.key != d.key) ++ [(cueNewcomer c s).claim s.claims.nextStamp]
        nextStamp := s.claims.nextStamp + 1
        lastEnded := s.claims.lastEnded.set (originIndex d.key.origin)
          (some { number := d.key.number, cls := d.cls, reason := .displaced, count := count, onAir := d.holdUsed })
        counters := { s.claims.counters with
          admitted := satInc s.claims.counters.admitted, ended := s.claims.counters.ended.modify 4 satInc } } ∧
      (takeChange count asked s).cue c = admittedLine c asked (s.cue c) := by
  rcases entry with rfl | rfl
  · rw [admittedLine_request]
    exact entryRequest_displaces target free full hd lower below
  · rw [admittedLine_retry]
    exact retryRequest_displaces target free full hd lower below

theorem takeEntry_full (full : s.claims.table.length = 8)
    (above : ∀ d, d ∈ s.claims.table → d.currentNowhere = true → (s.cueCfg c).priority ≤ d.priority) :
    (takeChange count asked s).claims = { s.claims with
        counters := { s.claims.counters with refusedFull := satInc s.claims.counters.refusedFull } } ∧
      (takeChange count asked s).cue c = refusedLine c asked (s.cueCfg c).mode (s.cue c) := by
  rcases entry with rfl | rfl
  · rw [refusedLine_request]
    exact entryRequest_full target free full above
  · have refused : takeChange count (.retry c) s = countFull s := retryRequest_full target free full above
    rw [refusedLine_retry, refused]
    exact ⟨rfl, rfl⟩

end

theorem takeEntry_fails (h : (s.cueCfg c).target = 0 ∨ ∃ d, d ∈ s.claims.table ∧ d.key = ⟨.cue c, 0⟩) :
    (takeChange count asked s).claims = s.claims ∧
      (takeChange count asked s).cue c = refusedLine c asked (s.cueCfg c).mode (s.cue c) := by
  rcases entry with rfl | rfl
  · rw [refusedLine_request]
    exact entryRequest_fails h
  · have refused : takeChange count (.retry c) s = s := retryRequest_fails h
    rw [refusedLine_retry, refused]
    exact ⟨rfl, rfl⟩

/-- However it ends, a request waits no longer, and a retry leaves what waits. -/
theorem takeEntry_due : ((takeChange count asked s).cue c).due = if asked = .retry c then (s.cue c).due else none := by
  rcases entry with rfl | rfl
  · obtain ⟨a, u, entered⟩ : ∃ a u, cueEntry c count (clearDue c s) = (a, u) := ⟨_, _, rfl⟩
    have line : u.cue c = { s.cue c with due := none } := by
      have cues := cueEntry_cues c count (clearDue c s)
      rw [entered] at cues
      exact (congrArg (fun t : Table 8 CueLine => t.get c) cues).trans (State.modCue_cue_self ..)
    have none : ((takeChange count (.request c .entry) s).cue c).due = none := by
      show ((entryRequest c count (clearDue c s)).cue c).due = none
      cases refused : a.refused with
      | true =>
        rw [entryRequest_refused entered refused, State.modCue_cue_self, line]
        rfl
      | false =>
        cases a with
        | admitted stamp displaced =>
          rw [entryRequest_admitted entered, State.modCue_cue_self, line]
          rfl
        | duplicate => cases refused
        | tableFull => cases refused
        | noTarget => cases refused
    rw [none, if_neg request_ne_retry]
  · obtain ⟨a, u, entered⟩ : ∃ a u, cueEntry c count s = (a, u) := ⟨_, _, rfl⟩
    have line : u.cue c = s.cue c := by
      have cues := cueEntry_cues c count s
      rw [entered] at cues
      exact congrArg (fun t : Table 8 CueLine => t.get c) cues
    rw [if_pos rfl]
    show ((retryRequest c count s).cue c).due = _
    cases refused : a.refused with
    | true => rw [retryRequest_refused entered refused, line]
    | false =>
      cases a with
      | admitted stamp displaced =>
        rw [retryRequest_admitted entered, State.modCue_cue_self, line]
        rfl
      | duplicate => cases refused
      | tableFull => cases refused
      | noTarget => cases refused

end

/-! ### What the table changes leave for the state after the boundary -/

section
variable {u t : State} (h : Follows u t)
include h

theorem Follows.keys : t.claims.table.map Claim.key = u.claims.table.map Claim.key := by
  rw [h.claims, List.map_map]
  rfl

theorem Follows.nextStamp : t.claims.nextStamp = u.claims.nextStamp := by rw [h.claims]

theorem Follows.lastEnded : t.claims.lastEnded = u.claims.lastEnded := by rw [h.claims]

theorem Follows.counters : t.claims.counters = u.claims.counters := by rw [h.claims]

theorem Follows.mem {e : Claim} (he : e ∈ t.claims.table) : ∃ d, d ∈ u.claims.table ∧ e = advanceClaim t d := by
  rw [h.claims] at he
  obtain ⟨d, hd, rfl⟩ := List.mem_map.1 he
  exact ⟨d, hd, rfl⟩

end

theorem keys_filter (table : List Claim) (k : ClaimKey) :
    (table.filter fun e => e.key != k).map Claim.key = (table.map Claim.key).filter fun e => e != k := by
  rw [List.filter_map]
  rfl

theorem held_iff_key {s : State} {k : ClaimKey} : (∃ d, d ∈ s.claims.table ∧ d.key = k) ↔ ∃ d, claimHeld s k = some d := by
  constructor
  · rintro ⟨d, hd, key⟩
    exact Option.isSome_iff_exists.1 (List.find?_isSome.2 ⟨d, hd, beq_iff_eq.2 key⟩)
  · rintro ⟨d, held⟩
    exact ⟨d, List.mem_of_find?_eq_some held, claimHeld_key held⟩

/-- A claim whose hold time begins afresh has aired this cell or not. -/
theorem afresh_holdUsed (t : State) {d : Claim} (zero : d.holdUsed = 0) : (advanceClaim t d).holdUsed =
    if ∃ p, (advanceClaim t d).status.get p = .current ∧ (t.lane p).seq.phase = .onAir then 1 else 0 := by
  rw [advanceClaim_holdUsed, zero]
  by_cases airs : onAirSomewhere t d = true
  · rw [if_pos ((onAirSomewhere_iff t d).1 airs), airs]
    rfl
  · rw [if_neg fun h => airs ((onAirSomewhere_iff t d).2 h), Bool.eq_false_iff.2 airs]
    rfl

/-! ### Retriggers and releases at a boundary -/

/-- The table in which the hold time of the line's claim begins afresh. -/
def retriggered (c : LineId) (table : List Claim) : List Claim :=
  table.map fun e => if e.key = ⟨.cue c, 0⟩ then { e with holdUsed := 0 } else e

theorem retriggered_keys (c : LineId) (table : List Claim) :
    (retriggered c table).map Claim.key = table.map Claim.key := by
  rw [retriggered, List.map_map]
  refine List.map_congr_left fun e _ => ?_
  rw [Function.comp_apply]
  split <;> rfl

theorem retriggered_holdUsed {c : LineId} {table : List Claim} {e : Claim} (he : e ∈ retriggered c table)
    (key : e.key = ⟨.cue c, 0⟩) : e.holdUsed = 0 := by
  obtain ⟨d, _, rfl⟩ := List.mem_map.1 he
  by_cases line : d.key = ⟨.cue c, 0⟩
  · rw [if_pos line]
  · rw [if_neg line] at key
    exact absurd key line

theorem takeRetrigger_held {c : LineId} {count : Count} {s : State} {d : Claim}
    (held : claimHeld s ⟨.cue c, 0⟩ = some d) :
    (takeChange count (.request c .retrigger) s).claims = { s.claims with table := retriggered c s.claims.table } ∧
      (takeChange count (.request c .retrigger) s).cue c = { s.cue c with
        due := none
        counters := { (s.cue c).counters with retriggers := satInc (s.cue c).counters.retriggers } } :=
  retriggerRequest_line (f := fun k => { k with due := none }) held

theorem takeRetrigger_free {c : LineId} {count : Count} {s : State} (free : claimHeld s ⟨.cue c, 0⟩ = none) :
    (takeChange count (.request c .retrigger) s).claims = s.claims ∧
      (takeChange count (.request c .retrigger) s).cue c = { countFailure (s.cue c) with due := none } := by
  have taken : takeChange count (.request c .retrigger) s = (clearDue c s).modCue c countFailure :=
    retriggerRequest_free (s := clearDue c s) free
  rw [taken]
  refine ⟨rfl, (State.modCue_cue_self ..).trans ?_⟩
  exact congrArg countFailure (State.modCue_cue_self ..)

theorem takeFinish_held {c : LineId} {count : Count} {s : State} {d : Claim} (held : claimHeld s ⟨.cue c, 0⟩ = some d) :
    (takeChange count (.request c .finish) s).claims = { s.claims with
        table := s.claims.table.filter fun e => e.key != ⟨.cue c, 0⟩
        lastEnded := s.claims.lastEnded.set (originIndex d.key.origin)
          (some { number := d.key.number, cls := d.cls, reason := .released, count := count, onAir := d.holdUsed })
        counters := { s.claims.counters with ended := s.claims.counters.ended.modify 0 satInc } } ∧
      (takeChange count (.request c .finish) s).cue c = { s.cue c with pending := false, due := none } := by
  have taken : takeChange count (.request c .finish) s =
      endClaim d .released count ((clearDue c s).modCue c fun k => { k with pending := false }) :=
    finishRequest_held (s := clearDue c s) held
  have line : (clearDue c s).cue c = { s.cue c with due := none } := State.modCue_cue_self ..
  have pins : (takeChange count (.request c .finish) s).cue c = { (clearDue c s).cue c with pending := false } := by
    rw [taken]
    exact State.modCue_cue_self ..
  refine ⟨?_, by rw [pins, line]⟩
  rw [taken, endClaim, claimHeld_key held]
  rfl

theorem takeFinish_free {c : LineId} {count : Count} {s : State} (free : claimHeld s ⟨.cue c, 0⟩ = none) :
    (takeChange count (.request c .finish) s).claims = s.claims ∧
      (takeChange count (.request c .finish) s).cue c = { s.cue c with pending := false, due := none } := by
  have taken : takeChange count (.request c .finish) s =
      (clearDue c s).modCue c fun k => { k with pending := false } := finishRequest_free (s := clearDue c s) free
  rw [taken]
  refine ⟨rfl, (State.modCue_cue_self ..).trans ?_⟩
  exact congrArg (fun k : CueLine => { k with pending := false }) (State.modCue_cue_self ..)

end Sys2Proof.Machine

/-! PROOFS. Cue lines that meet a full table or a boundary (R92, R93, R97, R99, R121 to R126). -/

namespace Sys2Proof.Machine

/-! ### Between boundaries -/

section
variable {s : State} {c : LineId} {high : Bool} (on : (s.cueCfg c).mode ≠ .off) (due : (s.cue c).due = none)
  (reached : (s.cueCfg c).debounce ≤ (s.cue c).debounce + 1)
include on due reached

/-- A line accepted ACTIVE that finds the table full: refused, or in the place of a claim below it. -/
theorem accepted_meetsFullTable (inactive : (s.cue c).active = false)
    (level : (if (s.cueCfg c).polarity = .activeHigh then high else !high) = true) (target : (s.cueCfg c).target ≠ 0)
    (free : ∀ d, d ∈ s.claims.table → d.key ≠ ⟨.cue c, 0⟩) (full : s.claims.table.length = 8) :
    ((∀ d, d ∈ s.claims.table → d.currentNowhere = true → (s.cueCfg c).priority ≤ d.priority) →
      ∃ t, exec (.cueChangeAccepted c high false) s = .next t ∧
        t.claims = { s.claims with
          counters := { s.claims.counters with refusedFull := satInc s.claims.counters.refusedFull } } ∧
        (t.cue c).pending = decide ((s.cueCfg c).mode = .level) ∧
        (t.cue c).counters.failures = satInc (s.cue c).counters.failures) ∧
    (∀ d, s.claims.nextStamp ≠ BitVec.allOnes 32 → displaceable s = some d → d.priority < (s.cueCfg c).priority →
      ∃ t, exec (.cueChangeAccepted c high false) s = .next t ∧
        t.claims = {
          table := (s.claims.table.filter fun e => e.key != d.key) ++ [(cueNewcomer c s).claim s.claims.nextStamp]
          nextStamp := s.claims.nextStamp + 1
          lastEnded := s.claims.lastEnded.set (originIndex d.key.origin)
            (some { number := d.key.number, cls := d.cls, reason := .displaced, count := s.tb.count
                    onAir := d.holdUsed })
          counters := { s.claims.counters with
            admitted := satInc s.claims.counters.admitted
            ended := s.claims.counters.ended.modify 4 satInc } } ∧
        (t.cue c).pending = false ∧ (t.cue c).counters.admitted = satInc (s.cue c).counters.admitted) := by
  have row := exec_accepted_asks (r := .entry) on reached level (by rw [inactive]; nofun) due (modeRequest_entry on free)
  refine ⟨fun above => ?_, fun d below hd lower => ?_⟩
  · obtain ⟨claims, line⟩ := entryRequest_full (count := s.tb.count) (f := acceptLevel true s.tb.count s.tb.bitPos)
      target free full above
    refine ⟨_, row, claims, (congrArg CueLine.pending line).trans ?_,
      congrArg (fun k : CueLine => k.counters.failures) line⟩
    cases (s.cueCfg c).mode <;> rfl
  · obtain ⟨claims, line⟩ := entryRequest_displaces (count := s.tb.count)
      (f := acceptLevel true s.tb.count s.tb.bitPos) target free full hd lower below
    exact ⟨_, row, claims, congrArg CueLine.pending line, congrArg (fun k : CueLine => k.counters.admitted) line⟩

/-- A change accepted on a boundary leaves the claims, and its request waits there. -/
theorem accepted_waitsForBoundary {active : Bool} (changes : active = !(s.cue c).active)
    (level : (if (s.cueCfg c).polarity = .activeHigh then high else !high) = active) :
    ∃ t, exec (.cueChangeAccepted c high true) s = .next t ∧ t.claims = s.claims ∧ (t.cue c).active = active ∧
      ((s.cueCfg c).mode = .level → (t.cue c).due = (if active then some .entry else some .finish) ∧
        (t.cue c).pending = ((s.cue c).pending && active)) ∧
      ((s.cueCfg c).mode = .pulse → active = true → (t.cue c).due =
        (if ∃ d, d ∈ s.claims.table ∧ d.key = ⟨.cue c, 0⟩ then some .retrigger else some .entry)) ∧
      ((s.cueCfg c).mode = .pulse → active = false → (t.cue c).due = none) := by
  have differs : active ≠ (s.cue c).active := by
    rw [changes]
    exact bool_differs_from_not _
  have accepted : (s.modCue c (acceptLevel active s.tb.count s.tb.bitPos)).cue c =
      acceptLevel active s.tb.count s.tb.bitPos (s.cue c) := State.modCue_cue_self ..
  cases request : modeRequest c active s with
  | none =>
    refine ⟨_, exec_accepted_silent on reached level differs true due request, rfl, by rw [accepted]; rfl,
      fun mode => ?_, fun mode press => ?_, fun mode _ => by rw [accepted]; exact due⟩
    · rw [modeRequest_level mode] at request
      cases active <;> cases request
    · rw [press, modeRequest_pulse mode] at request
      split at request <;> cases request
  | some r =>
    have line : ((s.modCue c (acceptLevel active s.tb.count s.tb.bitPos)).modCue c fun k =>
        { k with due := some r, pending := k.pending && active }).cue c =
        { acceptLevel active s.tb.count s.tb.bitPos (s.cue c) with
          due := some r, pending := (s.cue c).pending && active } := by
      rw [State.modCue_cue_self, accepted]
      rfl
    refine ⟨_, exec_accepted_waits on reached level differs due request, rfl, by rw [line]; rfl,
      fun mode => ⟨?_, by rw [line]⟩, fun mode press => ?_, fun mode release => ?_⟩
    · rw [line, ← modeRequest_level mode active, request]
    · rw [line]
      rw [press, modeRequest_pulse mode] at request
      exact request.symm
    · rw [release, modeRequest_pulse_inactive mode] at request
      cases request

end

/-! ### At a boundary -/

/-- The keys of the claims held but for one. -/
theorem Follows.keysBut {s u t : State} {k : ClaimKey} (h : Follows u t)
    (table : u.claims.table = s.claims.table.filter fun e => e.key != k) :
    t.claims.table.map Claim.key = (s.claims.table.map Claim.key).filter fun e => e != k := by
  rw [h.keys, table, keys_filter]

section
variable {s t : State} {c : LineId} (h : Advances s) (row : exec .cellBoundary s = .next t)
include h row

/-- What a single change leaves, in the state after the boundary. -/
theorem Advances.after {x : Change} (only : s.onlyAsk [x]) :
    ∃ b, Finds s b ∧ Follows (takeChange (s.tb.count + 1) x b) t := by
  obtain ⟨b, u, finds, hu, _, follows⟩ := h.one only.one
  obtain rfl : u = t := hu.symm.trans (Host.Outcome.next.inj row)
  exact ⟨b, finds, follows⟩

section
variable {asked : Change} (only : s.onlyAsk [asked]) (entry : asked = .request c .entry ∨ asked = .retry c)
include only entry

theorem Advances.entry_due : (t.cue c).due = if asked = .retry c then (s.cue c).due else none := by
  obtain ⟨b, finds, follows⟩ := h.after row only
  rw [follows.cue, takeEntry_due entry, finds.cue]

theorem Advances.entry_enters (target : (s.cueCfg c).target ≠ 0) (free : ∀ d, d ∈ s.claims.table → d.key ≠ ⟨.cue c, 0⟩)
    (room : s.claims.table.length < 8) (below : s.claims.nextStamp ≠ BitVec.allOnes 32) :
    (∃ held new, t.claims.table = held ++ [new] ∧ held.map Claim.key = s.claims.table.map Claim.key ∧
      new.key = ⟨.cue c, 0⟩ ∧ new.stamp = s.claims.nextStamp ∧ new.cls = (s.cueCfg c).cls ∧
      new.priority = (s.cueCfg c).priority ∧ new.group = (s.cueCfg c).group ∧
      new.target = (s.cueCfg c).target ∧ new.holdLimit = (s.cueCfg c).holdLimit ∧
      new.waitLimit = (s.cueCfg c).waitLimit ∧
      new.kind = if (s.cueCfg c).mode = .pulse then .pulseCue else .levelCue) ∧
    t.claims.nextStamp = s.claims.nextStamp + 1 ∧ (t.cue c).pending = false ∧
    (t.cue c).counters = { (s.cue c).counters with admitted := satInc (s.cue c).counters.admitted } ∧
    t.claims.counters = { s.claims.counters with admitted := satInc s.claims.counters.admitted } := by
  obtain ⟨b, finds, follows⟩ := h.after row only
  obtain ⟨claims, line⟩ := takeEntry_enters (count := s.tb.count + 1) (s := b) entry (by rw [finds.cueCfg]; exact target)
    (by rw [finds.claims]; exact free) (by rw [finds.claims]; exact room) (by rw [finds.claims]; exact below)
  have newcomer : cueNewcomer c b = cueNewcomer c s := by rw [cueNewcomer, cueNewcomer, finds.cueCfg]
  rw [finds.claims, newcomer] at claims
  rw [finds.cue] at line
  refine ⟨⟨s.claims.table.map (advanceClaim t),
    advanceClaim t ((cueNewcomer c s).claim s.claims.nextStamp), ?_, ?_, rfl, rfl, rfl, rfl, rfl, rfl, rfl, rfl,
    cueKind_eq _⟩, ?_, ?_, ?_, ?_⟩
  · rw [follows.claims, claims, List.map_append]
    rfl
  · rw [List.map_map]
    rfl
  · rw [follows.nextStamp, claims]
  · rw [follows.cue, line]
    rfl
  · rw [follows.cue, line]
    rfl
  · rw [follows.counters, claims]

theorem Advances.entry_full (target : (s.cueCfg c).target ≠ 0) (free : ∀ d, d ∈ s.claims.table → d.key ≠ ⟨.cue c, 0⟩)
    (full : s.claims.table.length = 8)
    (above : ∀ d, d ∈ s.claims.table → d.currentNowhere = true → (s.cueCfg c).priority ≤ d.priority) :
    t.claims.table.map Claim.key = s.claims.table.map Claim.key ∧
      t.claims.counters = { s.claims.counters with refusedFull := satInc s.claims.counters.refusedFull } ∧
      t.cue c = refusedLine c asked (s.cueCfg c).mode (s.cue c) := by
  obtain ⟨b, finds, follows⟩ := h.after row only
  obtain ⟨claims, line⟩ := takeEntry_full (count := s.tb.count + 1) (s := b) entry (by rw [finds.cueCfg]; exact target)
    (by rw [finds.claims]; exact free) (by rw [finds.claims]; exact full)
    (by rw [finds.claims, finds.cueCfg]; exact above)
  rw [finds.claims] at claims
  rw [finds.cue, finds.cueCfg] at line
  exact ⟨by rw [follows.keys, claims], by rw [follows.counters, claims], by rw [follows.cue, line]⟩

theorem Advances.entry_fails (fails : (s.cueCfg c).target = 0 ∨ ∃ d, d ∈ s.claims.table ∧ d.key = ⟨.cue c, 0⟩) :
    t.claims.table.map Claim.key = s.claims.table.map Claim.key ∧ t.claims.counters = s.claims.counters ∧
      t.cue c = refusedLine c asked (s.cueCfg c).mode (s.cue c) := by
  obtain ⟨b, finds, follows⟩ := h.after row only
  obtain ⟨claims, line⟩ := takeEntry_fails (count := s.tb.count + 1) (s := b) entry
    (by rw [finds.cueCfg, finds.claims]; exact fails)
  rw [finds.claims] at claims
  rw [finds.cue, finds.cueCfg] at line
  exact ⟨by rw [follows.keys, claims], by rw [follows.counters, claims], by rw [follows.cue, line]⟩

theorem Advances.entry_displaces {d : Claim} (target : (s.cueCfg c).target ≠ 0)
    (free : ∀ e, e ∈ s.claims.table → e.key ≠ ⟨.cue c, 0⟩) (full : s.claims.table.length = 8)
    (below : s.claims.nextStamp ≠ BitVec.allOnes 32) (hd : displaceable s = some d)
    (lower : d.priority < (s.cueCfg c).priority) :
    t.claims.table.map Claim.key = ((s.claims.table.map Claim.key).filter fun e => e != d.key) ++ [⟨.cue c, 0⟩] ∧
    (∀ e, e ∈ t.claims.table → e.key = ⟨.cue c, 0⟩ → e.stamp = s.claims.nextStamp ∧
      e.priority = (s.cueCfg c).priority) ∧
    t.claims.lastEnded = s.claims.lastEnded.set (originIndex d.key.origin)
      (some { number := d.key.number, cls := d.cls, reason := .displaced, count := s.tb.count + 1
              onAir := d.holdUsed }) ∧
    t.claims.nextStamp = s.claims.nextStamp + 1 ∧
    t.claims.counters = { s.claims.counters with
      admitted := satInc s.claims.counters.admitted, ended := s.claims.counters.ended.modify 4 satInc } ∧
    (t.cue c).pending = false ∧
    (t.cue c).counters = { (s.cue c).counters with admitted := satInc (s.cue c).counters.admitted } := by
  obtain ⟨b, finds, follows⟩ := h.after row only
  have found : displaceable b = some d := by
    rw [← hd, displaceable, displaceable, finds.claims]
  obtain ⟨claims, line⟩ := takeEntry_displaces (count := s.tb.count + 1) (s := b) entry
    (by rw [finds.cueCfg]; exact target) (by rw [finds.claims]; exact free) (by rw [finds.claims]; exact full) found
    (by rw [finds.cueCfg]; exact lower) (by rw [finds.claims]; exact below)
  have newcomer : cueNewcomer c b = cueNewcomer c s := by rw [cueNewcomer, cueNewcomer, finds.cueCfg]
  rw [finds.claims, newcomer] at claims
  rw [finds.cue] at line
  refine ⟨?_, fun e he key => ?_, by rw [follows.lastEnded, claims], by rw [follows.nextStamp, claims],
    by rw [follows.counters, claims], ?_, ?_⟩
  · rw [follows.keys, claims, List.map_append, keys_filter]
    rfl
  · obtain ⟨a, ha, rfl⟩ := follows.mem he
    rw [claims] at ha
    rcases List.mem_append.1 ha with old | new
    · exact absurd key (free a (List.mem_filter.1 old).1)
    · rw [List.mem_singleton.1 new]
      exact ⟨rfl, rfl⟩
  · rw [follows.cue, line]
    rfl
  · rw [follows.cue, line]
    rfl

end

theorem Advances.finishes (only : s.onlyAsk [.request c .finish]) : (t.cue c).pending = false ∧ (t.cue c).due = none ∧
    (t.cue c).counters = (s.cue c).counters ∧
    (∀ d, claimHeld s ⟨.cue c, 0⟩ = some d →
      t.claims.table.map Claim.key = ((s.claims.table.map Claim.key).filter fun e => e != ⟨.cue c, 0⟩) ∧
      t.claims.lastEnded = s.claims.lastEnded.set (originIndex d.key.origin)
        (some { number := d.key.number, cls := d.cls, reason := .released, count := s.tb.count + 1
                onAir := d.holdUsed }) ∧
      t.claims.counters = { s.claims.counters with ended := s.claims.counters.ended.modify 0 satInc }) ∧
    ((∀ d, d ∈ s.claims.table → d.key ≠ ⟨.cue c, 0⟩) →
      t.claims.table.map Claim.key = s.claims.table.map Claim.key ∧ t.claims.lastEnded = s.claims.lastEnded ∧
      t.claims.counters = s.claims.counters) := by
  obtain ⟨b, finds, follows⟩ := h.after row only
  have line : t.cue c = { s.cue c with pending := false, due := none } := by
    rw [follows.cue, ← finds.cue]
    cases held : claimHeld b ⟨.cue c, 0⟩ with
    | some d => exact (takeFinish_held held).2
    | none => exact (takeFinish_free held).2
  refine ⟨by rw [line], by rw [line], by rw [line], fun d held => ?_, fun free => ?_⟩
  · have claims := (takeFinish_held (count := s.tb.count + 1) ((finds.claimHeld _).trans held)).1
    rw [finds.claims] at claims
    exact ⟨follows.keysBut (by rw [claims]), by rw [follows.lastEnded, claims], by rw [follows.counters, claims]⟩
  · have claims := (takeFinish_free (count := s.tb.count + 1) ((finds.claimHeld _).trans (claimHeld_none free))).1
    rw [finds.claims] at claims
    exact ⟨by rw [follows.keys, claims], by rw [follows.lastEnded, claims], by rw [follows.counters, claims]⟩

end

/-- The hold time of the line's claim has begun afresh between `s` and `t` (R126). -/
def Afresh (c : LineId) (s t : State) : Prop :=
  t.claims.table.map Claim.key = s.claims.table.map Claim.key ∧
    t.claims.counters = s.claims.counters ∧
    (∀ e, e ∈ t.claims.table → e.key = ⟨.cue c, 0⟩ → e.holdUsed =
      if ∃ p, e.status.get p = .current ∧ (t.lane p).seq.phase = .onAir then 1 else 0) ∧
    (t.cue c).counters = { (s.cue c).counters with retriggers := satInc (s.cue c).counters.retriggers }

theorem Follows.afresh {s u t : State} {c : LineId} (h : Follows u t)
    (claims : u.claims = { s.claims with table := retriggered c s.claims.table })
    (counters : (u.cue c).counters = { (s.cue c).counters with retriggers := satInc (s.cue c).counters.retriggers }) :
    Afresh c s t := by
  refine ⟨by rw [h.keys, claims, retriggered_keys], by rw [h.counters, claims], fun e he key => ?_, by rw [h.cue, counters]⟩
  obtain ⟨d, hd, rfl⟩ := h.mem he
  rw [claims] at hd
  exact afresh_holdUsed t (retriggered_holdUsed hd key)

section
variable {s t : State} {c : LineId} (h : Advances s) (row : exec .cellBoundary s = .next t)
include h row

theorem Advances.retriggers (only : s.onlyAsk [.request c .retrigger]) : (t.cue c).due = none ∧
    t.claims.lastEnded = s.claims.lastEnded ∧
    ((∃ d, d ∈ s.claims.table ∧ d.key = ⟨.cue c, 0⟩) → Afresh c s t) ∧
    ((∀ d, d ∈ s.claims.table → d.key ≠ ⟨.cue c, 0⟩) →
      t.claims.table.map Claim.key = s.claims.table.map Claim.key ∧ t.claims.counters = s.claims.counters ∧
      (t.cue c).counters = { (s.cue c).counters with failures := satInc (s.cue c).counters.failures }) := by
  obtain ⟨b, finds, follows⟩ := h.after row only
  cases held : claimHeld s ⟨.cue c, 0⟩ with
  | some d =>
    obtain ⟨claims, line⟩ := takeRetrigger_held (count := s.tb.count + 1) ((finds.claimHeld _).trans held)
    rw [finds.claims] at claims
    rw [finds.cue] at line
    refine ⟨by rw [follows.cue, line], by rw [follows.lastEnded, claims],
      fun _ => follows.afresh claims (by rw [line]), fun free => ?_⟩
    rw [claimHeld_none free] at held
    cases held
  | none =>
    obtain ⟨claims, line⟩ := takeRetrigger_free (count := s.tb.count + 1) ((finds.claimHeld _).trans held)
    rw [finds.claims] at claims
    rw [finds.cue] at line
    refine ⟨by rw [follows.cue, line], by rw [follows.lastEnded, claims], fun some => ?_, fun _ =>
      ⟨by rw [follows.keys, claims], by rw [follows.counters, claims], by rw [follows.cue, line]; rfl⟩⟩
    obtain ⟨d, found⟩ := held_iff_key.1 some
    rw [held] at found
    cases found

end

/-- A claim whose hold time has begun afresh has reached no limit. -/
theorem afresh_reachesNone {d : Claim}
    (waits : d.waitLimit = 0 ∨ d.waitUsed.toNat < d.waitLimit) : expiryReason { d with holdUsed := 0 } = none := by
  have hold : ¬ (d.holdLimit ≠ 0 ∧ d.holdLimit ≤ (0 : Counter).toNat) := fun ⟨bound, reached⟩ =>
    bound (Nat.le_zero.1 reached)
  have wait : ¬ (d.waitLimit ≠ 0 ∧ d.waitLimit ≤ d.waitUsed.toNat) := fun ⟨bound, reached⟩ =>
    waits.elim bound (Nat.not_lt.2 reached)
  exact (if_neg hold).trans (if_neg wait)

theorem claimHeld_retriggered {s u : State} {c : LineId} {d : Claim} (held : claimHeld s ⟨.cue c, 0⟩ = some d)
    (table : u.claims.table = retriggered c s.claims.table) :
    claimHeld u ⟨.cue c, 0⟩ = some { d with holdUsed := 0 } := by
  have same : (fun e : Claim => e.key == (⟨.cue c, 0⟩ : ClaimKey)) ∘
      (fun e => if e.key = ⟨.cue c, 0⟩ then { e with holdUsed := 0 } else e) = fun e => e.key == ⟨.cue c, 0⟩ := by
    funext e
    rw [Function.comp_apply]
    split <;> rfl
  have found : s.claims.table.find? (fun e => e.key == (⟨.cue c, 0⟩ : ClaimKey)) = some d := held
  rw [claimHeld, table, retriggered, List.find?_map, same, found]
  exact congrArg some (if_pos (claimHeld_key held))

theorem takeExpiry_of {k : ClaimKey} {d : Claim} {reason : EndReason} {count : Count} {s : State}
    (held : claimHeld s k = some d) (ends : expiryReason d = some reason) :
    takeChange count (.expiry k) s = endClaim d reason count s := expire_of held ends

theorem takeExpiry_none {k : ClaimKey} {d : Claim} {count : Count} {s : State} (held : claimHeld s k = some d)
    (stands : expiryReason d = none) : takeChange count (.expiry k) s = s := by
  show expire k count s = s
  unfold expire
  rw [held]
  simp only
  rw [stands]

/-- A retrigger that meets the expiry of its claim: whichever comes first has its way. -/
theorem Advances.expiryMeetsRetrigger {s t : State} {c : LineId} {d : Claim} (h : Advances s)
    (row : exec .cellBoundary s = .next t) (both : s.onlyAsk [.expiry ⟨.cue c, 0⟩, .request c .retrigger])
    (held : claimHeld s ⟨.cue c, 0⟩ = some d) (pulse : d.kind = .pulseCue) (limited : d.holdLimit ≠ 0)
    (reached : d.holdLimit ≤ d.holdUsed.toNat) (waits : d.waitLimit = 0 ∨ d.waitUsed.toNat < d.waitLimit) :
    (Afresh c s t ∧ t.claims.lastEnded = s.claims.lastEnded) ∨
    (t.claims.table.map Claim.key = ((s.claims.table.map Claim.key).filter fun e => e != ⟨.cue c, 0⟩) ∧
      t.claims.lastEnded = s.claims.lastEnded.set (originIndex d.key.origin)
        (some { number := d.key.number, cls := d.cls, reason := .elapsed, count := s.tb.count + 1
                onAir := d.holdUsed }) ∧
      t.claims.counters = { s.claims.counters with ended := s.claims.counters.ended.modify 2 satInc } ∧
      (t.cue c).counters = { (s.cue c).counters with failures := satInc (s.cue c).counters.failures }) := by
  obtain ⟨b, u, finds, hu, orders⟩ := h.two both.expiry_request
  obtain rfl : u = t := hu.symm.trans (Host.Outcome.next.inj row)
  have heldB : claimHeld b ⟨.cue c, 0⟩ = some d := (finds.claimHeld _).trans held
  rcases orders with expiryFirst | retriggerFirst
  · right
    have ends : expiryReason d = some .elapsed := by rw [expiryReason_hold limited reached, if_pos pulse]
    obtain ⟨b', hb'⟩ : ∃ b', b' = endClaim d .elapsed (s.tb.count + 1) b := ⟨_, rfl⟩
    rw [takeExpiry_of heldB ends, ← hb'] at expiryFirst
    have ended : b'.claims.table = (s.claims.table.filter fun e => e.key != (⟨.cue c, 0⟩ : ClaimKey)) ∧
        b'.claims.lastEnded = s.claims.lastEnded.set (originIndex d.key.origin)
          (some { number := d.key.number, cls := d.cls, reason := .elapsed, count := s.tb.count + 1
                  onAir := d.holdUsed }) ∧
        b'.claims.counters = { s.claims.counters with ended := s.claims.counters.ended.modify 2 satInc } := by
      rw [hb', endClaim, claimHeld_key held, ← finds.claims]
      exact ⟨rfl, rfl, rfl⟩
    obtain ⟨table, lastEnded, counters⟩ := ended
    have gone : claimHeld b' ⟨.cue c, 0⟩ = none := by
      refine claimHeld_none fun e he => ?_
      rw [table] at he
      exact bne_iff_ne.1 (List.mem_filter.1 he).2
    obtain ⟨claims, line⟩ := takeRetrigger_free (count := s.tb.count + 1) gone
    have lineB : b'.cue c = s.cue c := by
      rw [← finds.cue, hb']
      rfl
    rw [lineB] at line
    exact ⟨expiryFirst.keysBut (by rw [claims, table]), by rw [expiryFirst.lastEnded, claims, lastEnded],
      by rw [expiryFirst.counters, claims, counters], by rw [expiryFirst.cue, line]; rfl⟩
  · left
    obtain ⟨claims, line⟩ := takeRetrigger_held (count := s.tb.count + 1) heldB
    have stands := takeExpiry_none (count := s.tb.count + 1) (claimHeld_retriggered heldB (by rw [claims]))
      (afresh_reachesNone waits)
    rw [stands] at retriggerFirst
    rw [finds.claims] at claims
    rw [finds.cue] at line
    exact ⟨retriggerFirst.afresh claims (by rw [line]), by rw [retriggerFirst.lastEnded, claims]⟩

/-- Settles O47: a full table, the request that waits, and the changes at a boundary one by one. -/
theorem cueEntriesMeetTheTableAndTheBoundary : Obligations.CueEntriesMeetTheTableAndTheBoundary := by
  refine ⟨?_, ?_, ?_, ?_⟩
  · intro s c high on due reached inactive level target free full
    obtain ⟨refused, displaces⟩ := accepted_meetsFullTable on due reached inactive level target free full
    refine ⟨refused, fun d below hd nowhere lower least => ?_⟩
    obtain ⟨t, row, claims, line⟩ := displaces d below (displaceable_eq hd nowhere least) lower
    refine ⟨t, row, claims.trans ?_, line⟩
    rw [cueNewcomer, cueKind_eq]
    rfl
  · intro s c high active on due reached changes level
    exact accepted_waitsForBoundary on due reached changes level
  · intro s t c asked running unmarked unarmed noEntries only entry row
    have h : Advances s := ⟨running, unmarked, unarmed, noEntries⟩
    refine ⟨h.entry_due row only entry, h.entry_enters row only entry, fun refused => ?_, fun free target full above => ?_,
      fun fails => ?_⟩
    · have line : t.cue c = refusedLine c asked (s.cueCfg c).mode (s.cue c) := by
        by_cases fails : (s.cueCfg c).target = 0 ∨ ∃ d, d ∈ s.claims.table ∧ d.key = ⟨.cue c, 0⟩
        · exact (h.entry_fails row only entry fails).2.2
        · have free : ∀ d, d ∈ s.claims.table → d.key ≠ ⟨.cue c, 0⟩ := fun d hd key => fails (.inr ⟨d, hd, key⟩)
          rcases refused with none | held | ⟨full, above⟩
          · exact absurd (.inl none) fails
          · exact absurd (.inr held) fails
          · exact (h.entry_full row only entry (fun none => fails (.inl none)) free full above).2.2
      refine ⟨fun retry => ?_, fun request => ?_⟩
      · rw [line, retry, refusedLine_retry]
      · rw [line, request, refusedLine_request]
        refine ⟨?_, rfl⟩
        cases (s.cueCfg c).mode <;> rfl
    · obtain ⟨keys, counters, _⟩ := h.entry_full row only entry target free full above
      exact ⟨keys, counters⟩
    · obtain ⟨keys, counters, _⟩ := h.entry_fails row only entry fails
      exact ⟨keys, counters⟩
  · intro s t c running unmarked unarmed noEntries row
    have h : Advances s := ⟨running, unmarked, unarmed, noEntries⟩
    refine ⟨fun asked d only entry target free full below hd nowhere lower least => ?_, h.finishes row, h.retriggers row,
      fun d both held => h.expiryMeetsRetrigger row both held⟩
    exact h.entry_displaces row only entry target free full below (displaceable_eq hd nowhere least) lower

end Sys2Proof.Machine

/-! SUPPORT. The live content of an output through a boundary: table changes leave it, commits make it new, and the
winner's cell moves it on (R42 to R46, R55). -/

namespace Sys2Proof.Machine

/-! ### The live content through the table changes -/

/-- The live content and the positions of an output are the same. -/
structure SameLive (a b : OutContent) : Prop where
  labelPos : b.labelPos = a.labelPos
  textPos : b.textPos = a.textPos
  freqPos : b.freqPos = a.freqPos
  nbSlot : b.nbSlot = a.nbSlot
  nbSeg : b.nbSeg = a.nbSeg
  labelShown : b.labelShown = a.labelShown
  textShown : b.textShown = a.textShown
  lv : b.lv = a.lv
  textVersion : b.textVersion = a.textVersion
  freqs : b.freqs = a.freqs
  labels : ∀ v, (b.variant v).label = (a.variant v).label
  texts : ∀ v, (b.variant v).text = (a.variant v).text

theorem SameLive.refl (a : OutContent) : SameLive a a := by
  constructor
  all_goals first | rfl | exact fun _ => rfl

theorem SameLive.trans {a b c : OutContent} (h : SameLive a b) (k : SameLive b c) : SameLive a c :=
  ⟨k.labelPos.trans h.labelPos, k.textPos.trans h.textPos, k.freqPos.trans h.freqPos, k.nbSlot.trans h.nbSlot,
    k.nbSeg.trans h.nbSeg, k.labelShown.trans h.labelShown, k.textShown.trans h.textShown, k.lv.trans h.lv,
    k.textVersion.trans h.textVersion, k.freqs.trans h.freqs, fun v => (k.labels v).trans (h.labels v),
    fun v => (k.texts v).trans (h.texts v)⟩

theorem stageLabel_live (v : Variant) (l : Label) (o : OutContent) : SameLive o (o.stageLabel v l) := by
  cases v
  all_goals exact ⟨rfl, rfl, rfl, rfl, rfl, rfl, rfl, rfl, rfl, rfl, fun w => by cases w <;> rfl, fun w => by cases w <;> rfl⟩

theorem stageText_live (v : Variant) (chars : List Byte) (o : OutContent) : SameLive o (o.stageText v chars) := by
  cases v
  all_goals exact ⟨rfl, rfl, rfl, rfl, rfl, rfl, rfl, rfl, rfl, rfl, fun w => by cases w <;> rfl, fun w => by cases w <;> rfl⟩

theorem stageFreqs_live (codes : List Nat) (o : OutContent) : SameLive o (o.stageFreqs codes) :=
  ⟨rfl, rfl, rfl, rfl, rfl, rfl, rfl, rfl, rfl, rfl, fun w => by cases w <;> rfl, fun w => by cases w <;> rfl⟩

theorem request_live (src : Source) (o : OutContent) : SameLive o (o.request src) :=
  ⟨rfl, rfl, rfl, rfl, rfl, rfl, rfl, rfl, rfl, rfl, fun w => by cases w <;> rfl, fun w => by cases w <;> rfl⟩

theorem updateSource_live (set : Bool) (o : OutContent) : SameLive o (o.updateSource set) :=
  ⟨rfl, rfl, rfl, rfl, rfl, rfl, rfl, rfl, rfl, rfl, fun w => by cases w <;> rfl, fun w => by cases w <;> rfl⟩

/-- What table changes keep of the content: the live content of every output, and the AN kept for the comparison. -/
structure SameContent (s t : State) : Prop where
  live : ∀ p, SameLive (s.out p) (t.out p)
  prevAn : t.content.prevAn = s.content.prevAn

theorem SameContent.refl (s : State) : SameContent s s := ⟨fun _ => .refl _, rfl⟩

theorem SameContent.trans {s t u : State} (h : SameContent s t) (k : SameContent t u) : SameContent s u :=
  ⟨fun p => (h.live p).trans (k.live p), k.prevAn.trans h.prevAn⟩

theorem SameContent.of_content {s t : State} (h : t.content = s.content) : SameContent s t := by
  refine ⟨fun p => ?_, by rw [h]⟩
  have out : t.out p = s.out p := congrArg (fun c : Content => c.outs.get p) h
  rw [out]
  exact .refl _

theorem modOuts_content (m : Mask) {f : OutContent → OutContent} (h : ∀ o, SameLive o (f o)) (s : State) :
    SameContent s (s.modOuts m f) := by
  refine ⟨fun p => ?_, rfl⟩
  have out : (s.modOuts m f).out p = if inMask m p then f (s.out p) else s.out p := Table.get_tabulate ..
  rw [out]
  split
  · exact h _
  · exact .refl _

theorem applyCmd_content (cmd : TimedCmd) (m : Mask) (l : LinkId) (count : Count) (s : State) :
    SameContent s (applyCmd cmd m l count s).state := by
  cases cmd with
  | label v lab => exact modOuts_content m (stageLabel_live v lab) s
  | text v chars => exact modOuts_content m (stageText_live v chars) s
  | freqlist codes => exact modOuts_content m (stageFreqs_live codes) s
  | neighbour slot identity freq carriers link chars =>
    simp only [applyCmd, applyNeighbour]
    split <;> exact ⟨fun p => .refl _, rfl⟩
  | neighbourFlags slot flags =>
    simp only [applyCmd, applyNeighbourFlags]
    split
    · exact .refl s
    · split
      · exact .refl s
      · exact ⟨fun p => .refl _, rfl⟩
  | optoutBegin =>
    simp only [applyCmd, applyOptoutBegin]
    split
    · exact .refl s
    · exact modOuts_content m (request_live .regional) s
  | optoutEnd => exact modOuts_content m (request_live .network) s
  | setInterval sv v => exact .of_content rfl
  | claim number cls priority group hold wait =>
    simp only [applyCmd, applyClaim]
    generalize hn : (Newcomer.mk _ _ _ _ _ _ _ _) = n
    have content := (admit_tables n count s).content
    split <;> next e => rw [e] at content; exact .of_content content
  | release number =>
    simp only [applyCmd, applyRelease]
    split <;> exact .of_content rfl
  | tmsgAdd key content reps spacing =>
    simp only [applyCmd, applyTmsgAdd]
    split
    · exact .of_content rfl
    · split <;> exact .of_content rfl
  | tmsgCancel key =>
    simp only [applyCmd, applyTmsgCancel]
    split <;> exact .of_content rfl

theorem applyEntry_content (late : Bool) (count : Count) (e : QueueEntry) (s : State) :
    SameContent s (applyEntry late count e s) := by
  rw [applyEntry_eq late count e s rfl]
  exact (applyCmd_content e.cmd e.target e.link count s).trans (.of_content rfl)

theorem tableChanges_content (o : Order) (expected new : Count) (s : State) :
    SameContent s (tableChanges o expected new s) := by
  have entries : SameContent s (takeEntries expected new s).2 := by
    unfold takeEntries
    split
    · exact .of_content rfl
    · simp only [takeLate]
      split <;> exact .of_content rfl
  refine entries.trans ?_
  exact takeChanges_induct (P := SameContent (takeEntries expected new s).2)
    (fun _ h => h.trans (.of_content rfl))
    (fun ch u h => h.trans (.of_content (takeChange_tables new ch u).content)) _ _ _ _
    (fun d _ u h => h.trans (applyEntry_content d.late new d.entry u)) (.refl _)

/-! ### Commits before the cells (R44, R46) -/

/-- What the commits of text and list keep of an output: everything of the label, the positions, the cycle; text and
list apart from their position 0. -/
structure Commits (a b : OutContent) : Prop where
  labelPos : b.labelPos = a.labelPos
  textPos : b.textPos = a.textPos
  freqPos : b.freqPos = a.freqPos
  nbSlot : b.nbSlot = a.nbSlot
  nbSeg : b.nbSeg = a.nbSeg
  text : a.textPos ≠ 0 → b.shownText = a.shownText
  freqs : a.freqPos ≠ 0 → b.freqs = a.freqs

theorem Commits.trans {a b c : OutContent} (h : Commits a b) (k : Commits b c) : Commits a c :=
  ⟨k.labelPos.trans h.labelPos, k.textPos.trans h.textPos, k.freqPos.trans h.freqPos, k.nbSlot.trans h.nbSlot,
    k.nbSeg.trans h.nbSeg, fun pos => (k.text (by rw [h.textPos]; exact pos)).trans (h.text pos),
    fun pos => (k.freqs (by rw [h.freqPos]; exact pos)).trans (h.freqs pos)⟩

theorem SameLive.commits {a b : OutContent} (h : SameLive a b) : Commits a b := by
  refine ⟨h.labelPos, h.textPos, h.freqPos, h.nbSlot, h.nbSeg, fun _ => ?_, fun _ => h.freqs⟩
  unfold OutContent.shownText
  rw [h.textShown, h.texts]

theorem commitText_commits (o : OutContent) : Commits o o.commitText := by
  unfold OutContent.commitText
  split
  next h =>
    cases o.source.variant
    all_goals exact ⟨rfl, rfl, rfl, rfl, rfl, fun pos => absurd h.1 pos, fun _ => rfl⟩
  · exact (SameLive.refl o).commits

theorem commitFreqs_commits (o : OutContent) : Commits o o.commitFreqs := by
  unfold OutContent.commitFreqs
  split
  · split
    next h => exact ⟨rfl, rfl, rfl, rfl, rfl, fun _ => rfl, fun pos => absurd h pos⟩
    · exact (SameLive.refl o).commits
  · exact (SameLive.refl o).commits

/-- The content of an output as the table changes find it: at its entry into RUN from the start of its cycles (R13). -/
def contentAtRun (s : State) (p : OutId) : OutContent := runOut (s.lane p).run (s.outCfg p).enable (s.out p)

theorem cellsOf_commits (s : State) (p : OutId) : Commits (contentAtRun s p) ((cellsOf s).out p) := by
  obtain ⟨b, hb⟩ : ∃ b, b = beforeTables s.tb.expected (s.tb.decideNext s.settings.mode).1
    (s.tb.decideNext s.settings.mode).2 s.tb.markNext.isSome s := ⟨_, rfl⟩
  obtain ⟨c, hc⟩ : ∃ c, c = tableChanges .free s.tb.expected (s.tb.decideNext s.settings.mode).1 b := ⟨_, rfl⟩
  have start : b.out p = contentAtRun s p := by
    rw [hb]
    exact (beforeTables_at ..).2
  have changed : SameLive (b.out p) (c.out p) := by
    rw [hc]
    exact (tableChanges_content ..).live p
  have out : (cellsOf s).out p = if (c.lane p).run then
      ((c.out p).updateSource ((c.outCfg p).regId != 0)).commitText.commitFreqs
      else (c.out p).updateSource ((c.outCfg p).regId != 0) := by
    have held : ∀ u : State, (holdPool (s.tb.decideNext s.settings.mode).1 u).out p = u.out p := fun _ => rfl
    have lane : ∀ u : State, (holdPool (s.tb.decideNext s.settings.mode).1 (updateSources u)).lane p = u.lane p :=
      fun _ => rfl
    rw [cellsOf, beforeCells, commitTexts_out, lane, held, updateSources_out, ← hb, ← hc]
  have live := changed.trans (updateSource_live ((c.outCfg p).regId != 0) (c.out p))
  rw [start] at live
  rw [out]
  split
  · exact (live.commits.trans (commitText_commits _)).trans (commitFreqs_commits _)
  · exact live.commits

theorem changeRun_prevAn (p : OutId) (s : State) : (changeRun p s).content.prevAn = s.content.prevAn := by
  unfold changeRun
  split
  all_goals rfl

theorem beforeTables_prevAn (expected new : Count) (arm : Option Count) (marked : Bool) (s : State) :
    (beforeTables expected new arm marked s).content.prevAn = s.content.prevAn := by
  have runs : (((judgeCell s).modTb (Timebase.beginCell new arm marked)).eachOut changeRun).content.prevAn =
      ((judgeCell s).modTb (Timebase.beginCell new arm marked)).content.prevAn :=
    eachOut_keeps (fun t => t.content.prevAn) _ changeRun_prevAn _
  rw [setUp_keeps new arm marked s (fun u => u.content.prevAn) fun _ _ _ => rfl] at runs
  unfold beforeTables
  simp only
  split
  · exact runs
  · rw [noteJump_content, runs]

theorem cellsOf_prevAn (s : State) : (cellsOf s).content.prevAn = s.content.prevAn := by
  have last : ∀ (n : Count) (u : State), (commitTexts (holdPool n (updateSources u))).content.prevAn =
      u.content.prevAn := fun _ _ => rfl
  rw [cellsOf, beforeCells, last, (tableChanges_content ..).prevAn, beforeTables_prevAn]

/-- What leads to the state in which the sequencers begin. -/
theorem cellsOf_acts {s : State} (h : s.inRange) : Acts TimedCmd.proper s (cellsOf s) := by
  obtain ⟨_, _, entries, _, _⟩ := h
  have tables := (beforeTables_acts (C := TimedCmd.proper) s.tb.expected (s.tb.decideNext s.settings.mode).1
    (s.tb.decideNext s.settings.mode).2 s.tb.markNext.isSome s).trans
    (tableChanges_acts .free s.tb.expected (s.tb.decideNext s.settings.mode).1
      (by rw [beforeTables_entries]; exact entries))
  exact ((tables.trans (updateSources_acts _)).trans (holdPool_acts _ _)).trans (commitTexts_acts _)

theorem cellsOf_inRange {s : State} (h : s.inRange) : (cellsOf s).inRange :=
  (cellsOf_acts h).induct (P := State.inRange) (fun _ _ => act_inRange) h

theorem cellsOf_positions {s : State} (h : s.inRange) (within : s.positionsWithin) : (cellsOf s).positionsWithin :=
  ((cellsOf_acts h).induct (P := fun u => u.inRange ∧ u.positionsWithin)
    (fun _ _ a hu => ⟨act_inRange a hu.1, act_positions a hu.1 hu.2⟩) ⟨h, within⟩).2

end Sys2Proof.Machine

/-! PROOFS. The traffic message pool through a boundary (R78 to R81). -/

namespace Sys2Proof.Machine

/-! ### Due, held, sent -/

theorem due_iff (c : Count) (p : OutId) (r : PoolRecord) :
    due c p r = true ↔ 0 < r.repeats.get p ∧ (c - r.nextEligible.get p).toNat < 8388608 := by
  rw [due, Bool.and_eq_true, decide_eq_true_iff, decide_eq_true_iff]

theorem holdRecord_nextEligible (c : Count) (p : OutId) (r : PoolRecord) : (holdRecord c r).nextEligible.get p =
    if 1 ≤ (c - r.nextEligible.get p).toNat ∧ (c - r.nextEligible.get p).toNat ≤ 8388607 then c
    else r.nextEligible.get p := Table.get_map ..

/-- The hold changes no record's being due. -/
theorem due_holdRecord (c : Count) (p : OutId) (r : PoolRecord) : due c p (holdRecord c r) = due c p r := by
  rw [Bool.eq_iff_iff, due_iff, due_iff, holdRecord_nextEligible]
  have repeats : (holdRecord c r).repeats = r.repeats := rfl
  rw [repeats]
  split
  next behind =>
    have zero : (c - c).toNat = 0 := by rw [BitVec.sub_self]; rfl
    rw [zero]
    omega
  · rfl

/-- A count that does not lie behind `c`. -/
def Ahead (c ne : Count) : Prop := (c - ne).toNat = 0 ∨ 8388608 ≤ (c - ne).toNat

theorem holdRecord_ahead (c : Count) (r : PoolRecord) (p : OutId) : Ahead c ((holdRecord c r).nextEligible.get p) := by
  rw [holdRecord_nextEligible]
  unfold Ahead
  split
  · left
    rw [BitVec.sub_self]
    rfl
  · omega

theorem ahead_of_spacing (c : Count) {spacing : Nat} (h : spacing ≤ 8388608) : Ahead c (c + BitVec.ofNat 24 spacing) := by
  have top := c.isLt
  unfold Ahead
  rw [BitVec.toNat_sub, BitVec.toNat_add, BitVec.toNat_ofNat]
  omega

theorem sendRecord_nextEligible (c : Count) (p : OutId) (r : PoolRecord) :
    (sendRecord c p r).nextEligible.get p = c + BitVec.ofNat 24 r.spacing ∧
      ∀ q, q ≠ p → (sendRecord c p r).nextEligible.get q = r.nextEligible.get q :=
  ⟨Table.get_set_self .., fun _ other => Table.get_set_ne _ _ other.symm⟩

theorem sendRecord_repeats (c : Count) (p : OutId) (r : PoolRecord) :
    (sendRecord c p r).repeats.get p = r.repeats.get p - 1 ∧
      ∀ q, q ≠ p → (sendRecord c p r).repeats.get q = r.repeats.get q := by
  have get : ∀ q, (sendRecord c p r).repeats.get q = _ := fun q => Table.get_modify ..
  refine ⟨(get p).trans (if_pos rfl), fun q other => (get q).trans (if_neg other.symm)⟩

theorem spent_iff (r : PoolRecord) : spent r = true ↔ ∀ p, r.repeats.get p = 0 := by
  unfold spent
  rw [Table.all_iff]
  exact forall_congr' fun p => beq_iff_eq

/-- The earliest record due, and what its send leaves of the pool. -/
theorem sendFirst_split {c : Count} {p : OutId} {r : PoolRecord} {after : List PoolRecord} :
    ∀ {before : List PoolRecord}, (∀ q, q ∈ before → due c p q = false) → due c p r = true →
      sendFirst c p (before ++ r :: after) =
        before ++ if spent (sendRecord c p r) then after else sendRecord c p r :: after := by
  intro before
  induction before with
  | nil => exact fun _ dueNow => if_pos dueNow
  | cons b bs ih =>
    intro early dueNow
    have rest := ih (fun q hq => early q (List.mem_cons_of_mem _ hq)) dueNow
    rw [List.cons_append, sendFirst, if_neg (Bool.eq_false_iff.1 (early b List.mem_cons_self)), rest]
    rfl

/-- What a send leaves of the pool comes from what stood in it. -/
theorem mem_sendFirst {c : Count} {p : OutId} {r : PoolRecord} : ∀ {rs : List PoolRecord}, r ∈ sendFirst c p rs →
    r ∈ rs ∨ ∃ q, q ∈ rs ∧ r = sendRecord c p q := by
  intro rs
  induction rs with
  | nil => exact fun h => .inl h
  | cons b bs ih =>
    intro h
    rw [sendFirst] at h
    split at h
    · split at h
      · exact .inl (List.mem_cons_of_mem _ h)
      · rcases List.mem_cons.1 h with rfl | later
        · exact .inr ⟨b, List.mem_cons_self, rfl⟩
        · exact .inl (List.mem_cons_of_mem _ later)
    · rcases List.mem_cons.1 h with rfl | later
      · exact .inl List.mem_cons_self
      · rcases ih later with old | ⟨q, hq, e⟩
        · exact .inl (List.mem_cons_of_mem _ old)
        · exact .inr ⟨q, List.mem_cons_of_mem _ hq, e⟩

/-! ### The pool as the outputs find it in turn -/

/-- The records once the outputs before number `n` have sent, after a boundary that ends in `t`. -/
def sendsTo (t : State) (n : Nat) (rs : List PoolRecord) : List PoolRecord :=
  (outputs.take n).foldl (fun rs p => if t.cellKind p = some 4 then sendFirst t.tb.count p rs else rs) rs

theorem sendsTo_succ (t : State) (p : OutId) (rs : List PoolRecord) : sendsTo t (p.val + 1) rs =
    if t.cellKind p = some 4 then sendFirst t.tb.count p (sendsTo t p.val rs) else sendsTo t p.val rs := by
  rw [sendsTo, outputs_take, List.foldl_append]
  rfl

theorem tmsg_iff (k : CellKind) : k.index.val = 4 ↔ k = .tmsg := by
  cases k <;> decide

theorem lastStages_pool (u : State) : (beginBits 0 (selectMonitor (gainTokens u))).pool = u.pool := rfl

theorem compareNeighbours_pool (first : Bool) (u : State) : (compareNeighbours first u).pool = u.pool := by
  have kept : ∀ v, (keepAn v).pool = v.pool := fun _ => rfl
  rw [compareNeighbours, kept]
  exact eachOut_keeps (·.pool) _ (fun q t => requestBursts_keeps (·.pool) (fun _ _ => rfl) first q t) u

section
variable {s t : State} (row : exec .cellBoundary s = .next t)
include row

theorem cellBoundary_turns (held : List Claim) (h : held = (cellsOf s).claims.table) : ∀ n, n ≤ 4 →
    (schedulesTo held n (afterViews (cellsOf s))).pool.records = sendsTo t n (cellsOf s).pool.records := by
  subst h
  intro n
  induction n with
  | zero =>
    intro _
    rw [schedulesTo_zero, afterViews_pool]
    rfl
  | succ n ih =>
    intro bound
    obtain ⟨p, hp⟩ : ∃ p : OutId, p.val = n := ⟨⟨n, by omega⟩, rfl⟩
    have before := ih (by omega)
    rw [← hp] at before ⊢
    rw [schedulesTo_succ, sendsTo_succ, ← before]
    have turn : schedulesTo (cellsOf s).claims.table p.val (afterViews (cellsOf s)) = turnOf p (cellsOf s) := rfl
    rw [turn]
    cases enabled : (s.outCfg p).enable with
    | true =>
      have sent := cellBoundary_sent row enabled
      have running : ((turnOf p (cellsOf s)).lane p).run = true := (sent.choices.run p).symm.trans sent.run
      rw [(schedule_turn _ p _ running).records, sent.kind, CellKind.records, sent.choices.tb]
      refine if_of_iff ?_
      rw [Option.some_inj, tmsg_iff]
    | false =>
      have stopped : ((turnOf p (cellsOf s)).lane p).run = false := by
        rw [turnOf_lane, sequencedLane_run, cellsOf_run, enabled]
      have none : t.cellKind p = none := by
        unfold State.cellKind
        rw [cellBoundary_off row enabled]
        refine if_neg (Bool.eq_false_iff.1 ?_)
        exact (cellsOf_run s p).trans enabled
      rw [schedule_rests _ _ _ stopped, none, if_neg nofun]

theorem cellBoundary_turnPool (p : OutId) :
    (turnOf p (cellsOf s)).pool.records = sendsTo t p.val (cellsOf s).pool.records :=
  cellBoundary_turns row _ rfl p.val (by omega)

theorem cellBoundary_pool : t.pool.records = sendsTo t 4 (cellsOf s).pool.records := by
  have filled : t.pool = (fillCells (cellsOf s)).pool := by
    rw [exec_cellBoundary row, boundaryAt_eq, lastStages_pool, compareNeighbours_pool]
    rfl
  rw [filled, fillCells_eq, cellBoundary_turns row _ rfl 4 (Nat.le_refl _)]

theorem cellBoundary_count : t.tb.count = (s.tb.decideNext s.settings.mode).1 := by
  rw [exec_cellBoundary row, boundaryAt_tb, boundaryTb_eq]

end

/-! ### The pool as the first output finds it -/

theorem beforeTables_pool (expected new : Count) (arm : Option Count) (marked : Bool) (s : State) :
    (beforeTables expected new arm marked s).pool.records =
      s.pool.records.map fun r => if new = expected then r else { r with nextEligible := .replicate 4 new } := by
  have runs : (((judgeCell s).modTb (Timebase.beginCell new arm marked)).eachOut changeRun).pool =
      ((judgeCell s).modTb (Timebase.beginCell new arm marked)).pool :=
    eachOut_keeps (·.pool) _ (fun q u => changeRun_keeps (·.pool) (fun _ _ _ => rfl) q u) _
  rw [setUp_keeps new arm marked s (·.pool) fun _ _ _ => rfl] at runs
  unfold beforeTables
  simp only
  by_cases onTime : new = expected
  · simp only [if_pos onTime]
    rw [runs, List.map_id']
  · simp only [if_neg onTime]
    rw [noteJump_eq, runs]

theorem cellsOf_pool {s : State} (empty : s.queue.entries = []) : (cellsOf s).pool.records =
    s.pool.records.map fun r => holdRecord (s.tb.decideNext s.settings.mode).1
      (if (s.tb.decideNext s.settings.mode).1 = s.tb.expected then r
        else { r with nextEligible := .replicate 4 (s.tb.decideNext s.settings.mode).1 }) := by
  have last : ∀ (n : Count) (u : State), (commitTexts (holdPool n (updateSources u))).pool.records =
      u.pool.records.map (holdRecord n) := fun _ _ => rfl
  have tables := tableChanges_tables .free s.tb.expected (s.tb.decideNext s.settings.mode).1
    (beforeTables s.tb.expected (s.tb.decideNext s.settings.mode).1 (s.tb.decideNext s.settings.mode).2
      s.tb.markNext.isSome s) (by rw [beforeTables_entries, empty])
  rw [cellsOf, beforeCells, last, tables.2.2, beforeTables_pool, List.map_map]
  rfl

section
variable {s t : State} (row : exec .cellBoundary s = .next t) (empty : s.queue.entries = [])
include row empty

/-- Without timed entries each output finds the pool as the statements of the boundary describe it. -/
theorem poolAt_eq (n : Nat) : s.poolAt t n = sendsTo t n (cellsOf s).pool.records := by
  rw [cellsOf_pool empty, ← cellBoundary_count row]
  rfl

end

/-! ### What stands in the pool after a boundary -/

theorem sendsTo_induct {t : State} {P : PoolRecord → Prop}
    (sends : ∀ p r, P r → P (sendRecord t.tb.count p r)) : ∀ n, n ≤ 4 → ∀ rs : List PoolRecord,
      (∀ r, r ∈ rs → P r) → ∀ r, r ∈ sendsTo t n rs → P r := by
  intro n
  induction n with
  | zero => exact fun _ rs h r hr => h r hr
  | succ n ih =>
    intro bound rs h r hr
    obtain ⟨p, rfl⟩ : ∃ p : OutId, p.val = n := ⟨⟨n, by omega⟩, rfl⟩
    rw [sendsTo_succ] at hr
    split at hr
    · rcases mem_sendFirst hr with old | ⟨q, hq, rfl⟩
      · exact ih (by omega) rs h r old
      · exact sends p q (ih (by omega) rs h q hq)
    · exact ih (by omega) rs h r hr

end Sys2Proof.Machine

/-! PROOFS. Records due, held and sent (R78 to R80). -/

namespace Sys2Proof.Machine

theorem cellsOf_ahead (s : State) {r : PoolRecord} (hr : r ∈ (cellsOf s).pool.records) (p : OutId) :
    Ahead (s.tb.decideNext s.settings.mode).1 (r.nextEligible.get p) := by
  have last : ∀ (n : Count) (u : State), (commitTexts (holdPool n (updateSources u))).pool.records =
      u.pool.records.map (holdRecord n) := fun _ _ => rfl
  rw [cellsOf, beforeCells, last] at hr
  obtain ⟨q, _, rfl⟩ := List.mem_map.1 hr
  exact holdRecord_ahead ..

/-- After a boundary no next-eligible count lies behind. -/
theorem cellBoundary_ahead {s t : State} (h : s.inRange) (row : exec .cellBoundary s = .next t) {r : PoolRecord}
    (hr : r ∈ t.pool.records) (p : OutId) : Ahead t.tb.count (r.nextEligible.get p) := by
  obtain ⟨_, _, _, _, records⟩ := cellsOf_inRange h
  have start : ∀ r, r ∈ (cellsOf s).pool.records → r.proper ∧ ∀ p, Ahead t.tb.count (r.nextEligible.get p) := by
    intro r hr
    rw [cellBoundary_count row]
    exact ⟨records r hr, cellsOf_ahead s hr⟩
  rw [cellBoundary_pool row] at hr
  refine (sendsTo_induct (P := fun r => r.proper ∧ ∀ p, Ahead t.tb.count (r.nextEligible.get p)) (fun q r hold => ?_) 4
    (Nat.le_refl _) _ start r hr).2 p
  obtain ⟨proper, ahead⟩ := hold
  obtain ⟨_, _, spacing, _⟩ := id proper
  obtain ⟨own, others⟩ := sendRecord_nextEligible t.tb.count q r
  refine ⟨sendRecord_proper _ q proper, fun p => ?_⟩
  rcases equal_or_other p q with rfl | other
  · rw [own]
    exact ahead_of_spacing _ (Nat.le_trans spacing (by decide))
  · rw [others p other]
    exact ahead p

/-- A send of the earliest record due, with what it leaves of the pool. -/
theorem sendFirst_sends (n : Count) (p : OutId) (before after : List PoolRecord) (r : PoolRecord)
    (early : ∀ q, q ∈ before → due n p q = false) (dueNow : due n p r = true) :
    ∃ sent : PoolRecord, sent.key = r.key ∧ sent.content = r.content ∧ sent.target = r.target ∧
      sent.spacing = r.spacing ∧ sent.repeats.get p = r.repeats.get p - 1 ∧
      sent.nextEligible.get p = n + BitVec.ofNat 24 r.spacing ∧
      (∀ q, q ≠ p → sent.repeats.get q = r.repeats.get q ∧ sent.nextEligible.get q = r.nextEligible.get q) ∧
      ((∃ q, sent.repeats.get q ≠ 0) → sendFirst n p (before ++ r :: after) = before ++ sent :: after) ∧
      ((∀ q, sent.repeats.get q = 0) → sendFirst n p (before ++ r :: after) = before ++ after) := by
  obtain ⟨repeats, otherRepeats⟩ := sendRecord_repeats n p r
  obtain ⟨eligible, otherEligible⟩ := sendRecord_nextEligible n p r
  have split := sendFirst_split (after := after) early dueNow
  refine ⟨sendRecord n p r, rfl, rfl, rfl, rfl, repeats, eligible,
    fun q other => ⟨otherRepeats q other, otherEligible q other⟩, fun ⟨q, left⟩ => ?_, fun none => ?_⟩
  · rw [split, if_neg fun all => left ((spent_iff _).1 all q)]
  · rw [split, if_pos ((spent_iff _).2 none)]

theorem Winner.tmsg_of {w : Winner} (h : w.kind = .tmsg) : w = .service .tmsg := by
  cases w with
  | service sv => cases sv <;> first | rfl | cases h
  | announceBurst => cases h
  | neighbourBurst b => cases h
  | filler => cases h

/-- A service that takes the cell is ready in the state of the output's turn. -/
theorem turnWinner_ready {p : OutId} {x : State} {sv : Service} (h : turnWinner p x = .service sv) :
    ready x p sv = true := by
  have chosen := candidate_ready (winner_candidate h)
  have phase : ((beforeChoice p x).lane p).seq.phase = (x.lane p).seq.phase := by rw [beforeChoice_lane]
  cases sv with
  | announce =>
    unfold ready at chosen ⊢
    simp only at chosen ⊢
    rw [← phase]
    exact chosen
  | tmsg => exact chosen
  | label => exact chosen
  | freq => exact chosen
  | neighbour => exact chosen
  | text => exact chosen

/-- The record of a TMSG cell: the earliest one due as the output finds the pool. -/
theorem turnWinner_record {p : OutId} {x : State} (h : turnWinner p x = .service .tmsg) :
    ∃ before r after, x.pool.records = before ++ r :: after ∧ (∀ q, q ∈ before → due x.tb.count p q = false) ∧
      due x.tb.count p r = true ∧ firstDue x x.tb.count p = some r := by
  have any : x.pool.records.any (due x.tb.count p) = true := turnWinner_ready h
  obtain ⟨r, found⟩ : ∃ r, firstDue x x.tb.count p = some r := by
    refine Option.isSome_iff_exists.1 (List.find?_isSome.2 ?_)
    exact List.any_eq_true.1 any
  obtain ⟨dueNow, before, after, split, early⟩ := List.find?_eq_some_iff_append.1 found
  exact ⟨before, r, after, split, fun q hq => (Bool.not_eq_true' _).mp (early q hq), dueNow, found⟩

theorem Sent.payload_of {s : State} {p : OutId} {u x : State} {w : Winner} {t : State} {cell : Cell}
    (h : Sent s p u x w t) (fixed : (t.lane p).asm.cell = some cell) :
    cell.payload = BitVec.ofNat 64 (natOf (w.payload u.claims.table p x)) ∧ cell.control.toNat / 16 = w.kind.index.val := by
  have made := Option.some.inj (fixed.symm.trans h.cell)
  obtain ⟨_, control, payload, _⟩ := makeCell_fields made
  exact ⟨payload, by rw [control, controlByte_kind]⟩

/-- Settles O38: due and held, sent, and the pool thread of the outputs' turns. -/
theorem poolRecordsAreDueHeldAndSent : Obligations.PoolRecordsAreDueHeldAndSent := by
  refine ⟨fun c p r => ⟨due_iff c p r, holdRecord_nextEligible c p r, due_holdRecord c p r, rfl⟩,
    fun s t h row r hr p => cellBoundary_ahead h row hr p, sendFirst_sends, fun s t row empty => ?_⟩
  refine ⟨by rw [poolAt_eq row empty, cellBoundary_pool row], fun p cell enabled fixed four => ?_⟩
  have sent := cellBoundary_sent row enabled
  obtain ⟨payload, kind⟩ := sent.payload_of fixed
  have tmsg : turnWinner p (turnOf p (cellsOf s)) = .service .tmsg :=
    Winner.tmsg_of ((tmsg_iff _).1 (kind.symm.trans four))
  obtain ⟨before, r, after, split, early, dueNow, found⟩ := turnWinner_record tmsg
  rw [cellBoundary_turnPool row] at split
  rw [← sent.choices.tb] at early dueNow found
  refine ⟨before, r, after, by rw [poolAt_eq row empty, split], early, dueNow, ?_⟩
  rw [payload, tmsg]
  have bytes : Winner.payload (cellsOf s).claims.table p (turnOf p (cellsOf s)) (.service .tmsg) = tmsgPayload r := by
    show ((firstDue _ _ p).map tmsgPayload).getD _ = _
    rw [← sent.choices.tb, found]
    rfl
  rw [bytes]
  rfl

end Sys2Proof.Machine

/-! SUPPORT. The payloads byte by byte, and the winner by the kind of its cell (R6 to R10, R58, R174). -/

namespace Sys2Proof.Machine

/-! ### Fields of characters -/

theorem getD_take_append {k j : Nat} {bs : List Byte} (h : j < k) :
    (padTo k bs)[j]? = some (bs.getD j 0x20) := by
  rw [padTo, List.getElem?_take_of_lt h, List.getD_eq_getElem?_getD]
  rcases Nat.lt_or_ge j bs.length with inside | past
  · rw [List.getElem?_append_left inside, List.getElem?_eq_getElem inside]
    rfl
  · rw [List.getElem?_append_right past, List.getElem?_replicate_of_lt (by omega), List.getElem?_eq_none past]
    rfl

theorem padTo_map (k : Nat) (bs : List Byte) : padTo k bs = (List.range k).map fun j => bs.getD j 0x20 := by
  refine List.ext_getElem? fun j => ?_
  rcases Nat.lt_or_ge j k with inside | past
  · rw [getD_take_append inside, List.getElem?_map, List.getElem?_range inside]
    rfl
  · rw [List.getElem?_eq_none (by rw [padTo_length]; exact past),
      List.getElem?_eq_none (by rw [List.length_map, List.length_range]; exact past)]

theorem segment_eq (chars : List Byte) (i : Nat) :
    segment chars i = (List.range 6).map fun j => chars.getD (6 * i + j) 0x20 := by
  rw [segment, padTo_map]
  refine List.map_congr_left fun j _ => ?_
  rw [List.getD_eq_getElem?_getD, List.getElem?_drop, List.getD_eq_getElem?_getD]

theorem indexTotal_eq (i n : Nat) : indexTotal i n = BitVec.ofNat 8 (16 * i + n) := by
  rw [indexTotal, Nat.mul_comm]

/-! ### Payloads of services -/

theorem labelPayload_eq (o : OutContent) : labelPayload o =
    [BitVec.ofNat 8 (16 * o.labelPos + (o.shownLabel.chars.length + 5) / 6)] ++
      (List.range 6).map (fun j => o.shownLabel.chars.getD (6 * o.labelPos + j) 0x20) ++
        [BitVec.ofNat 8 o.shownLabel.category] := by
  rw [labelPayload, segment_eq, indexTotal_eq]
  rfl

theorem textPayload_eq (o : OutContent) : textPayload o =
    [BitVec.ofNat 8 (16 * o.textPos + (o.shownText.length + 5) / 6), o.textVersion] ++
      (List.range 6).map (fun j => o.shownText.getD (6 * o.textPos + j) 0x20) := by
  rw [textPayload, segment_eq, indexTotal_eq]
  rfl

theorem freqPayload_eq (o : OutContent) {code : Nat → Nat} (h : ∀ j, code j = o.freqs.getD (4 * o.freqPos + j) 0) :
    freqPayload o = [BitVec.ofNat 8 (16 * o.freqPos + (o.freqs.length + 3) / 4), BitVec.ofNat 8 o.freqs.length] ++
      bytesOf 6 (code 0 * 2 ^ 36 + code 1 * 2 ^ 24 + code 2 * 2 ^ 12 + code 3) := by
  have field : chunkField o.freqs o.freqPos = code 0 * 2 ^ 36 + code 1 * 2 ^ 24 + code 2 * 2 ^ 12 + code 3 := by
    rw [chunkField]
    simp only
    rw [← h, ← h, ← h, ← h]
    omega
  rw [freqPayload, indexTotal_eq, field]
  rfl

theorem neighbourPayload_eq (r : Neighbour) (f : Flags3) (second : Bool) : neighbourPayload r f second =
    bytesOf 2 r.identity.toNat ++
      [BitVec.ofNat 8 (f.tc.toNat * 128 + f.an.toNat * 64 + f.rg.toNat * 32 + second.toNat * 16 + r.freq / 256),
        BitVec.ofNat 8 (r.freq % 256)] ++
      (List.range 4).map fun j => r.label.getD (4 * second.toNat + j) 0x20 := by
  have low : BitVec.ofNat 8 r.freq = BitVec.ofNat 8 (r.freq % 256) := by
    refine BitVec.eq_of_toNat_eq ?_
    rw [BitVec.toNat_ofNat, BitVec.toNat_ofNat, Nat.mod_mod]
  have chars : ((padTo 8 r.label).drop (if second then 4 else 0)).take 4 =
      (List.range 4).map fun j => r.label.getD (4 * second.toNat + j) 0x20 := by
    rw [padTo_map]
    cases second <;> rfl
  rw [neighbourPayload, chars, low]

/-! ### The winner by the kind of its cell -/

theorem CellKind.of_index (k : CellKind) :
    [CellKind.filler, .label, .freq, .text, .tmsg, .neighbour, .announce][k.index.val]? = some k := by
  cases k <;> rfl

theorem CellKind.index_inj {k k' : CellKind} (h : k.index.val = k'.index.val) : k = k' := by
  have found := k.of_index
  rw [h, k'.of_index] at found
  exact (Option.some.inj found).symm

theorem Winner.filler_of {w : Winner} (h : w.kind = .filler) : w = .filler := by
  cases w with
  | filler => rfl
  | announceBurst => cases h
  | neighbourBurst b => cases h
  | service sv => cases sv <;> cases h

theorem Winner.label_of {w : Winner} (h : w.kind = .label) : w = .service .label := by
  cases w with
  | filler => cases h
  | announceBurst => cases h
  | neighbourBurst b => cases h
  | service sv => cases sv <;> first | rfl | cases h

theorem Winner.freq_of {w : Winner} (h : w.kind = .freq) : w = .service .freq := by
  cases w with
  | filler => cases h
  | announceBurst => cases h
  | neighbourBurst b => cases h
  | service sv => cases sv <;> first | rfl | cases h

theorem Winner.text_of {w : Winner} (h : w.kind = .text) : w = .service .text := by
  cases w with
  | filler => cases h
  | announceBurst => cases h
  | neighbourBurst b => cases h
  | service sv => cases sv <;> first | rfl | cases h

theorem Winner.neighbour_of {w : Winner} (h : w.kind = .neighbour) :
    w = .service .neighbour ∨ ∃ b, w = .neighbourBurst b := by
  cases w with
  | filler => cases h
  | announceBurst => cases h
  | neighbourBurst b => exact .inr ⟨b, rfl⟩
  | service sv => cases sv <;> first | exact .inl rfl | cases h

theorem Winner.announce_of {w : Winner} (h : w.kind = .announce) : w = .service .announce ∨ w = .announceBurst := by
  cases w with
  | filler => cases h
  | announceBurst => exact .inr rfl
  | neighbourBurst b => cases h
  | service sv => cases sv <;> first | exact .inl rfl | cases h

/-! ### What a NEIGHBOUR cell comes from (R52, R62) -/

theorem carries_iff (s : State) (p : OutId) (slot : SlotId) : carries s p slot = true ↔
    ∃ r, s.content.neighbours.get slot = some r ∧ r.carriers.getLsbD p.val = true := by
  unfold carries inMask
  rw [Option.any_eq_true]

theorem winner_neighbourBurst {s : State} {p : OutId} {b : NbBurst} (h : winner s p = .neighbourBurst b) :
    (s.lane p).seq.burst = 0 ∧ (s.lane p).sched.nbRunning = some b := by
  unfold winner at h
  split at h
  · cases h
  next none =>
    refine ⟨Nat.eq_zero_of_not_pos none, ?_⟩
    split at h
    next c running =>
      obtain rfl := Winner.neighbourBurst.inj h
      exact running
    next => split at h <;> cases h

theorem checkBurst_running {valid : SlotId → Bool} {k : Scheduler} {b : NbBurst}
    (h : (k.checkBurst valid).nbRunning = some b) : k.nbRunning = some b ∧ valid b.slot = true := by
  unfold Scheduler.checkBurst at h
  split at h
  next none =>
    rw [none] at h
    cases h
  next c running =>
    split at h
    next held =>
      obtain rfl := Option.some.inj (running.symm.trans h)
      exact ⟨running, held⟩
    · cases h

/-- A burst that takes the cell comes from a slot the output carries. -/
theorem turnWinner_burst {p : OutId} {x : State} {b : NbBurst} (h : turnWinner p x = .neighbourBurst b) :
    carries x p b.slot = true := by
  have running := (winner_neighbourBurst h).2
  rw [beforeChoice_lane] at running
  exact (checkBurst_running running).2

theorem find_finRange {n : Nat} {f : Fin n → Bool} {i : Fin n} (here : f i = true) (first : ∀ j, j < i → f j = false) :
    (List.finRange n).find? f = some i := by
  refine List.find?_eq_some_iff_getElem.2 ⟨here, i.val, ?_, ?_, fun j before => ?_⟩
  · rw [List.length_finRange]
    exact i.isLt
  · rw [List.getElem_finRange]
    rfl
  · rw [List.getElem_finRange]
    exact (Bool.not_eq_true' _).mpr (first _ before)

/-- The slot and segment of the cycle, from the first slot carried. -/
theorem cycleChoice_of {s : State} {p : OutId} {i : SlotId} (here : carries s p ((s.out p).nbSlot + i) = true)
    (first : ∀ j, j < i → carries s p ((s.out p).nbSlot + j) = false) :
    cycleChoice s p = some ((s.out p).nbSlot + i, if i = 0 then (s.out p).nbSeg else false) := by
  have found : (List.finRange 8).find? (fun i => (s.content.neighbours.get ((s.out p).nbSlot + i)).any
      fun r => inMask r.carriers p) = some i := find_finRange here first
  unfold cycleChoice
  simp only [found]

theorem slot_add_sub : ∀ a b : SlotId, a + (b - a) = b := by decide

/-- The cycle sends from a slot the output carries. -/
theorem cycleChoice_carries {s : State} {p : OutId} (ready : neighbourReady s p = true) :
    ∃ c, cycleChoice s p = some c ∧ carries s p c.1 = true := by
  obtain ⟨slot, carried⟩ : ∃ slot, carries s p slot = true := by
    obtain ⟨r, mem, carried⟩ := List.any_eq_true.1 ready
    obtain ⟨i, hi, rfl⟩ := List.mem_iff_getElem.1 mem
    exact ⟨⟨i, by rw [← s.content.neighbours.size_eq]; exact hi⟩, carried⟩
  obtain ⟨i, found⟩ : ∃ i, (List.finRange 8).find? (fun i => carries s p ((s.out p).nbSlot + i)) = some i := by
    refine Option.isSome_iff_exists.1 (List.find?_isSome.2 ⟨slot - (s.out p).nbSlot, List.mem_finRange _, ?_⟩)
    rw [slot_add_sub]
    exact carried
  have here : carries s p ((s.out p).nbSlot + i) = true := List.find?_some (p := fun i => carries s p ((s.out p).nbSlot + i)) found
  refine ⟨((s.out p).nbSlot + i, if i = 0 then (s.out p).nbSeg else false), ?_, here⟩
  have found' : (List.finRange 8).find? (fun i => (s.content.neighbours.get ((s.out p).nbSlot + i)).any
      fun r => inMask r.carriers p) = some i := found
  unfold cycleChoice
  simp only [found']

end Sys2Proof.Machine

/-! PROOFS. What the cells carry (R6 to R10, R43, R45, R46, R113). -/

namespace Sys2Proof.Machine

/-! ### Positions and shown content -/

theorem contentAtRun_positions {s : State} {p : OutId} (enabled : (s.outCfg p).enable = true) :
    (contentAtRun s p).labelPos = (if (s.lane p).run then (s.out p).labelPos else 0) ∧
      (contentAtRun s p).textPos = (if (s.lane p).run then (s.out p).textPos else 0) ∧
      (contentAtRun s p).freqPos = (if (s.lane p).run then (s.out p).freqPos else 0) := by
  unfold contentAtRun runOut
  rw [enabled]
  cases (s.lane p).run <;> exact ⟨rfl, rfl, rfl⟩

/-- An output that stays in RUN keeps its content. -/
theorem contentAtRun_running {s : State} {p : OutId} (run : (s.lane p).run = true) : contentAtRun s p = s.out p := by
  unfold contentAtRun runOut
  rw [run]
  rfl

theorem contentAtRun_of_pos {s : State} {p : OutId} {i n : Nat}
    (hi : i = if (s.lane p).run then n else 0) (pos : i ≠ 0) : (s.lane p).run = true ∧ i = n := by
  cases run : (s.lane p).run with
  | true =>
    rw [run] at hi
    exact ⟨rfl, hi⟩
  | false =>
    rw [run] at hi
    exact absurd hi pos

theorem shownLabel_eq (o : OutContent) : o.shownLabel = (match o.labelShown with
    | .n => o.varN.label
    | .r => o.varR.label) := by
  unfold OutContent.shownLabel
  cases o.labelShown <;> rfl

theorem shownText_eq (o : OutContent) : o.shownText = (match o.textShown with
    | .n => o.varN.text
    | .r => o.varR.text) := by
  unfold OutContent.shownText
  cases o.textShown <;> rfl

/-! ### The announcement (R10, R113) -/

/-- A sequencer on its way to the air, or on it, names the claim chosen. -/
theorem Sequencer.boundary_sounding {cfg : OutSettings} {chosen : Option ClaimRef} {q : Sequencer}
    (sounds : (q.boundary cfg chosen).phase = .onset ∨ (q.boundary cfg chosen).phase = .onAir) :
    chosen ≠ none ∧ (q.boundary cfg chosen).current = chosen := by
  have phases := boundary_names cfg chosen q
  obtain ⟨phase, current⟩ := phases
  cases tc : cfg.tc with
  | false =>
    rw [phase, tc] at sounds
    rcases sounds with onset | onAir
    · cases onset
    · cases onAir
  | true =>
    rw [phase, tc, if_pos rfl] at sounds
    rw [current, tc, if_pos rfl]
    cases was : q.phase with
    | quiet =>
      cases chosen with
      | none =>
        rw [transition_quiet_none was, was] at sounds
        rcases sounds with onset | onAir
        · cases onset
        · cases onAir
      | some r => exact ⟨nofun, by rw [transition_quiet_some was]; rfl⟩
    | onset =>
      cases chosen with
      | none =>
        rw [transition_onset_none was] at sounds
        rcases sounds with onset | onAir
        · cases onset
        · cases onAir
      | some r => exact ⟨nofun, by rw [transition_onset_some was]; rfl⟩
    | onAir =>
      cases chosen with
      | none =>
        rw [transition_onAir_none was, finish] at sounds
        simp only at sounds
        split at sounds
        all_goals
          rcases sounds with onset | onAir
          · cases onset
          · cases onAir
      | some r => exact ⟨nofun, by rw [transition_onAir_some was]; rfl⟩
    | trail =>
      cases chosen with
      | none =>
        rw [transition_trail_none was, lessTrail] at sounds
        simp only at sounds
        split at sounds
        all_goals
          rcases sounds with onset | onAir
          · cases onset
          · cases onAir
      | some r => exact ⟨nofun, by rw [transition_trail_some was]; rfl⟩

theorem announcePayload_quiet {held : List Claim} {q : Sequencer} (h : q.phase = .quiet) :
    announcePayload held q = List.replicate 8 0 := by
  unfold announcePayload
  rw [h]

theorem announcePayload_trail {held : List Claim} {q : Sequencer} {v : ClaimView} (h : q.phase = .trail)
    (view : q.view = some v) : announcePayload held q =
      [v.cls.code, v.group, 3] ++ bytesOf 2 (min (v.holdUsed.toNat / 20) 65535) ++ [0, 0, 0] := by
  unfold announcePayload
  rw [h, view]
  rfl

theorem announcePayload_sounding {held : List Claim} {q : Sequencer} {c : Claim} (h : q.phase = .onset ∨ q.phase = .onAir)
    (found : held.find? (fun c => q.current == some c.ref) = some c) : announcePayload held q =
      [c.cls.code, c.group, q.phase.code] ++ bytesOf 2 (min (c.holdUsed.toNat / 20) 65535) ++ [0, 0, 0] := by
  unfold announcePayload
  rcases h with phase | phase
  all_goals
    rw [phase]
    simp only
    rw [found]
    rfl

/-! ### The content by kind -/

section
variable {s t : State} {p : OutId} (row : exec .cellBoundary s = .next t) (enabled : (s.outCfg p).enable = true)
include row enabled

theorem cellBoundary_label (label : turnWinner p (turnOf p (cellsOf s)) = .service .label) {shown : Label} {i n : Nat}
    (hs : shown = (t.out p).shownLabel) (hi : i = if (s.lane p).run then (s.out p).labelPos else 0)
    (hn : n = (shown.chars.length + 5) / 6) : (t.out p).labelPos = (i + 1) % n ∧
      (s.inRange → s.positionsWithin → i < n) ∧
      (turnWinner p (turnOf p (cellsOf s))).payload (cellsOf s).claims.table p (turnOf p (cellsOf s)) =
        [BitVec.ofNat 8 (16 * i + n)] ++ (List.range 6).map (fun j => shown.chars.getD (6 * i + j) 0x20) ++
          [BitVec.ofNat 8 shown.category] := by
  have sent := cellBoundary_sent row enabled
  obtain ⟨o, ho⟩ : ∃ o, o = ((cellsOf s).out p).commitLabel := ⟨_, rfl⟩
  have out : t.out p = o.advanceLabel := by
    rw [sent.out, label, ho, ← sent.atTurn]
    rfl
  have pos : o.labelPos = i := by
    rw [ho, (OutContent.commitLabel_pos _).1, (cellsOf_commits s p).labelPos, (contentAtRun_positions enabled).1, hi]
  have face : o.shownLabel = shown := by
    rw [hs, out]
    rfl
  have total : o.labelTotal = n := by rw [OutContent.labelTotal_eq, face, hn]
  refine ⟨?_, fun inRange within => ?_, ?_⟩
  · rw [out, OutContent.advanceLabel, pos, total]
  · have proper : ((cellsOf s).out p).proper := (cellsOf_inRange inRange).2.1.1 p
    have committed := (OutContent.commitLabel_positions proper (cellsOf_positions inRange within p)).1
    rw [← ho, pos, face, ← hn] at committed
    exact committed
  · have payload : Winner.payload (cellsOf s).claims.table p (turnOf p (cellsOf s)) (.service .label) =
        labelPayload o := by
      rw [ho, ← sent.atTurn]
      rfl
    rw [label, payload, labelPayload_eq, pos, face, hn]

theorem cellBoundary_text (text : turnWinner p (turnOf p (cellsOf s)) = .service .text) {shown : List Byte} {i n : Nat}
    (hs : shown = (t.out p).shownText) (hi : i = if (s.lane p).run then (s.out p).textPos else 0)
    (hn : n = (shown.length + 5) / 6) : (t.out p).textPos = (i + 1) % n ∧ (s.positionsWithin → i < n) ∧
      (turnWinner p (turnOf p (cellsOf s))).payload (cellsOf s).claims.table p (turnOf p (cellsOf s)) =
        [BitVec.ofNat 8 (16 * i + n), (t.out p).textVersion] ++
          (List.range 6).map (fun j => shown.getD (6 * i + j) 0x20) := by
  have sent := cellBoundary_sent row enabled
  obtain ⟨o, ho⟩ : ∃ o, o = (cellsOf s).out p := ⟨_, rfl⟩
  have out : t.out p = o.advanceText := by
    rw [sent.out, text, ho, ← sent.atTurn]
    rfl
  have commits := cellsOf_commits s p
  rw [← ho] at commits
  have pos : o.textPos = i := by rw [commits.textPos, (contentAtRun_positions enabled).2.1, hi]
  have face : o.shownText = shown := by
    rw [hs, out]
    rfl
  have total : o.textTotal = n := by rw [OutContent.textTotal_eq, face, hn]
  refine ⟨?_, fun within => ?_, ?_⟩
  · rw [out, OutContent.advanceText, pos, total]
  · rcases Nat.eq_zero_or_pos i with zero | late
    · have filled : (!((turnOf p (cellsOf s)).out p).shownText.isEmpty) = true := turnWinner_ready text
      have some : shown ≠ [] := by
        rw [← face, ho, ← sent.atTurn]
        exact fun none => by
          rw [none] at filled
          cases filled
      have := List.length_pos_iff.2 some
      omega
    · obtain ⟨run, here⟩ := contentAtRun_of_pos hi (Nat.pos_iff_ne_zero.1 late)
      rw [contentAtRun_running run] at commits
      have kept := commits.text (by rw [← here]; exact Nat.pos_iff_ne_zero.1 late)
      rw [face] at kept
      rcases (within p).2.1 with zero | below
      · omega
      · rw [here, hn, kept]
        exact below
  · have payload : Winner.payload (cellsOf s).claims.table p (turnOf p (cellsOf s)) (.service .text) =
        textPayload o := by
      rw [ho, ← sent.atTurn]
      rfl
    rw [text, payload, textPayload_eq, pos, face, hn, out]
    rfl

theorem cellBoundary_freq (freq : turnWinner p (turnOf p (cellsOf s)) = .service .freq) {i n : Nat} {code : Nat → Nat}
    (hi : i = if (s.lane p).run then (s.out p).freqPos else 0) (hn : n = ((t.out p).freqs.length + 3) / 4)
    (hc : ∀ j, code j = (t.out p).freqs.getD (4 * i + j) 0) : (t.out p).freqPos = (i + 1) % n ∧
      (s.positionsWithin → i < n) ∧
      (turnWinner p (turnOf p (cellsOf s))).payload (cellsOf s).claims.table p (turnOf p (cellsOf s)) =
        [BitVec.ofNat 8 (16 * i + n), BitVec.ofNat 8 (t.out p).freqs.length] ++
          bytesOf 6 (code 0 * 2 ^ 36 + code 1 * 2 ^ 24 + code 2 * 2 ^ 12 + code 3) := by
  have sent := cellBoundary_sent row enabled
  obtain ⟨o, ho⟩ : ∃ o, o = (cellsOf s).out p := ⟨_, rfl⟩
  have out : t.out p = o.advanceFreqs := by
    rw [sent.out, freq, ho, ← sent.atTurn]
    rfl
  have commits := cellsOf_commits s p
  rw [← ho] at commits
  have pos : o.freqPos = i := by rw [commits.freqPos, (contentAtRun_positions enabled).2.2, hi]
  have list : (t.out p).freqs = o.freqs := by
    rw [out]
    rfl
  rw [list] at hn hc ⊢
  have total : o.freqTotal = n := by rw [OutContent.freqTotal_eq, hn]
  refine ⟨?_, fun within => ?_, ?_⟩
  · rw [out, OutContent.advanceFreqs, pos, total]
  · rcases Nat.eq_zero_or_pos i with zero | late
    · have filled : (!((turnOf p (cellsOf s)).out p).freqs.isEmpty) = true := turnWinner_ready freq
      have some : o.freqs ≠ [] := by
        rw [ho, ← sent.atTurn]
        exact fun none => by
          rw [none] at filled
          cases filled
      have := List.length_pos_iff.2 some
      omega
    · obtain ⟨run, here⟩ := contentAtRun_of_pos hi (Nat.pos_iff_ne_zero.1 late)
      rw [contentAtRun_running run] at commits
      have kept := commits.freqs (by rw [← here]; exact Nat.pos_iff_ne_zero.1 late)
      rcases (within p).2.2 with zero | below
      · omega
      · rw [here, hn, kept]
        exact below
  · have payload : Winner.payload (cellsOf s).claims.table p (turnOf p (cellsOf s)) (.service .freq) =
        freqPayload o := by
      rw [ho, ← sent.atTurn]
      rfl
    rw [freq, payload, freqPayload_eq o (by rw [pos]; exact hc), pos, hn]

end

/-! ### NEIGHBOUR, TMSG and ANNOUNCE cells -/

section
variable {s t : State} {p : OutId} (row : exec .cellBoundary s = .next t)
include row

/-- The flags a record carries after a boundary. -/
theorem cellBoundary_flags (r : Neighbour) : carriedFlags t r = (match r.link with
    | none => r.ext
    | some q => { tc := (s.outCfg q).tc, an := (t.lane q).run && (t.lane q).seq.phase != .quiet
                  rg := (t.out q).source == .regional }) := by
  unfold carriedFlags
  cases r.link with
  | none => rfl
  | some q =>
    obtain ⟨iv, cfg⟩ := cellBoundary_outCfg row q
    show Flags3.mk (t.outCfg q).tc _ _ = _
    rw [cfg]
    rfl

/-- The payload from a slot, at the turn of an output, by what stands after the boundary. -/
theorem turn_slotPayload {slot : SlotId} {second : Bool} {r : Neighbour}
    (held : t.content.neighbours.get slot = some r) :
    slotPayload (turnOf p (cellsOf s)) slot second = neighbourPayload r (carriedFlags t r) second := by
  have choices := boundaryAt_turn .free s.tb.expected (s.tb.decideNext s.settings.mode).1
    (s.tb.decideNext s.settings.mode).2 s.tb.markNext.isSome s p
  rw [← exec_cellBoundary row] at choices
  have choices' : SameChoices (turnOf p (cellsOf s)) t := choices
  have found : (turnOf p (cellsOf s)).content.neighbours.get slot = some r := by
    rw [← choices'.neighbours]
    exact held
  unfold slotPayload
  rw [found]
  exact congrArg (neighbourPayload r · second) (choices'.carriedFlags r).symm

variable (enabled : (s.outCfg p).enable = true)
include enabled

theorem cellBoundary_neighbour (neighbour : (turnWinner p (turnOf p (cellsOf s))).kind = .neighbour) :
    ∃ slot r second, t.content.neighbours.get slot = some r ∧ r.carriers.getLsbD p.val = true ∧
      (turnWinner p (turnOf p (cellsOf s))).payload (cellsOf s).claims.table p (turnOf p (cellsOf s)) =
        neighbourPayload r (carriedFlags t r) second := by
  have sent := cellBoundary_sent row enabled
  have from_ : ∀ slot second, carries (turnOf p (cellsOf s)) p slot = true →
      (turnWinner p (turnOf p (cellsOf s))).payload (cellsOf s).claims.table p (turnOf p (cellsOf s)) =
        slotPayload (turnOf p (cellsOf s)) slot second →
      ∃ slot r second, t.content.neighbours.get slot = some r ∧ r.carriers.getLsbD p.val = true ∧
        (turnWinner p (turnOf p (cellsOf s))).payload (cellsOf s).claims.table p (turnOf p (cellsOf s)) =
          neighbourPayload r (carriedFlags t r) second := by
    intro slot second carried payload
    rw [← sent.choices.carries] at carried
    obtain ⟨r, held, mask⟩ := (carries_iff t p slot).1 carried
    exact ⟨slot, r, second, held, mask, payload.trans (turn_slotPayload row held)⟩
  rcases Winner.neighbour_of neighbour with service | ⟨b, burst⟩
  · obtain ⟨c, chosen, carried⟩ := cycleChoice_carries (turnWinner_ready service)
    refine from_ c.1 c.2 carried ?_
    rw [service]
    show ((cycleChoice _ p).map _).getD _ = _
    rw [chosen]
    rfl
  · refine from_ b.slot b.second (turnWinner_burst burst) ?_
    rw [burst]
    rfl

omit enabled in
theorem cellBoundary_tmsg (empty : s.queue.entries = []) (tmsg : turnWinner p (turnOf p (cellsOf s)) = .service .tmsg) :
    ∃ r, r ∈ s.pool.records ∧ 0 < r.repeats.get p ∧
      (turnWinner p (turnOf p (cellsOf s))).payload (cellsOf s).claims.table p (turnOf p (cellsOf s)) =
        tmsgPayload r := by
  obtain ⟨before, r, after, split, _, dueNow, found⟩ := turnWinner_record tmsg
  have payload : Winner.payload (cellsOf s).claims.table p (turnOf p (cellsOf s)) (.service .tmsg) = tmsgPayload r := by
    show ((firstDue _ _ p).map tmsgPayload).getD _ = _
    rw [found]
    rfl
  have mem : r ∈ sendsTo t p.val (cellsOf s).pool.records := by
    rw [← cellBoundary_turnPool row, split]
    exact List.mem_append_right _ List.mem_cons_self
  have start : ∀ q, q ∈ (cellsOf s).pool.records → ∃ r, r ∈ s.pool.records ∧ tmsgPayload q = tmsgPayload r ∧
      q.repeats.get p ≤ r.repeats.get p := by
    intro q hq
    rw [cellsOf_pool empty] at hq
    obtain ⟨r, hr, rfl⟩ := List.mem_map.1 hq
    refine ⟨r, hr, ?_, ?_⟩
    · split <;> rfl
    · split <;> exact Nat.le_refl _
  obtain ⟨old, held, same, repeats⟩ := sendsTo_induct (t := t) (P := fun q => ∃ r, r ∈ s.pool.records ∧
    tmsgPayload q = tmsgPayload r ∧ q.repeats.get p ≤ r.repeats.get p) (fun q r ⟨old, held, same, repeats⟩ => by
      refine ⟨old, held, same, Nat.le_trans ?_ repeats⟩
      obtain ⟨own, others⟩ := sendRecord_repeats t.tb.count q r
      rcases equal_or_other p q with rfl | other
      · rw [own]
        exact Nat.sub_le ..
      · exact Nat.le_of_eq (others p other)) p.val (by omega) _ start r mem
  refine ⟨old, held, Nat.lt_of_lt_of_le ((due_iff ..).1 dueNow).1 repeats, ?_⟩
  rw [tmsg, payload, same]

theorem cellBoundary_announce (announce : (turnWinner p (turnOf p (cellsOf s))).kind = .announce) {bytes : List Byte}
    (hb : bytes = (turnWinner p (turnOf p (cellsOf s))).payload (cellsOf s).claims.table p (turnOf p (cellsOf s))) :
    ((t.lane p).seq.phase = .quiet → bytes = List.replicate 8 0) ∧
    ((t.lane p).seq.phase = .onset ∨ (t.lane p).seq.phase = .onAir →
      ∃ (claim : Claim) (used : Counter), claim ∈ t.claims.table ∧
        (t.lane p).seq.current = some ⟨claim.key, claim.stamp⟩ ∧
        claim.holdUsed = (if ∃ q, claim.status.get q = .current ∧ (t.lane q).seq.phase = .onAir then satInc used
          else used) ∧
        bytes = [claim.cls.code, claim.group, (t.lane p).seq.phase.code] ++
          bytesOf 2 (min (used.toNat / 20) 65535) ++ [0, 0, 0]) ∧
    (∀ v, (t.lane p).seq.phase = .trail → (t.lane p).seq.view = some v →
      bytes = [v.cls.code, v.group, 3] ++ bytesOf 2 (min (v.holdUsed.toNat / 20) 65535) ++ [0, 0, 0]) := by
  have sent := cellBoundary_sent row enabled
  obtain ⟨x, hx⟩ : ∃ x, x = turnOf p (cellsOf s) := ⟨_, rfl⟩
  obtain ⟨q, hq⟩ : ∃ q, q = (x.lane p).seq := ⟨_, rfl⟩
  rw [← hx] at sent announce hb
  have payload : bytes = announcePayload (cellsOf s).claims.table q := by
    rw [hb, hq]
    rcases Winner.announce_of announce with service | burst
    · rw [service]
      rfl
    · rw [burst]
      rfl
  obtain ⟨b, seq⟩ := (turnWinner p x).sequencer_keeps q
  have after : (t.lane p).seq = { q with burst := b } := by rw [sent.seq, ← hq, seq]
  have phaseAfter : (t.lane p).seq.phase = q.phase := by rw [after]
  have currentAfter : (t.lane p).seq.current = q.current := by rw [after]
  have viewAfter : (t.lane p).seq.view = q.view := by rw [after]
  rw [phaseAfter, currentAfter, viewAfter, payload]
  refine ⟨announcePayload_quiet, fun sounds => ?_, fun v trail view => announcePayload_trail trail view⟩
  have run : ((cellsOf s).lane p).run = true := by rw [cellsOf_run, enabled]
  have made : q = Sequencer.writeView (afterViews (cellsOf s)).claims.table
      (Sequencer.boundary ((cellsOf s).outCfg p) ((choice (cellsOf s) p).map Claim.ref) ((cellsOf s).lane p).seq) := by
    rw [hq, sent.lane, sequencedLane_seq run]
  obtain ⟨phase, current⟩ := Sequencer.writeView_names (afterViews (cellsOf s)).claims.table
    (Sequencer.boundary ((cellsOf s).outCfg p) ((choice (cellsOf s) p).map Claim.ref) ((cellsOf s).lane p).seq)
  rw [← made] at phase current
  have sounds' := sounds
  rw [phase] at sounds'
  obtain ⟨picked, named⟩ := Sequencer.boundary_sounding sounds'
  obtain ⟨d, chosen⟩ : ∃ d, choice (cellsOf s) p = some d := by
    cases found : choice (cellsOf s) p with
    | none =>
      rw [found] at picked
      exact absurd rfl picked
    | some d => exact ⟨d, rfl⟩
  rw [named, chosen] at current
  obtain ⟨c, found⟩ : ∃ c, (cellsOf s).claims.table.find? (fun c => q.current == some c.ref) = some c := by
    refine Option.isSome_iff_exists.1 (List.find?_isSome.2 ⟨d, (choice_some chosen).1, ?_⟩)
    exact beq_iff_eq.2 current
  have ref : q.current = some c.ref := by
    have := List.find?_some (p := fun c : Claim => q.current == some c.ref) found
    exact beq_iff_eq.1 this
  refine ⟨advanceClaim t c, c.holdUsed, ?_, ref, ?_, announcePayload_sounding sounds found⟩
  · rw [cellBoundary_claims row]
    exact List.mem_map_of_mem (List.mem_of_find?_eq_some found)
  · rw [advanceClaim_holdUsed]
    by_cases airs : onAirSomewhere t c = true
    · rw [if_pos ((onAirSomewhere_iff t c).1 airs), airs]
      rfl
    · rw [if_neg fun h => airs ((onAirSomewhere_iff t c).2 h), Bool.eq_false_iff.2 airs]
      rfl

end

/-- Settles O54: the cell of the output's turn, kind by kind. -/
theorem theCellsCarryTheirContent : Obligations.TheCellsCarryTheirContent := by
  intro s t p c o row enabled fixed ho
  subst ho
  have sent := cellBoundary_sent row enabled
  obtain ⟨payload, kind⟩ := sent.payload_of fixed
  have ofKind : ∀ k : CellKind, c.control.toNat / 16 = k.index.val → (turnWinner p (turnOf p (cellsOf s))).kind = k :=
    fun k hk => CellKind.index_inj (kind.symm.trans hk)
  refine ⟨_, Winner.payload_length _ _ _ _, payload, by rw [kind]; omega, fun hk => ?_, fun hk shown i n hs hi hn => ?_,
    fun hk i n code hi hn hc => ?_, fun hk shown i n hs hi hn => ?_, fun hk empty => ?_, fun hk => ?_, fun hk => ?_⟩
  · rw [Winner.filler_of (ofKind .filler hk), sent.choices.tb]
    rfl
  · exact cellBoundary_label row enabled (Winner.label_of (ofKind .label hk)) (hs.trans (shownLabel_eq _).symm) hi hn
  · exact cellBoundary_freq row enabled (Winner.freq_of (ofKind .freq hk)) hi hn hc
  · exact cellBoundary_text row enabled (Winner.text_of (ofKind .text hk)) (hs.trans (shownText_eq _).symm) hi hn
  · exact cellBoundary_tmsg row empty (Winner.tmsg_of (ofKind .tmsg hk))
  · obtain ⟨slot, r, second, held, carried, bytes⟩ := cellBoundary_neighbour row enabled (ofKind .neighbour hk)
    refine ⟨slot, r, second, held, carried, fun f hf => ?_⟩
    rw [bytes, neighbourPayload_eq]
    have flags : carriedFlags t r = f := (cellBoundary_flags row r).trans hf.symm
    rw [flags]
  · exact cellBoundary_announce row enabled (ofKind .announce hk) rfl

end Sys2Proof.Machine

/-! PROOFS. Neighbour bursts and the neighbour cycle (R52, R53, R61, R62). -/

namespace Sys2Proof.Machine

/-! ### The comparison (R53) -/

/-- The AN a record carries after a boundary. -/
def anAfter (t : State) (r : Neighbour) : Bool :=
  match r.link with
  | none => r.ext.an
  | some q => (t.lane q).run && (t.lane q).seq.phase != .quiet

theorem carriedFlags_an (t : State) (r : Neighbour) : (carriedFlags t r).an = anAfter t r := by
  unfold carriedFlags anAfter
  cases r.link <;> rfl

/-- The record in a slot asks for a burst on output `p`: `t` is the state after the boundary, `prev` the AN of the cell
before, `first` whether there was none since the reset. -/
def AsksBurst (t : State) (prev : Table 8 (Option Bool)) (first : Bool) (p : OutId) (slot : SlotId) : Prop :=
  ∃ r before, t.content.neighbours.get slot = some r ∧ r.carriers.getLsbD p.val = true ∧ r.link ≠ some p ∧
    (if first = false then prev.get slot = some before else before = false) ∧ anAfter t r ≠ before

theorem carriedAn_get (t : State) (slot : SlotId) :
    (carriedAn t).get slot = (t.content.neighbours.get slot).map (anAfter t) := by
  have get : (carriedAn t).get slot = (t.content.neighbours.get slot).map fun r => (carriedFlags t r).an :=
    Table.get_map ..
  rw [get, funext (carriedFlags_an t)]

theorem anChanged_iff {s t : State} (h : SameChoices s t) (first : Bool) (slot : SlotId) :
    anChanged s first slot = true ↔ ∃ r before, t.content.neighbours.get slot = some r ∧
      (if first = false then s.content.prevAn.get slot = some before else before = false) ∧ anAfter t r ≠ before := by
  unfold anChanged
  rw [← h.carriedAn, carriedAn_get]
  cases held : t.content.neighbours.get slot with
  | none => exact ⟨nofun, fun ⟨r, _, found, _⟩ => by cases found⟩
  | some r =>
    simp only [Option.map_some]
    cases first with
    | true =>
      simp only [if_true]
      constructor
      · exact fun changed => ⟨r, false, rfl, rfl, bne_iff_ne.1 changed⟩
      · rintro ⟨r', before, found, rfl, changed⟩
        obtain rfl := Option.some.inj found
        exact bne_iff_ne.2 changed
    | false =>
      simp only [if_true, Bool.false_eq_true, if_false]
      cases prev : s.content.prevAn.get slot with
      | none => exact ⟨nofun, fun ⟨_, _, _, found, _⟩ => by cases found⟩
      | some before =>
        constructor
        · exact fun changed => ⟨r, before, rfl, rfl, bne_iff_ne.1 changed⟩
        · rintro ⟨r', before', found, same, changed⟩
          obtain rfl := Option.some.inj found
          obtain rfl := Option.some.inj same
          exact bne_iff_ne.2 changed

theorem asksBurst_iff {s t : State} (h : SameChoices s t) (first : Bool) (p : OutId) (slot : SlotId) :
    (anChanged s first slot && (s.content.neighbours.get slot).any fun r => inMask r.carriers p && r.link != some p) =
      true ↔ AsksBurst t s.content.prevAn first p slot := by
  rw [Bool.and_eq_true, anChanged_iff h, ← h.neighbours, Option.any_eq_true]
  constructor
  · rintro ⟨⟨r, before, found, prev, changed⟩, r', found', carried⟩
    obtain rfl := Option.some.inj (found.symm.trans found')
    obtain ⟨mask, link⟩ := Bool.and_eq_true_iff.1 carried
    exact ⟨r, before, found, mask, bne_iff_ne.1 link, prev, changed⟩
  · rintro ⟨r, before, found, mask, link, prev, changed⟩
    exact ⟨⟨r, before, found, prev, changed⟩, r, found, Bool.and_eq_true_iff.2 ⟨mask, bne_iff_ne.2 link⟩⟩

theorem burstRequest_of {s t : State} (h : SameChoices s t) {first : Bool} {p : OutId} {slot : SlotId}
    (asks : AsksBurst t s.content.prevAn first p slot)
    (lowest : ∀ i, i < slot → ¬ AsksBurst t s.content.prevAn first p i) : burstRequest s first p = some slot :=
  find_finRange ((asksBurst_iff h first p slot).2 asks) fun i before =>
    Bool.eq_false_iff.2 fun found => lowest i before ((asksBurst_iff h first p i).1 found)

theorem burstRequest_none {s t : State} (h : SameChoices s t) {first : Bool} {p : OutId}
    (silent : ∀ slot, ¬ AsksBurst t s.content.prevAn first p slot) : burstRequest s first p = none :=
  List.find?_eq_none.2 fun slot _ found => silent slot ((asksBurst_iff h first p slot).1 found)

/-! ### The scheduler's burst (R61, R62) -/

/-- The burst an output finds at its choice, before the check of its slot. -/
theorem prepared_pending (valid : SlotId → Bool) (k : Scheduler) : (k.prepared valid).nbPending = none := by
  unfold Scheduler.prepared Scheduler.checkBurst Scheduler.startBurst
  cases pending : k.advanceAges.nbPending with
  | none =>
    simp only
    split
    · exact pending
    · split <;> exact pending
  | some slot =>
    simp only
    split <;> rfl

/-- Entries and bursts leave what waits for the next boundary. -/
theorem entry_bursts (w : Winner) (intervals : Table 6 Nat) (k : Scheduler) :
    (w.entry intervals k).nbPending = k.nbPending ∧ (w.entry intervals k).nbRunning = k.nbRunning ∧
      (w.entry intervals k).begun = k.begun ∧ (w.entry intervals k).replaced = k.replaced ∧
      (w.entry intervals k).endedEarly = k.endedEarly := by
  unfold Winner.entry
  split <;> exact ⟨rfl, rfl, rfl, rfl, rfl⟩

theorem burst_counters (w : Winner) (k : Scheduler) : (w.burst k).nbPending = k.nbPending ∧ (w.burst k).begun = k.begun ∧
    (w.burst k).replaced = k.replaced ∧ (w.burst k).endedEarly = k.endedEarly := by
  cases w <;> exact ⟨rfl, rfl, rfl, rfl⟩

theorem asked_bursts (r : Option SlotId) {k : Scheduler} (none : k.nbPending = none) : (k.asked r).nbPending = r ∧
    (k.asked r).nbRunning = k.nbRunning ∧ (k.asked r).begun = k.begun ∧ (k.asked r).replaced = k.replaced ∧
    (k.asked r).endedEarly = k.endedEarly := by
  cases r with
  | none => exact ⟨none, rfl, rfl, rfl, rfl⟩
  | some slot =>
    refine ⟨rfl, rfl, rfl, ?_, rfl⟩
    show satIncIf k.nbPending.isSome k.replaced = k.replaced
    rw [none]
    rfl

/-- The scheduler of an output after a boundary, as far as bursts go, from that at its choice. -/
theorem Sent.bursts {s : State} {p : OutId} {u x : State} {w : Winner} {t : State} (h : Sent s p u x w t)
    {k : Scheduler} (hk : k = (x.lane p).sched.prepared (carries x p)) :
    (t.lane p).sched.nbPending = burstRequest (fillCells u) (s.tb.start != .running) p ∧
      (t.lane p).sched.nbRunning = (w.burst k).nbRunning ∧ (t.lane p).sched.begun = k.begun ∧
      (t.lane p).sched.replaced = k.replaced ∧ (t.lane p).sched.endedEarly = k.endedEarly := by
  have sched := h.sched
  rw [← hk] at sched
  have none : k.nbPending = none := by rw [hk, prepared_pending]
  obtain ⟨pending, begun, replaced, early⟩ := burst_counters w k
  obtain ⟨b, hb⟩ : ∃ b, b = w.burst k := ⟨_, rfl⟩
  rw [← hb] at sched pending begun replaced early ⊢
  obtain ⟨pending', running', begun', replaced', early'⟩ := entry_bursts w (x.outCfg p).intervals b
  obtain ⟨e, he⟩ : ∃ e, e = w.entry (x.outCfg p).intervals b := ⟨_, rfl⟩
  rw [← he] at sched pending' running' begun' replaced' early'
  obtain ⟨asked, running, begun'', replaced'', early''⟩ := asked_bursts
    (burstRequest (fillCells u) (s.tb.start != .running) p) ((pending'.trans pending).trans none)
  rw [sched, asked, running, begun'', replaced'', early'', running', begun', replaced', early', begun, replaced, early]
  exact ⟨rfl, rfl, rfl, rfl, rfl⟩

/-! ### The request after a boundary -/

theorem fillCells_prevAn (u : State) : (fillCells u).content.prevAn = u.content.prevAn := by
  have kept : ∀ held w, (State.eachOut (schedule held) w).content.prevAn = w.content.prevAn := fun held w =>
    eachOut_keeps (fun t => t.content.prevAn) _ (fun q t => (schedule_same held q t).prevAn) w
  rw [fillCells_eq, schedulesTo_four, kept, afterViews_content]

section
variable {s t : State} (row : exec .cellBoundary s = .next t)
include row

theorem cellBoundary_filled : SameChoices (fillCells (cellsOf s)) t :=
  (fillCells_choices (cellsOf s)).symm.trans (cellBoundary_choices row)

theorem cellBoundary_prevAn : t.content.prevAn = carriedAn t := by
  have last : ∀ u : State, (beginBits 0 (selectMonitor (gainTokens u))).content = u.content := fun _ => rfl
  have kept : t.content.prevAn = carriedAn (fillCells (cellsOf s)) := by
    rw [exec_cellBoundary row, boundaryAt_eq, last, compareNeighbours_prevAn]
    rfl
  rw [kept, (cellBoundary_filled row).carriedAn]

/-- The request that stands after a boundary is that of the lowest slot that asks. -/
theorem cellBoundary_request {p : OutId} (enabled : (s.outCfg p).enable = true) :
    (∀ slot, AsksBurst t s.content.prevAn (s.tb.start != .running) p slot →
      (∀ i, i < slot → ¬ AsksBurst t s.content.prevAn (s.tb.start != .running) p i) →
      (t.lane p).sched.nbPending = some slot) ∧
    ((∀ slot, ¬ AsksBurst t s.content.prevAn (s.tb.start != .running) p slot) →
      (t.lane p).sched.nbPending = none) := by
  have sent := cellBoundary_sent row enabled
  obtain ⟨pending, _⟩ := sent.bursts rfl
  have filled := cellBoundary_filled row
  have prev : (fillCells (cellsOf s)).content.prevAn = s.content.prevAn := by
    rw [fillCells_prevAn, cellsOf_prevAn]
  rw [pending, ← prev]
  exact ⟨fun slot => burstRequest_of filled, burstRequest_none filled⟩

end

end Sys2Proof.Machine

/-! PROOFS. The course of a neighbour burst, and the neighbour cycle (R52, R61, R62). -/

namespace Sys2Proof.Machine

/-! ### The burst an output finds at its choice -/

theorem checkBurst_of {valid : SlotId → Bool} {k : Scheduler} {b : NbBurst} (running : k.nbRunning = some b) :
    k.checkBurst valid = if valid b.slot then k else { k with nbRunning := none, endedEarly := satInc k.endedEarly } := by
  unfold Scheduler.checkBurst
  rw [running]

theorem checkBurst_idle {valid : SlotId → Bool} {k : Scheduler} (idle : k.nbRunning = none) : k.checkBurst valid = k := by
  unfold Scheduler.checkBurst
  rw [idle]

theorem prepared_of_pending {valid : SlotId → Bool} {k : Scheduler} {slot : SlotId} (pending : k.nbPending = some slot) :
    (k.prepared valid).begun = satInc k.begun ∧
      (k.prepared valid).replaced = (if k.nbRunning = none then k.replaced else satInc k.replaced) ∧
      (valid slot = true → (k.prepared valid).endedEarly = k.endedEarly ∧
        (k.prepared valid).nbRunning = some ⟨slot, false⟩) ∧
      (valid slot = false → (k.prepared valid).endedEarly = satInc k.endedEarly ∧ (k.prepared valid).nbRunning = none) := by
  have begins : k.advanceAges.startBurst = { k.advanceAges with
      nbPending := none, nbRunning := some ⟨slot, false⟩, begun := satInc k.begun
      replaced := satIncIf k.nbRunning.isSome k.replaced } := by
    have waits : k.advanceAges.nbPending = some slot := pending
    unfold Scheduler.startBurst
    rw [waits]
    rfl
  have replaced : satIncIf k.nbRunning.isSome k.replaced =
      if k.nbRunning = none then k.replaced else satInc k.replaced := by
    cases k.nbRunning <;> rfl
  rw [Scheduler.prepared, begins, checkBurst_of rfl]
  simp only
  refine ⟨?_, ?_, fun carried => ?_, fun lost => ?_⟩
  · split <;> rfl
  · rw [← replaced]
    split <;> rfl
  · rw [if_pos carried]
    exact ⟨rfl, rfl⟩
  · rw [if_neg (Bool.eq_false_iff.1 lost)]
    exact ⟨rfl, rfl⟩

theorem prepared_without {valid : SlotId → Bool} {k : Scheduler} (free : k.nbPending = none) :
    k.prepared valid = k.advanceAges.checkBurst valid := by
  have waits : k.advanceAges.nbPending = none := free
  unfold Scheduler.prepared Scheduler.startBurst
  rw [waits]

theorem prepared_of_running {valid : SlotId → Bool} {k : Scheduler} {b : NbBurst} (free : k.nbPending = none)
    (running : k.nbRunning = some b) : (k.prepared valid).begun = k.begun ∧ (k.prepared valid).replaced = k.replaced ∧
      (valid b.slot = true → (k.prepared valid).endedEarly = k.endedEarly ∧ (k.prepared valid).nbRunning = some b) ∧
      (valid b.slot = false → (k.prepared valid).endedEarly = satInc k.endedEarly ∧
        (k.prepared valid).nbRunning = none) := by
  have found : k.advanceAges.nbRunning = some b := running
  rw [prepared_without free, checkBurst_of found]
  refine ⟨?_, ?_, fun carried => ?_, fun lost => ?_⟩
  · split <;> rfl
  · split <;> rfl
  · rw [if_pos carried]
    exact ⟨rfl, running⟩
  · rw [if_neg (Bool.eq_false_iff.1 lost)]
    exact ⟨rfl, rfl⟩

theorem prepared_idle {valid : SlotId → Bool} {k : Scheduler} (free : k.nbPending = none) (idle : k.nbRunning = none) :
    k.prepared valid = k.advanceAges := by
  rw [prepared_without free]
  exact checkBurst_idle (k := k.advanceAges) idle

/-! ### The winner by the burst -/

theorem winner_running {s : State} {p : OutId} {b : NbBurst} (running : (s.lane p).sched.nbRunning = some b) :
    winner s p = if 0 < (s.lane p).seq.burst then .announceBurst else .neighbourBurst b := by
  unfold winner
  rw [running]

theorem turnWinner_running {p : OutId} {x : State} {b : NbBurst}
    (running : ((x.lane p).sched.prepared (carries x p)).nbRunning = some b) :
    turnWinner p x = .announceBurst ∨ turnWinner p x = .neighbourBurst b := by
  unfold turnWinner
  rw [winner_running (b := b) (by rw [beforeChoice_lane]; exact running)]
  split
  · exact .inl rfl
  · exact .inr rfl

theorem turnWinner_idle {p : OutId} {x : State} (idle : ((x.lane p).sched.prepared (carries x p)).nbRunning = none)
    (b : NbBurst) : turnWinner p x ≠ .neighbourBurst b := by
  intro h
  have running := (winner_neighbourBurst h).2
  rw [beforeChoice_lane] at running
  rw [show _ = none from idle] at running
  cases running

theorem burst_idle {w : Winner} (h : ∀ b, w ≠ .neighbourBurst b) (k : Scheduler) : w.burst k = k := by
  cases w with
  | neighbourBurst b => exact absurd rfl (h b)
  | announceBurst => rfl
  | service sv => rfl
  | filler => rfl

/-! ### What a NEIGHBOUR cell sends -/

/-- The cell carries the record of a slot, for a segment, with its flags after the boundary from `s` to `t` (R9). -/
def SendsFrom (s t : State) (cell : Cell) (slot : SlotId) (second : Bool) : Prop :=
  ∃ (r : Neighbour) (f : Flags3), t.content.neighbours.get slot = some r ∧
    f = (match r.link with
      | none => r.ext
      | some q => { tc := (s.outCfg q).tc, an := (t.lane q).run && (t.lane q).seq.phase != .quiet
                    rg := (t.out q).source == .regional }) ∧
    cell.payload = BitVec.ofNat 64 (natOf (bytesOf 2 r.identity.toNat ++
      [BitVec.ofNat 8 (f.tc.toNat * 128 + f.an.toNat * 64 + f.rg.toNat * 32 + second.toNat * 16 + r.freq / 256),
        BitVec.ofNat 8 (r.freq % 256)] ++
      (List.range 4).map fun j => r.label.getD (4 * second.toNat + j) 0x20))

theorem sendsFrom_of {s t : State} {p : OutId} {cell : Cell} {slot : SlotId} {second : Bool}
    (row : exec .cellBoundary s = .next t) (carried : carries t p slot = true)
    (payload : cell.payload = BitVec.ofNat 64 (natOf (slotPayload (turnOf p (cellsOf s)) slot second))) :
    SendsFrom s t cell slot second := by
  obtain ⟨r, held, _⟩ := (carries_iff t p slot).1 carried
  refine ⟨r, carriedFlags t r, held, cellBoundary_flags row r, ?_⟩
  rw [payload, turn_slotPayload row held, neighbourPayload_eq]

/-! ### The cycle -/

theorem commitLabel_cycle (o : OutContent) : o.commitLabel.nbSlot = o.nbSlot ∧ o.commitLabel.nbSeg = o.nbSeg := by
  unfold OutContent.commitLabel
  split
  · cases o.source.variant <;> exact ⟨rfl, rfl⟩
  · exact ⟨rfl, rfl⟩

/-- Only a NEIGHBOUR cell of the contest moves the cycle. -/
theorem Winner.content_cycle {w : Winner} (h : w ≠ .service .neighbour) (p : OutId) (x : State) :
    (w.content p x).nbSlot = (x.out p).nbSlot ∧ (w.content p x).nbSeg = (x.out p).nbSeg := by
  cases w with
  | announceBurst => exact ⟨rfl, rfl⟩
  | neighbourBurst b => exact ⟨rfl, rfl⟩
  | filler => exact ⟨rfl, rfl⟩
  | service sv =>
    cases sv with
    | announce => exact ⟨rfl, rfl⟩
    | tmsg => exact ⟨rfl, rfl⟩
    | label => exact commitLabel_cycle _
    | freq => exact ⟨rfl, rfl⟩
    | neighbour => exact absurd rfl h
    | text => exact ⟨rfl, rfl⟩

/-! ### An output that stays in RUN -/

section
variable {s t : State} {p : OutId} (row : exec .cellBoundary s = .next t) (run : (s.lane p).run = true)
  (enabled : (s.outCfg p).enable = true)
include row run enabled

/-- The scheduler of an output in RUN, at its turn: that before the boundary, prepared. -/
theorem turn_prepared : ((turnOf p (cellsOf s)).lane p).sched.prepared (carries (turnOf p (cellsOf s)) p) =
    (s.lane p).sched.prepared (carries t p) := by
  have sent := cellBoundary_sent row enabled
  obtain ⟨f, lane⟩ := cellsOf_lane s p
  have stays : runLane (s.outCfg p).enable (s.lane p) = s.lane p := by
    unfold runLane
    rw [run, enabled]
  have carried : carries (turnOf p (cellsOf s)) p = carries t p := funext fun slot => (sent.choices.carries p slot).symm
  rw [sent.lane, sequencedLane_sched, lane, stays, carried]

theorem cellBoundary_cycleAt : ((turnOf p (cellsOf s)).out p).nbSlot = (s.out p).nbSlot ∧
    ((turnOf p (cellsOf s)).out p).nbSeg = (s.out p).nbSeg := by
  have sent := cellBoundary_sent row enabled
  have commits := cellsOf_commits s p
  rw [contentAtRun_running run] at commits
  rw [sent.atTurn]
  exact ⟨commits.nbSlot, commits.nbSeg⟩

variable {cell : Cell} (fixed : (t.lane p).asm.cell = some cell)
include fixed

/-- A burst whose slot is carried: the announce burst leaves it as it stands, or its segment is sent. -/
theorem cellBoundary_burst {b : NbBurst} (running : ((s.lane p).sched.prepared (carries t p)).nbRunning = some b)
    (carried : carries t p b.slot = true) :
    cell.control.toNat / 16 = 6 ∧ (t.lane p).sched.nbRunning = some b ∨
      cell.control.toNat / 16 = 5 ∧
        (t.lane p).sched.nbRunning = (if b.second then none else some ⟨b.slot, true⟩) ∧
        SendsFrom s t cell b.slot b.second := by
  have sent := cellBoundary_sent row enabled
  obtain ⟨payload, kind⟩ := sent.payload_of fixed
  obtain ⟨_, after, _⟩ := sent.bursts rfl
  rw [turn_prepared row run enabled] at after
  rcases turnWinner_running (x := turnOf p (cellsOf s)) (by rw [turn_prepared row run enabled]; exact running) with h | h
  · left
    rw [h] at after kind
    exact ⟨kind, after.trans running⟩
  · right
    rw [h] at after kind payload
    exact ⟨kind, after, sendsFrom_of row carried payload⟩

omit fixed in
/-- Without a burst at the choice none runs after the boundary. -/
theorem cellBoundary_noBurst (idle : ((s.lane p).sched.prepared (carries t p)).nbRunning = none) :
    (t.lane p).sched.nbRunning = none := by
  have sent := cellBoundary_sent row enabled
  obtain ⟨_, after, _⟩ := sent.bursts rfl
  rw [turn_prepared row run enabled] at after
  rw [after, burst_idle (turnWinner_idle (by rw [turn_prepared row run enabled]; exact idle)), idle]

omit fixed in
theorem cellBoundary_burstCounters : (t.lane p).sched.begun = ((s.lane p).sched.prepared (carries t p)).begun ∧
    (t.lane p).sched.replaced = ((s.lane p).sched.prepared (carries t p)).replaced ∧
    (t.lane p).sched.endedEarly = ((s.lane p).sched.prepared (carries t p)).endedEarly := by
  have sent := cellBoundary_sent row enabled
  obtain ⟨_, _, begun, replaced, early⟩ := sent.bursts rfl
  rw [turn_prepared row run enabled] at begun replaced early
  exact ⟨begun, replaced, early⟩

/-- The cycle stands where a burst takes the cell, and where the cell is of another kind. -/
theorem cellBoundary_cycleStands
    (h : (∃ b, ((s.lane p).sched.prepared (carries t p)).nbRunning = some b) ∨ cell.control.toNat / 16 ≠ 5) :
    (t.out p).nbSlot = (s.out p).nbSlot ∧ (t.out p).nbSeg = (s.out p).nbSeg := by
  have sent := cellBoundary_sent row enabled
  obtain ⟨payload, kind⟩ := sent.payload_of fixed
  have other : turnWinner p (turnOf p (cellsOf s)) ≠ .service .neighbour := by
    intro cycle
    rcases h with ⟨b, running⟩ | notFive
    · rcases turnWinner_running (x := turnOf p (cellsOf s)) (by rw [turn_prepared row run enabled]; exact running) with
        h | h
      · rw [cycle] at h
        cases h
      · rw [cycle] at h
        cases h
    · rw [cycle] at kind
      exact notFive kind
  obtain ⟨slot, seg⟩ := Winner.content_cycle other p (turnOf p (cellsOf s))
  obtain ⟨slot', seg'⟩ := cellBoundary_cycleAt row run enabled
  rw [sent.out]
  exact ⟨slot.trans slot', seg.trans seg'⟩

/-- The cell of the cycle: the first slot carried, its segment, and the place the cycle moves to. -/
theorem cellBoundary_cycleMoves (idle : ((s.lane p).sched.prepared (carries t p)).nbRunning = none)
    (five : cell.control.toNat / 16 = 5) {i : SlotId} (here : carries t p ((s.out p).nbSlot + i) = true)
    (first : ∀ j, j < i → carries t p ((s.out p).nbSlot + j) = false) {second : Bool}
    (hs : second = if i = 0 then (s.out p).nbSeg else false) :
    (t.out p).nbSlot = (if second then (s.out p).nbSlot + i + 1 else (s.out p).nbSlot + i) ∧
      (t.out p).nbSeg = !second ∧ SendsFrom s t cell ((s.out p).nbSlot + i) second := by
  have sent := cellBoundary_sent row enabled
  obtain ⟨payload, kind⟩ := sent.payload_of fixed
  have cycle : turnWinner p (turnOf p (cellsOf s)) = .service .neighbour := by
    rcases Winner.neighbour_of (CellKind.index_inj (k' := .neighbour) (kind.symm.trans five)) with cycle | ⟨b, burst⟩
    · exact cycle
    · exact absurd burst (turnWinner_idle (by rw [turn_prepared row run enabled]; exact idle) b)
  obtain ⟨slot, seg⟩ := cellBoundary_cycleAt row run enabled
  have choice := cycleChoice_of (s := turnOf p (cellsOf s)) (p := p) (i := i)
    (by rw [slot, ← sent.choices.carries]; exact here)
    (fun j before => by rw [slot, ← sent.choices.carries]; exact first j before)
  rw [slot, seg, ← hs] at choice
  have out : t.out p = advanceCycle ((s.out p).nbSlot + i) second ((turnOf p (cellsOf s)).out p) := by
    rw [sent.out, cycle]
    show ((cycleChoice _ p).map _).getD _ = _
    rw [choice]
    rfl
  have bytes : Winner.payload (cellsOf s).claims.table p (turnOf p (cellsOf s)) (.service .neighbour) =
      slotPayload (turnOf p (cellsOf s)) ((s.out p).nbSlot + i) second := by
    show ((cycleChoice _ p).map _).getD _ = _
    rw [choice]
    rfl
  rw [cycle, bytes] at payload
  refine ⟨?_, ?_, sendsFrom_of row here payload⟩
  · rw [out, advanceCycle]
    cases second <;> rfl
  · rw [out, advanceCycle]
    cases second <;> rfl

end

/-- A burst on a slot that is carried, waiting or running, is found at the choice. -/
theorem prepared_carried {valid : SlotId → Bool} {k : Scheduler} {slot : SlotId} (carried : valid slot = true)
    (burst : k.nbPending = some slot ∨ k.nbPending = none ∧ ∃ second, k.nbRunning = some ⟨slot, second⟩) :
    ∃ b, (k.prepared valid).nbRunning = some b := by
  rcases burst with pending | ⟨free, second, running⟩
  · obtain ⟨_, _, held, _⟩ := prepared_of_pending (valid := valid) pending
    exact ⟨_, (held carried).2⟩
  · obtain ⟨_, _, held, _⟩ := prepared_of_running (valid := valid) free running
    exact ⟨_, (held carried).2⟩

/-- With every burst's slot lost, none is found at the choice. -/
theorem prepared_lost {valid : SlotId → Bool} {k : Scheduler}
    (pending : ∀ slot, k.nbPending = some slot → valid slot = false)
    (running : ∀ b, k.nbPending = none → k.nbRunning = some b → valid b.slot = false) :
    (k.prepared valid).nbRunning = none := by
  cases waits : k.nbPending with
  | some slot =>
    obtain ⟨_, _, _, lost⟩ := prepared_of_pending (valid := valid) waits
    exact (lost (pending slot waits)).2
  | none =>
    cases runs : k.nbRunning with
    | some b =>
      obtain ⟨_, _, _, lost⟩ := prepared_of_running (valid := valid) waits runs
      exact (lost (running b waits runs)).2
    | none =>
      rw [prepared_idle waits runs]
      exact runs

theorem carries_false {s : State} {p : OutId} {slot : SlotId}
    (h : ¬ ∃ r, s.content.neighbours.get slot = some r ∧ r.carriers.getLsbD p.val = true) :
    carries s p slot = false := Bool.eq_false_iff.2 fun carried => h ((carries_iff s p slot).1 carried)

theorem asksBurst_running {s t : State} {p : OutId} (slot : SlotId) :
    AsksBurst t s.content.prevAn (s.tb.start != .running) p slot ↔
      ∃ r before, t.content.neighbours.get slot = some r ∧ r.carriers.getLsbD p.val = true ∧ r.link ≠ some p ∧
        (if s.tb.start = .running then s.content.prevAn.get slot = some before else before = false) ∧
        anAfter t r ≠ before := by
  have same : ((s.tb.start != .running) = false) = (s.tb.start = .running) := by
    rw [bne_eq_false_iff_eq]
  unfold AsksBurst
  simp only [same]

/-- Settles O39: the request of the comparison, the burst's course, and the cycle. -/
theorem neighbourBurstsAndCycleRun : Obligations.NeighbourBurstsAndCycleRun := by
  refine ⟨fun s t p row enabled => ?_, fun s t p cell k u kind row run enabled fixed hk hu hkind => ?_⟩
  · intro asks
    obtain ⟨lowest, silent⟩ := cellBoundary_request row enabled
    have asks_iff : ∀ slot, asks slot ↔ AsksBurst t s.content.prevAn (s.tb.start != .running) p slot :=
      fun slot => (asksBurst_running slot).symm
    refine ⟨fun slot here first => ?_, fun none => ?_, fun slot => ?_⟩
    · exact lowest slot ((asks_iff slot).1 here) fun i before => fun h => first i before ((asks_iff i).2 h)
    · exact silent fun slot h => none slot ((asks_iff slot).2 h)
    · rw [cellBoundary_prevAn row, carriedAn_get]
      cases t.content.neighbours.get slot <;> rfl
  · intro carried sends
    subst hk hu hkind
    have carries_of : ∀ slot, carried slot → carries t p slot = true := fun slot => (carries_iff t p slot).2
    have lost_of : ∀ slot, ¬ carried slot → carries t p slot = false := fun slot => carries_false
    obtain ⟨begun, replaced, early⟩ := cellBoundary_burstCounters row run enabled
    refine ⟨fun slot pending => ?_, fun b free running => ?_, fun free idle => ?_, fun stands => ?_,
      fun i five here first pending running => ?_⟩
    · obtain ⟨begins, replaces, held, lost⟩ := prepared_of_pending (valid := carries t p) pending
      refine ⟨begun.trans begins, replaced.trans replaces, fun c => ?_, fun c => ?_⟩
      · obtain ⟨stays, runs⟩ := held (carries_of slot c)
        exact ⟨early.trans stays, cellBoundary_burst row run enabled fixed runs (carries_of slot c)⟩
      · obtain ⟨ends, idle⟩ := lost (lost_of slot c)
        exact ⟨cellBoundary_noBurst row run enabled idle, early.trans ends⟩
    · obtain ⟨begins, replaces, held, lost⟩ := prepared_of_running (valid := carries t p) free running
      refine ⟨begun.trans begins, replaced.trans replaces, fun c => ?_, fun c => ?_⟩
      · obtain ⟨stays, runs⟩ := held (carries_of b.slot c)
        exact ⟨early.trans stays, cellBoundary_burst row run enabled fixed runs (carries_of b.slot c)⟩
      · obtain ⟨ends, idle⟩ := lost (lost_of b.slot c)
        exact ⟨cellBoundary_noBurst row run enabled idle, early.trans ends⟩
    · have found := prepared_idle (valid := carries t p) free idle
      rw [found] at begun replaced early
      exact ⟨cellBoundary_noBurst row run enabled (by rw [found]; exact idle), begun, replaced, early⟩
    · refine cellBoundary_cycleStands row run enabled fixed ?_
      rcases stands with ⟨slot, c, burst⟩ | other
      · exact .inl (prepared_carried (carries_of slot c) burst)
      · exact .inr other
    · have idle := prepared_lost (valid := carries t p) (fun slot h => lost_of slot (pending slot h))
        (fun b free h => lost_of b.slot (running b free h))
      obtain ⟨slot, seg, from_⟩ := cellBoundary_cycleMoves row run enabled fixed idle five (carries_of _ here)
        (fun j before => lost_of _ (first j before)) rfl
      refine ⟨fun zeroth => ?_, fun atSlot second => ?_⟩
      · have second : (if i = 0 then (s.out p).nbSeg else false) = false := by
          split
          next atSlot => exact zeroth.elim (absurd atSlot) id
          · rfl
        rw [second] at slot seg from_
        exact ⟨slot, seg, from_⟩
      · rw [if_pos atSlot, second] at slot seg from_
        rw [atSlot, Fin.add_zero] at slot from_
        exact ⟨slot, seg, from_⟩

end Sys2Proof.Machine

/-! PROOFS. Candidates, the contest, and the entries of the scheduler (R58 to R65, R70). -/

namespace Sys2Proof.Machine

/-! ### Candidates (R58, R63) -/

theorem neighbourReady_iff (s : State) (p : OutId) : neighbourReady s p = true ↔
    ∃ slot r, s.content.neighbours.get slot = some r ∧ r.carriers.getLsbD p.val = true := by
  constructor
  · intro h
    obtain ⟨r, mem, carried⟩ := List.any_eq_true.1 h
    obtain ⟨i, hi, rfl⟩ := List.mem_iff_getElem.1 mem
    exact ⟨⟨i, by rw [← s.content.neighbours.size_eq]; exact hi⟩, (Option.any_eq_true ..).1 carried⟩
  · rintro ⟨slot, r, found, carried⟩
    exact List.any_eq_true.2 ⟨_, List.getElem_mem _, (Option.any_eq_true ..).2 ⟨r, found, carried⟩⟩

theorem not_isEmpty_iff {α : Type} (l : List α) : (!l.isEmpty) = true ↔ l ≠ [] := by
  cases l <;> simp

/-- When each service is ready. -/
theorem ready_iff (s : State) (p : OutId) (sv : Service) : ready s p sv = true ↔ match sv with
    | .announce => (s.lane p).seq.phase ≠ .quiet
    | .tmsg => ∃ r, r ∈ s.pool.records ∧ due s.tb.count p r = true
    | .label => True
    | .freq => (s.out p).freqs ≠ []
    | .neighbour => ∃ slot r, s.content.neighbours.get slot = some r ∧ r.carriers.getLsbD p.val = true
    | .text => (s.out p).shownText ≠ [] := by
  cases sv with
  | announce => exact bne_iff_ne
  | tmsg => exact List.any_eq_true
  | label => exact iff_of_true rfl trivial
  | freq => exact not_isEmpty_iff _
  | neighbour => exact neighbourReady_iff s p
  | text => exact not_isEmpty_iff _

theorem candidate_iff (s : State) (p : OutId) (sv : Service) :
    candidate s p sv = true ↔ 1 ≤ (s.outCfg p).intervals.get sv.index ∧ ready s p sv = true := by
  rw [candidate, Bool.and_eq_true, decide_eq_true_iff, and_comm]

/-! ### The contest (R63) -/

theorem pickMost_none {u : Service → Nat} {svs : List Service} : pickMost u svs = none ↔ svs = [] := by
  cases svs with
  | nil => exact iff_of_true rfl rfl
  | cons sv svs =>
    unfold pickMost
    constructor
    · intro h
      split at h
      · cases h
      · split at h <;> cases h
    · nofun

/-- The service with the largest urgency is picked, the earliest among equals. -/
theorem pickMost_of {u : Service → Nat} {sv : Service} {after : List Service} : ∀ {before : List Service},
    (∀ w, w ∈ before → u w < u sv) → (∀ w, w ∈ after → u w ≤ u sv) → pickMost u (before ++ sv :: after) = some sv := by
  intro before
  induction before with
  | nil =>
    intro _ largest
    rw [List.nil_append]
    unfold pickMost
    cases rest : pickMost u after with
    | none => rfl
    | some w => exact if_neg (Nat.not_lt.2 (largest w (pickMost_mem rest)))
  | cons w ws ih =>
    intro less largest
    have rest := ih (fun v hv => less v (List.mem_cons_of_mem _ hv)) largest
    rw [List.cons_append]
    unfold pickMost
    rw [rest]
    exact if_pos (less w List.mem_cons_self)

theorem mem_services (sv : Service) : sv ∈ services := by
  cases sv <;> decide

theorem services_inOrder : services.Pairwise fun a b => a.index.val < b.index.val := by decide

theorem contest_none {s : State} {p : OutId} (unready : ∀ sv, candidate s p sv = false) : contest s p = none := by
  rw [contest, pickMost_none, List.filter_eq_nil_iff]
  exact fun sv _ => by rw [unready sv]; exact Bool.false_ne_true

theorem contest_of {s : State} {p : OutId} {sv : Service} (ready : candidate s p sv = true)
    (most : ∀ w, candidate s p w = true → urgencyOf s p w < urgencyOf s p sv ∨
      (urgencyOf s p w = urgencyOf s p sv ∧ sv.index.val ≤ w.index.val)) : contest s p = some sv := by
  obtain ⟨before, after, split⟩ := List.append_of_mem
    (List.mem_filter.2 ⟨mem_services sv, ready⟩ : sv ∈ services.filter (candidate s p))
  have order := services_inOrder.filter (candidate s p)
  rw [split] at order
  obtain ⟨_, _, across⟩ := List.pairwise_append.1 order
  have candidates : ∀ w, w ∈ before ++ sv :: after → candidate s p w = true := by
    rw [← split]
    exact fun w hw => (List.mem_filter.1 hw).2
  rw [contest, split]
  refine pickMost_of (fun w hw => ?_) fun w hw => ?_
  · rcases most w (candidates w (List.mem_append_left _ hw)) with less | ⟨_, later⟩
    · exact less
    · exact absurd (across w hw sv List.mem_cons_self) (Nat.not_lt.2 later)
  · rcases most w (candidates w (List.mem_append_right _ (List.mem_cons_of_mem _ hw))) with less | ⟨equal, _⟩
    · exact Nat.le_of_lt less
    · exact Nat.le_of_eq equal

theorem winner_announces {s : State} {p : OutId} (burst : 0 < (s.lane p).seq.burst) : winner s p = .announceBurst :=
  if_pos burst

theorem winner_neighbours {s : State} {p : OutId} {b : NbBurst} (silent : (s.lane p).seq.burst = 0)
    (running : (s.lane p).sched.nbRunning = some b) : winner s p = .neighbourBurst b := by
  rw [winner_running running, if_neg (by omega)]

section
variable {s : State} {p : OutId} (silent : (s.lane p).seq.burst = 0) (idle : (s.lane p).sched.nbRunning = none)
include silent idle

theorem winner_contest : winner s p = ((contest s p).map Winner.service).getD .filler := by
  unfold winner
  rw [if_neg (by omega), idle]
  cases contest s p <;> rfl

theorem winner_fills (unready : ∀ sv, candidate s p sv = false) : winner s p = .filler := by
  rw [winner_contest silent idle, contest_none unready]
  rfl

theorem winner_serves {sv : Service} (ready : candidate s p sv = true)
    (most : ∀ w, candidate s p w = true → urgencyOf s p w < urgencyOf s p sv ∨
      (urgencyOf s p w = urgencyOf s p sv ∧ sv.index.val ≤ w.index.val)) : winner s p = .service sv := by
  rw [winner_contest silent idle, contest_of ready most]
  rfl

end

/-! ### Entries (R59, R65, R70) -/

theorem advanceAges_get (k : Scheduler) (i : Fin 6) : k.advanceAges.ages.get i = min (k.ages.get i + 1) 1023 :=
  Table.get_map ..

theorem isLate_iff (age interval : Nat) : Scheduler.isLate age interval = true ↔ 1 ≤ interval ∧ interval < age := by
  rw [Scheduler.isLate, Bool.and_eq_true, decide_eq_true_iff, decide_eq_true_iff]

theorem sendEntry_own (k : Scheduler) (intervals : Table 6 Nat) (sv : Service) :
    (k.sendEntry intervals sv).ages.get sv.index = 0 ∧
      (k.sendEntry intervals sv).largest.get sv.index = max (k.ages.get sv.index) (k.largest.get sv.index) ∧
      (k.sendEntry intervals sv).late.get sv.index =
        (if 1 ≤ intervals.get sv.index ∧ intervals.get sv.index < k.ages.get sv.index then
          satInc (k.late.get sv.index) else k.late.get sv.index) := by
  refine ⟨Table.get_set_self .., (Table.get_modify ..).trans (if_pos rfl), ?_⟩
  refine ((Table.get_modify ..).trans (if_pos rfl)).trans ?_
  unfold satIncIf
  exact if_of_iff (isLate_iff ..)

theorem sendEntry_other (k : Scheduler) (intervals : Table 6 Nat) {sv : Service} {i : Fin 6} (other : i ≠ sv.index) :
    (k.sendEntry intervals sv).ages.get i = k.ages.get i ∧ (k.sendEntry intervals sv).late.get i = k.late.get i ∧
      (k.sendEntry intervals sv).largest.get i = k.largest.get i :=
  ⟨Table.get_set_ne _ _ other.symm, (Table.get_modify ..).trans (if_neg other.symm),
    (Table.get_modify ..).trans (if_neg other.symm)⟩

theorem Service.index_inj {sv w : Service} (h : sv.index = w.index) : sv = w := by
  have find : ∀ sv : Service, services[sv.index.val]? = some sv := fun sv => by cases sv <;> rfl
  have found := find sv
  rw [h, find w] at found
  exact (Option.some.inj found).symm

end Sys2Proof.Machine

/-! PROOFS. The choice of a running output at a boundary without table changes (R58 to R65, R70). -/

namespace Sys2Proof.Machine

/-! ### Boundaries without table changes -/

/-- Nothing queued: a boundary takes no entry, and leaves all but the queue as it stands. -/
theorem takeEntries_empty {expected new : Count} {s : State} (empty : s.queue.entries = []) :
    ∃ u, takeEntries expected new s = ([], u) ∧ u.lanes = s.lanes ∧ u.claims = s.claims ∧ u.cues = s.cues ∧
      u.settings = s.settings := by
  rcases equal_or_other new expected with rfl | jump
  · rw [takeEntries_onTime, empty]
    exact ⟨_, rfl, rfl, rfl, rfl, rfl⟩
  · rcases Nat.lt_or_ge 36000 (delta expected new) with far | near
    · rw [takeEntries_discards s jump far]
      exact ⟨_, rfl, rfl, rfl, rfl, rfl⟩
    · rw [takeEntries_late s jump near, empty]
      exact ⟨_, rfl, rfl, rfl, rfl, rfl⟩

theorem tableChanges_none {o : Order} {expected new : Count} {s : State} (empty : s.queue.entries = [])
    (none : changes s = []) : (tableChanges o expected new s).lanes = s.lanes := by
  obtain ⟨u, taken, lanes, claims, cues, settings⟩ := takeEntries_empty (expected := expected) (new := new) empty
  have silent : changes u = [] := (changes_congr claims cues settings).trans none
  have after : tableChanges o expected new s = u := by
    unfold tableChanges
    rw [taken]
    simp only [silent]
    rfl
  rw [after, lanes]

section
variable {s : State} (empty : s.queue.entries = [])
include empty

theorem cellsOf_settings : (cellsOf s).settings = s.settings := by
  rw [cellsOf, beforeCells, commitTexts_settings, holdPool_settings, updateSources_settings,
    (tableChanges_tables _ _ _ _ (by rw [beforeTables_entries, empty])).1, beforeTables_settings]

theorem cellsOf_outCfg (p : OutId) : (cellsOf s).outCfg p = s.outCfg p :=
  congrArg (fun g : Settings => g.outputs.get p) (cellsOf_settings empty)

theorem cellsOf_quietLane (silent : ∀ x, ¬ s.asks x) (p : OutId) :
    (cellsOf s).lane p = runLane (s.outCfg p).enable (s.lane p) := by
  have lanes : (cellsOf s).lanes = (beforeTables s.tb.expected (s.tb.decideNext s.settings.mode).1
      (s.tb.decideNext s.settings.mode).2 s.tb.markNext.isSome s).lanes := by
    rw [cellsOf, beforeCells, commitTexts_lanes, holdPool_lanes, updateSources_lanes]
    refine tableChanges_none (by rw [beforeTables_entries, empty]) ?_
    rw [beforeTables_changes, changes_eq_nil]
    exact silent
  exact (congrArg (fun t : Table 4 Lane => t.get p) lanes).trans (beforeTables_at ..).1

end

/-! ### The choice, before and after the times advance -/

theorem highest_map {f : Claim → Claim} (hf : ∀ c d, outranks (f c) (f d) = outranks c d) : ∀ cs : List Claim,
    highest (cs.map f) = (highest cs).map f := by
  intro cs
  induction cs with
  | nil => rfl
  | cons c cs ih =>
    rw [List.map_cons]
    unfold highest
    rw [ih]
    cases highest cs with
    | none => rfl
    | some d =>
      simp only [Option.map_some]
      rw [hf]
      split <;> rfl

/-- The sequencers change no claim's being eligible. -/
theorem sequences_eligible (u : State) (p : OutId) (c : Claim) :
    eligible (u.eachOut sequence) p c = eligible u p c := by
  have run : ((u.eachOut sequence).lane p).run = (u.lane p).run := by
    rw [sequences_lane]
    split <;> rfl
  have settings : (u.eachOut sequence).settings = u.settings :=
    eachOut_keeps (·.settings) _ (fun q t => sequence_keeps (·.settings) (fun _ _ => rfl) q t) u
  have content : (u.eachOut sequence).content = u.content :=
    eachOut_keeps (·.content) _ (fun q t => sequence_keeps (·.content) (fun _ _ => rfl) q t) u
  unfold eligible acceptedSet State.outCfg State.out
  rw [run, settings, content]

theorem afterViews_eligible (u : State) (p : OutId) (c : Claim) : eligible (afterViews u) p c = eligible u p c := by
  have same := (advanceClaims_choices (u.eachOut sequence)).trans (writeViews_choices _)
  exact (same.eligible p c).trans (sequences_eligible u p c)

/-- The claim chosen, named by its key and stamp, stays the same as its times advance. -/
theorem cellBoundary_choice {s t : State} (row : exec .cellBoundary s = .next t) (p : OutId) :
    (choice t p).map Claim.ref = (choice (cellsOf s) p).map Claim.ref := by
  have elig : eligible t p ∘ advanceClaim t = eligible (cellsOf s) p := by
    funext c
    exact ((cellBoundary_choices row).eligible p _).trans (afterViews_eligible (cellsOf s) p c)
  have table : t.claims.table.filter (eligible t p) =
      ((cellsOf s).claims.table.filter (eligible (cellsOf s) p)).map (advanceClaim t) := by
    rw [cellBoundary_claims row, List.filter_map, elig]
  unfold choice
  rw [table, highest_map (f := advanceClaim t) fun c d => rfl, Option.map_map]
  rfl

end Sys2Proof.Machine

/-! PROOFS. What the winner of a boundary leaves of sequencer, scheduler and content (R60 to R65, R70). -/

namespace Sys2Proof.Machine

/-! ### Content -/

theorem Service.content_face (sv : Service) (p : OutId) (x : State) : SameFace (x.out p) (sv.content p x) := by
  cases sv with
  | announce => exact .refl _
  | tmsg => exact .refl _
  | label => exact (commitLabel_face _).trans (advanceLabel_face _)
  | freq => exact advanceFreqs_face _
  | neighbour =>
    unfold Service.content
    cases cycleChoice x p with
    | none => exact .refl _
    | some c => exact advanceCycle_face ..
  | text => exact advanceText_face _

/-- No cell changes source, text and list of its output. -/
theorem Winner.content_face (w : Winner) (p : OutId) (x : State) : SameFace (x.out p) (w.content p x) := by
  cases w with
  | announceBurst => exact .refl _
  | neighbourBurst b => exact .refl _
  | service sv => exact sv.content_face p x
  | filler => exact .refl _

theorem Sent.face {s : State} {p : OutId} {u x : State} {w : Winner} {t : State} (h : Sent s p u x w t) :
    SameFace (x.out p) (t.out p) := by
  rw [h.out]
  exact w.content_face p x

theorem SameFace.shownText {a b : OutContent} (h : SameFace a b) : b.shownText = a.shownText := by
  rw [shownText_eq, shownText_eq, h.textShown, h.textN, h.textR]

/-! ### Entries -/

theorem startBurst_entries (k : Scheduler) :
    k.startBurst.ages = k.ages ∧ k.startBurst.late = k.late ∧ k.startBurst.largest = k.largest := by
  unfold Scheduler.startBurst
  split <;> exact ⟨rfl, rfl, rfl⟩

theorem checkBurst_entries (valid : SlotId → Bool) (k : Scheduler) :
    (k.checkBurst valid).ages = k.ages ∧ (k.checkBurst valid).late = k.late ∧
      (k.checkBurst valid).largest = k.largest := by
  unfold Scheduler.checkBurst
  split
  · exact ⟨rfl, rfl, rfl⟩
  · split <;> exact ⟨rfl, rfl, rfl⟩

theorem prepared_entries (valid : SlotId → Bool) (k : Scheduler) :
    (k.prepared valid).ages = k.advanceAges.ages ∧ (k.prepared valid).late = k.late ∧
      (k.prepared valid).largest = k.largest := by
  obtain ⟨ages, late, largest⟩ := startBurst_entries k.advanceAges
  obtain ⟨ages', late', largest'⟩ := checkBurst_entries valid k.advanceAges.startBurst
  exact ⟨ages'.trans ages, late'.trans late, largest'.trans largest⟩

theorem burst_entries (w : Winner) (k : Scheduler) :
    (w.burst k).ages = k.ages ∧ (w.burst k).late = k.late ∧ (w.burst k).largest = k.largest := by
  cases w <;> exact ⟨rfl, rfl, rfl⟩

theorem asked_entries (r : Option SlotId) (k : Scheduler) :
    (k.asked r).ages = k.ages ∧ (k.asked r).late = k.late ∧ (k.asked r).largest = k.largest := by
  cases r <;> exact ⟨rfl, rfl, rfl⟩

/-- What a boundary makes of a service's entry: sent or not. -/
structure Entered (iv : Table 6 Nat) (k u : Scheduler) (sv : Service) (sent : Prop) : Prop where
  own : sent → u.ages.get sv.index = 0 ∧
    u.largest.get sv.index = max (min (k.ages.get sv.index + 1) 1023) (k.largest.get sv.index) ∧
    u.late.get sv.index = (if 1 ≤ iv.get sv.index ∧ iv.get sv.index < min (k.ages.get sv.index + 1) 1023 then
      satInc (k.late.get sv.index) else k.late.get sv.index)
  other : ¬ sent → u.ages.get sv.index = min (k.ages.get sv.index + 1) 1023 ∧
    u.largest.get sv.index = k.largest.get sv.index ∧ u.late.get sv.index = k.late.get sv.index

theorem Entered.asked {iv : Table 6 Nat} {k u : Scheduler} {sv : Service} {sent : Prop} (h : Entered iv k u sv sent)
    (r : Option SlotId) : Entered iv k (u.asked r) sv sent := by
  obtain ⟨ages, late, largest⟩ := asked_entries r u
  obtain ⟨own, other⟩ := h
  rw [← ages, ← late, ← largest] at own other
  exact ⟨own, other⟩

theorem entry_entered {iv : Table 6 Nat} {k c : Scheduler} (ages : c.ages = k.advanceAges.ages) (late : c.late = k.late)
    (largest : c.largest = k.largest) (w : Winner) (sv : Service) :
    Entered iv k (w.entry iv c) sv (w.service? = some sv) := by
  have age : c.ages.get sv.index = min (k.ages.get sv.index + 1) 1023 := by rw [ages, advanceAges_get]
  unfold Winner.entry
  cases won : w.service? with
  | none => exact ⟨nofun, fun _ => ⟨age, by rw [largest], by rw [late]⟩⟩
  | some first =>
    refine ⟨fun same => ?_, fun other => ?_⟩
    · obtain rfl := Option.some.inj same
      obtain ⟨zero, most, lates⟩ := sendEntry_own c iv first
      rw [age, largest] at most
      rw [age, late] at lates
      exact ⟨zero, most, lates⟩
    · have differs : sv.index ≠ first.index := fun same => other (congrArg some (Service.index_inj same).symm)
      obtain ⟨aged, lates, most⟩ := sendEntry_other c iv differs
      exact ⟨aged.trans age, most.trans (by rw [largest]), lates.trans (by rw [late])⟩

theorem service_iff_kind (w : Winner) (sv : Service) :
    w.service? = some sv ↔ w.kind.index.val = sv.kind.index.val := by
  have kinds : w.kind = (w.service?.map Service.kind).getD .filler := by
    cases w <;> rfl
  constructor
  · intro won
    rw [kinds, won]
    rfl
  · intro same
    have kind := CellKind.index_inj same
    rw [kinds] at kind
    cases won : w.service? with
    | none =>
      rw [won] at kind
      cases sv <;> cases kind
    | some first =>
      rw [won] at kind
      have equal : first.kind = sv.kind := kind
      cases first <;> cases sv <;> first | rfl | cases equal

end Sys2Proof.Machine

/-! PROOFS. The contest of a running output at a boundary (R58 to R65, R70). -/

namespace Sys2Proof.Machine

/-- When a service is ready at a boundary from `s` to `t`, on an output whose sequencer has moved to `q` (R58). -/
def readyAt (s t : State) (p : OutId) (q : Sequencer) : Service → Prop
  | .announce => q.phase ≠ .quiet
  | .tmsg => ∃ r, r ∈ s.poolAt t p.val ∧ due t.tb.count p r = true
  | .label => True
  | .freq => (t.out p).freqs ≠ []
  | .neighbour => ∃ slot r, t.content.neighbours.get slot = some r ∧ r.carriers.getLsbD p.val = true
  | .text => (t.out p).shownText ≠ []

/-- A boundary of a running output at which nothing is timed and no claim changes. -/
structure QuietBoundary (s t : State) (p : OutId) : Prop where
  row : exec .cellBoundary s = .next t
  empty : s.queue.entries = []
  silent : ∀ x, ¬ s.asks x
  run : (s.lane p).run = true
  enabled : (s.outCfg p).enable = true

/-- The sequencer of output `p` once it has moved by the claim chosen. -/
def sequencerAt (s t : State) (p : OutId) : Sequencer :=
  Sequencer.boundary (s.outCfg p) ((choice t p).map Claim.ref) (s.lane p).seq

/-- The state in which output `p` chooses. -/
def choosing (s : State) (p : OutId) : State := beforeChoice p (turnOf p (cellsOf s))

section
variable {s t : State} {p : OutId} (h : QuietBoundary s t p)
include h

theorem QuietBoundary.sent : Sent s p (cellsOf s) (turnOf p (cellsOf s)) (turnWinner p (turnOf p (cellsOf s))) t :=
  cellBoundary_sent h.row h.enabled

theorem QuietBoundary.turn_seq : ∃ v, ((turnOf p (cellsOf s)).lane p).seq = { sequencerAt s t p with view := v } := by
  have stays : (cellsOf s).lane p = s.lane p := by
    rw [cellsOf_quietLane h.empty h.silent]
    unfold runLane
    rw [h.run, h.enabled]
  rw [h.sent.lane, sequencedLane_seq (by rw [cellsOf_run, h.enabled]), ← cellBoundary_choice h.row,
    cellsOf_outCfg h.empty, stays]
  exact writeView_keeps ..

theorem QuietBoundary.choosing_seq : ∃ v, ((choosing s p).lane p).seq = { sequencerAt s t p with view := v } := by
  rw [choosing, beforeChoice_lane]
  exact h.turn_seq

theorem QuietBoundary.choosing_sched : ((choosing s p).lane p).sched = (s.lane p).sched.prepared (carries t p) := by
  rw [choosing, beforeChoice_lane, ← turn_prepared h.row h.run h.enabled]

theorem QuietBoundary.turn_outCfg : (turnOf p (cellsOf s)).outCfg p = s.outCfg p := by
  rw [(turnOf_choices p (cellsOf s)).outCfg p, ← cellsOf_outCfg h.empty p]
  exact congrArg (fun g : Settings => g.outputs.get p) (afterViews_settings _)

theorem QuietBoundary.choosing_outCfg : (choosing s p).outCfg p = s.outCfg p :=
  Eq.trans rfl h.turn_outCfg

theorem QuietBoundary.ready_choosing (sv : Service) :
    ready (choosing s p) p sv = true ↔ readyAt s t p (sequencerAt s t p) sv := by
  obtain ⟨v, seq⟩ := h.choosing_seq
  have pool : (choosing s p).pool.records = s.poolAt t p.val := by
    rw [poolAt_eq h.row h.empty, ← cellBoundary_turnPool h.row]
    rfl
  have tb : (choosing s p).tb = t.tb := h.sent.choices.tb.symm
  have face : SameFace ((choosing s p).out p) (t.out p) := h.sent.face
  have neighbours : t.content.neighbours = (choosing s p).content.neighbours := h.sent.choices.neighbours
  rw [ready_iff]
  cases sv with
  | announce =>
    simp only [readyAt]
    rw [seq]
  | tmsg =>
    simp only [readyAt]
    rw [pool, tb]
  | label => exact Iff.rfl
  | freq =>
    simp only [readyAt]
    rw [face.freqs]
  | neighbour =>
    simp only [readyAt]
    rw [neighbours]
  | text =>
    simp only [readyAt]
    rw [face.shownText]

theorem QuietBoundary.candidate_choosing (sv : Service) : candidate (choosing s p) p sv = true ↔
    1 ≤ (s.outCfg p).intervals.get sv.index ∧ readyAt s t p (sequencerAt s t p) sv := by
  rw [candidate_iff, h.ready_choosing, h.choosing_outCfg]

theorem QuietBoundary.urgencyOf_choosing (sv : Service) : urgencyOf (choosing s p) p sv =
    min ((s.lane p).sched.ages.get sv.index + 1) 1023 * 64 / (s.outCfg p).intervals.get sv.index := by
  rw [urgencyOf, h.choosing_sched, h.choosing_outCfg, (prepared_entries ..).1, advanceAges_get]
  rfl

/-- The sequencer moves by the claim chosen; an announce burst has one cell less. -/
theorem QuietBoundary.seq : (t.lane p).seq =
    { sequencerAt s t p with burst := (sequencerAt s t p).burst - 1, view := (t.lane p).seq.view } := by
  obtain ⟨v, seq⟩ := h.turn_seq
  obtain ⟨v', seq'⟩ := h.choosing_seq
  have after := h.sent.seq
  rw [seq] at after
  generalize sequencerAt s t p = q at *
  rcases Nat.eq_zero_or_pos q.burst with silent | burst
  · have same : ∀ w : Winner, w.sequencer { q with view := v } = { q with burst := q.burst - 1, view := v } := by
      intro w
      have none : q.burst = q.burst - 1 := by omega
      cases w with
      | announceBurst => rfl
      | neighbourBurst b => exact congrArg (fun b => { q with burst := b, view := v }) none
      | service sv => exact congrArg (fun b => { q with burst := b, view := v }) none
      | filler => exact congrArg (fun b => { q with burst := b, view := v }) none
    rw [after, same]
  · have won : turnWinner p (turnOf p (cellsOf s)) = .announceBurst := winner_announces (by
      rw [show ((beforeChoice p (turnOf p (cellsOf s))).lane p).seq = _ from seq']
      exact burst)
    rw [after, won]
    rfl

theorem QuietBoundary.entered (sv : Service) : Entered (s.outCfg p).intervals (s.lane p).sched (t.lane p).sched sv
    ((turnWinner p (turnOf p (cellsOf s))).service? = some sv) := by
  have sched := h.sent.sched
  rw [turn_prepared h.row h.run h.enabled, h.turn_outCfg] at sched
  obtain ⟨ages, late, largest⟩ := prepared_entries (carries t p) (s.lane p).sched
  generalize turnWinner p (turnOf p (cellsOf s)) = w at *
  obtain ⟨ages', late', largest'⟩ := burst_entries w ((s.lane p).sched.prepared (carries t p))
  rw [sched]
  exact (entry_entered (ages'.trans ages) (late'.trans late) (largest'.trans largest) w sv).asked _

/-- The kind of the cell is that of the winner of the contest. -/
theorem QuietBoundary.kind {cell : Cell} (fixed : (t.lane p).asm.cell = some cell) :
    cell.control.toNat / 16 = (winner (choosing s p) p).kind.index.val := (h.sent.payload_of fixed).2

theorem QuietBoundary.announces (burst : 0 < (sequencerAt s t p).burst) : winner (choosing s p) p = .announceBurst := by
  obtain ⟨v, seq⟩ := h.choosing_seq
  exact winner_announces (by rw [seq]; exact burst)

theorem QuietBoundary.unburst (silent : (sequencerAt s t p).burst = 0) : ((choosing s p).lane p).seq.burst = 0 := by
  obtain ⟨v, seq⟩ := h.choosing_seq
  rw [seq]
  exact silent

end

end Sys2Proof.Machine

/-! PROOFS. The most urgent service is sent (R58 to R65, R70). -/

namespace Sys2Proof.Machine

/-- A neighbour burst that stands at a boundary, waiting or running, from a slot the output carries. -/
def burstStands (t : State) (p : OutId) (k : Scheduler) : Prop :=
  ∃ slot, (∃ r, t.content.neighbours.get slot = some r ∧ r.carriers.getLsbD p.val = true) ∧
    (k.nbPending = some slot ∨ k.nbPending = none ∧ ∃ second, k.nbRunning = some ⟨slot, second⟩)

theorem prepared_stands {t : State} {p : OutId} {k : Scheduler} (h : burstStands t p k) :
    ∃ b, (k.prepared (carries t p)).nbRunning = some b := by
  obtain ⟨slot, carried, burst⟩ := h
  exact prepared_carried ((carries_iff t p slot).2 carried) burst

theorem prepared_unstands {t : State} {p : OutId} {k : Scheduler} (h : ¬ burstStands t p k) :
    (k.prepared (carries t p)).nbRunning = none :=
  prepared_lost (fun slot pending => carries_false fun carried => h ⟨slot, carried, .inl pending⟩)
    fun b free running => carries_false fun carried => h ⟨b.slot, carried, .inr ⟨free, b.second, running⟩⟩

section
variable {s t : State} {p : OutId} (h : QuietBoundary s t p) {cell : Cell}
  (fixed : (t.lane p).asm.cell = some cell)
include h fixed

theorem QuietBoundary.announce_kind (burst : 0 < (sequencerAt s t p).burst) : cell.control.toNat / 16 = 6 := by
  rw [h.kind fixed, h.announces burst]
  rfl

theorem QuietBoundary.neighbour_kind (silent : (sequencerAt s t p).burst = 0)
    (stands : burstStands t p (s.lane p).sched) : cell.control.toNat / 16 = 5 := by
  obtain ⟨b, running⟩ := prepared_stands stands
  rw [h.kind fixed, winner_neighbours (h.unburst silent) (by rw [h.choosing_sched, running])]
  rfl

section
variable (silent : (sequencerAt s t p).burst = 0) (idle : ¬ burstStands t p (s.lane p).sched)
include silent idle

theorem QuietBoundary.filler_kind
    (unready : ∀ sv : Service, ¬ (1 ≤ (s.outCfg p).intervals.get sv.index ∧ readyAt s t p (sequencerAt s t p) sv)) :
    cell.control.toNat / 16 = 0 := by
  have none : ∀ sv, candidate (choosing s p) p sv = false := fun sv =>
    Bool.eq_false_iff.2 fun ready => unready sv ((h.candidate_choosing sv).1 ready)
  rw [h.kind fixed, winner_fills (h.unburst silent) (by rw [h.choosing_sched, prepared_unstands idle]) none]
  rfl

theorem QuietBoundary.service_kind {age interval : Service → Nat}
    (ages : ∀ sv, age sv = min ((s.lane p).sched.ages.get sv.index + 1) 1023)
    (intervals : ∀ sv, interval sv = (s.outCfg p).intervals.get sv.index) {sv : Service}
    (stands : 1 ≤ interval sv ∧ readyAt s t p (sequencerAt s t p) sv)
    (most : ∀ w, 1 ≤ interval w ∧ readyAt s t p (sequencerAt s t p) w →
      age w * 64 / interval w < age sv * 64 / interval sv ∨
        (age w * 64 / interval w = age sv * 64 / interval sv ∧ sv.index.val ≤ w.index.val)) :
    cell.control.toNat / 16 = sv.kind.index.val := by
  have urgency : ∀ w, urgencyOf (choosing s p) p w = age w * 64 / interval w := fun w => by
    rw [h.urgencyOf_choosing, ages, intervals]
  have candidates : ∀ w, candidate (choosing s p) p w = true ↔
      1 ≤ interval w ∧ readyAt s t p (sequencerAt s t p) w := fun w => by
    rw [h.candidate_choosing, intervals]
  have won : winner (choosing s p) p = .service sv :=
    winner_serves (h.unburst silent) (by rw [h.choosing_sched, prepared_unstands idle]) ((candidates sv).2 stands)
      fun w ready => by
        rw [urgency, urgency]
        exact most w ((candidates w).1 ready)
  rw [h.kind fixed, won]
  rfl

end

/-- The entry of the service whose kind the cell has is updated, and no other. -/
theorem QuietBoundary.entered_kind (sv : Service) :
    Entered (s.outCfg p).intervals (s.lane p).sched (t.lane p).sched sv
      (cell.control.toNat / 16 = sv.kind.index.val) := by
  have same : (winner (choosing s p) p).service? = some sv ↔ cell.control.toNat / 16 = sv.kind.index.val := by
    rw [h.kind fixed, service_iff_kind]
  obtain ⟨own, other⟩ := h.entered sv
  exact ⟨fun sent => own (same.2 sent), fun unsent => other fun won => unsent (same.1 won)⟩

end

/-- When a service may win, by the settings and the output's own state. -/
theorem candidate_spelled (s : State) (p : OutId) (sv : Service) : candidate s p sv = true ↔
    1 ≤ (s.outCfg p).intervals.get sv.index ∧ match sv with
      | .announce => (s.lane p).seq.phase ≠ .quiet
      | .tmsg => ∃ r, r ∈ s.pool.records ∧ 0 < r.repeats.get p ∧ (s.tb.count - r.nextEligible.get p).toNat < 8388608
      | .label => True
      | .freq => (s.out p).freqs ≠ []
      | .neighbour => ∃ slot r, s.content.neighbours.get slot = some r ∧ r.carriers.getLsbD p.val = true
      | .text => (match (s.out p).textShown with
          | .n => (s.out p).varN.text
          | .r => (s.out p).varR.text) ≠ [] := by
  rw [candidate_iff, ready_iff]
  refine and_congr_right fun _ => ?_
  cases sv with
  | announce => exact Iff.rfl
  | tmsg => exact exists_congr fun r => and_congr_right fun _ => due_iff ..
  | label => exact Iff.rfl
  | freq => exact Iff.rfl
  | neighbour => exact Iff.rfl
  | text => exact (congrArg (· ≠ []) (shownText_eq _)).to_iff

/-- Settles O37: candidates and the contest, entries, and the contest as a boundary holds it. -/
theorem theMostUrgentServiceIsSent : Obligations.TheMostUrgentServiceIsSent := by
  refine ⟨fun s p sv => ⟨rfl, candidate_spelled s p sv⟩, fun s p => ⟨winner_announces, fun b => winner_neighbours,
    fun silent idle => ⟨winner_fills silent idle, fun sv => winner_serves silent idle⟩⟩, fun k intervals sv w => ?_,
    fun s t p cell kind q k u row empty silent run enabled fixed hkind hq hk hu => ?_⟩
  · obtain ⟨zero, most, late⟩ := sendEntry_own k intervals sv
    refine ⟨advanceAges_get k _, zero, most, late, fun other => ?_⟩
    exact sendEntry_other k intervals fun same => other (Service.index_inj same)
  · intro age interval carried stands code burst
    subst hkind hk hu
    have h : QuietBoundary s t p := ⟨row, empty, silent, run, enabled⟩
    obtain rfl : q = sequencerAt s t p := hq
    have codes : ∀ sv, code sv = sv.kind.index.val := fun sv => by cases sv <;> rfl
    have stands_iff : ∀ sv, stands sv ↔ 1 ≤ interval sv ∧ readyAt s t p (sequencerAt s t p) sv := by
      intro sv
      refine and_congr_right fun _ => ?_
      cases sv with
      | text => exact (congrArg (· ≠ []) (shownText_eq _)).to_iff.symm
      | announce => exact Iff.rfl
      | tmsg => exact Iff.rfl
      | label => exact Iff.rfl
      | freq => exact Iff.rfl
      | neighbour => exact Iff.rfl
    refine ⟨h.seq, h.announce_kind fixed, h.neighbour_kind fixed, fun none idle => ⟨fun unready => ?_, fun sv ready most => ?_⟩,
      fun sv => ?_⟩
    · exact h.filler_kind fixed none idle fun sv ready => unready sv ((stands_iff sv).2 ready)
    · rw [codes]
      exact h.service_kind fixed none idle (fun _ => rfl) (fun _ => rfl) ((stands_iff sv).1 ready)
        fun w ready => most w ((stands_iff w).2 ready)
    · obtain ⟨own, other⟩ := h.entered_kind fixed sv
      rw [codes]
      exact ⟨own, other⟩

end Sys2Proof.Machine

/-! PROOFS. Staged content commits at its positions (R42 to R46). -/

namespace Sys2Proof.Machine

namespace OutContent

/-! ### The label commit (R42, R43) -/

/-- What the label commit and the label's advance deal with. -/
structure SameLabels (a b : OutContent) : Prop where
  labelShown : b.labelShown = a.labelShown
  lv : b.lv = a.lv
  labelCommits : b.counters.labelCommits = a.counters.labelCommits
  labelPos : b.labelPos = a.labelPos
  variants : ∀ v, (b.variant v).label = (a.variant v).label ∧ (b.variant v).staged = (a.variant v).staged

theorem SameLabels.refl (a : OutContent) : SameLabels a a := ⟨rfl, rfl, rfl, rfl, fun _ => ⟨rfl, rfl⟩⟩

theorem SameLabels.trans {a b c : OutContent} (h : SameLabels a b) (k : SameLabels b c) : SameLabels a c :=
  ⟨k.labelShown.trans h.labelShown, k.lv.trans h.lv, k.labelCommits.trans h.labelCommits, k.labelPos.trans h.labelPos,
    fun v => ⟨(k.variants v).1.trans (h.variants v).1, (k.variants v).2.trans (h.variants v).2⟩⟩

/-- What a label commit from `a` to `b` with active variant `v` does at segment 0. -/
structure LabelCommitted (v : Variant) (a b : OutContent) : Prop where
  shown : b.labelShown = v
  live : (b.variant v).label = (a.variant v).staged.getD (a.variant v).label
  unstaged : (b.variant v).staged = none
  others : ∀ w, w ≠ v → (b.variant w).label = (a.variant w).label ∧ (b.variant w).staged = (a.variant w).staged
  lv : b.lv = (if a.labelShown = v ∧ (a.variant v).staged = none then a.lv else !a.lv)
  counted : b.counters.labelCommits =
    (if (a.variant v).staged = none then a.counters.labelCommits else satInc a.counters.labelCommits)

theorem toggled (a v : Variant) (staged : Option Label) (lv : Bool) :
    (lv != (a != v || staged.isSome)) = if a = v ∧ staged = none then lv else !lv := by
  have set : (a != v || staged.isSome) = false ↔ a = v ∧ staged = none := by
    rw [Bool.or_eq_false_iff, bne_eq_false_iff_eq, Option.isSome_eq_false_iff, Option.isNone_iff_eq_none]
  split
  next same => rw [set.2 same, Bool.bne_false]
  next changed => rw [(Bool.not_eq_false _).mp fun h => changed (set.1 h), Bool.bne_true]

theorem counted_isSome (staged : Option Label) (c : Counter) :
    satIncIf staged.isSome c = if staged = none then c else satInc c := by
  cases staged <;> rfl

theorem commitLabel_committed {o : OutContent} (zero : o.labelPos = 0) :
    LabelCommitted o.source.variant o o.commitLabel := by
  have committed : o.commitLabel = _ := if_pos zero
  rw [committed]
  cases o.source.variant with
  | n =>
    refine ⟨rfl, rfl, rfl, fun w other => ?_, toggled .., counted_isSome ..⟩
    cases w with
    | n => exact absurd rfl other
    | r => exact ⟨rfl, rfl⟩
  | r =>
    refine ⟨rfl, rfl, rfl, fun w other => ?_, toggled .., counted_isSome ..⟩
    cases w with
    | n => exact ⟨rfl, rfl⟩
    | r => exact absurd rfl other

theorem commitLabel_later {o : OutContent} (later : o.labelPos ≠ 0) : o.commitLabel = o := if_neg later

theorem commitLabel_texts (o : OutContent) (v : Variant) : (o.commitLabel.variant v).text = (o.variant v).text := by
  have face := commitLabel_face o
  cases v with
  | n => exact face.textN
  | r => exact face.textR

/-! ### The text commit (R44) -/

/-- What a text commit from `a` to `b` with active variant `v` does at position 0. -/
structure TextCommitted (v : Variant) (a b : OutContent) : Prop where
  shown : b.textShown = v
  version : b.textVersion = a.textVersion + 1
  live : (b.variant v).text = (a.variant v).stagedText.getD (a.variant v).text
  unstaged : (b.variant v).stagedText = none
  others : ∀ w, w ≠ v → (b.variant w).text = (a.variant w).text ∧ (b.variant w).stagedText = (a.variant w).stagedText
  counted : b.counters.textCommits = satInc a.counters.textCommits

theorem textPending_iff (o : OutContent) : o.textPending = true ↔
    o.textShown ≠ o.source.variant ∨ (o.variant o.source.variant).stagedText ≠ none := by
  rw [textPending, Bool.or_eq_true, bne_iff_ne, Option.isSome_iff_ne_none]

theorem commitText_committed {o : OutContent} (zero : o.textPos = 0)
    (waits : o.textShown ≠ o.source.variant ∨ (o.variant o.source.variant).stagedText ≠ none) :
    TextCommitted o.source.variant o o.commitText := by
  have committed : o.commitText = _ := if_pos ⟨zero, (textPending_iff o).2 waits⟩
  rw [committed]
  cases o.source.variant with
  | n =>
    refine ⟨rfl, rfl, rfl, rfl, fun w other => ?_, rfl⟩
    cases w with
    | n => exact absurd rfl other
    | r => exact ⟨rfl, rfl⟩
  | r =>
    refine ⟨rfl, rfl, rfl, rfl, fun w other => ?_, rfl⟩
    cases w with
    | n => exact ⟨rfl, rfl⟩
    | r => exact absurd rfl other

theorem commitText_rests {o : OutContent} (h : o.textPos ≠ 0 ∨
    (o.textShown = o.source.variant ∧ (o.variant o.source.variant).stagedText = none)) : o.commitText = o := by
  refine if_neg fun ⟨zero, waits⟩ => ?_
  rcases h with later | ⟨shown, empty⟩
  · exact later zero
  · exact ((textPending_iff o).1 waits).elim (absurd shown) (absurd empty)

theorem commitText_labels (o : OutContent) : SameLabels o o.commitText := by
  unfold commitText
  split
  · cases o.source.variant
    all_goals exact ⟨rfl, rfl, rfl, rfl, fun w => by cases w <;> exact ⟨rfl, rfl⟩⟩
  · exact .refl o

theorem commitText_lists (o : OutContent) : o.commitText.freqPos = o.freqPos ∧ o.commitText.freqs = o.freqs ∧
    o.commitText.stagedFreqs = o.stagedFreqs ∧ o.commitText.counters.listCommits = o.counters.listCommits := by
  unfold commitText
  split
  · cases o.source.variant
    all_goals exact ⟨rfl, rfl, rfl, rfl⟩
  · exact ⟨rfl, rfl, rfl, rfl⟩

/-! ### The list commit (R46) -/

theorem commitFreqs_zero {o : OutContent} {codes : List Nat} (staged : o.stagedFreqs = some codes)
    (zero : o.freqPos = 0) : o.commitFreqs = { o with
      freqs := codes, stagedFreqs := none
      counters := { o.counters with listCommits := satInc o.counters.listCommits } } := by
  unfold commitFreqs
  rw [staged]
  exact if_pos zero

theorem commitFreqs_rests {o : OutContent} (h : o.freqPos ≠ 0 ∨ o.stagedFreqs = none) : o.commitFreqs = o := by
  unfold commitFreqs
  split
  next codes staged =>
    exact if_neg (h.elim id fun empty => absurd (staged.symm.trans empty) nofun)
  · rfl

/-- What the text commit deals with, and what the list commit leaves of it. -/
structure SameTexts (a b : OutContent) : Prop where
  textShown : b.textShown = a.textShown
  version : b.textVersion = a.textVersion
  counted : b.counters.textCommits = a.counters.textCommits
  variants : ∀ v, (b.variant v).text = (a.variant v).text ∧ (b.variant v).stagedText = (a.variant v).stagedText

theorem SameTexts.trans {a b c : OutContent} (h : SameTexts a b) (k : SameTexts b c) : SameTexts a c :=
  ⟨k.textShown.trans h.textShown, k.version.trans h.version, k.counted.trans h.counted,
    fun v => ⟨(k.variants v).1.trans (h.variants v).1, (k.variants v).2.trans (h.variants v).2⟩⟩

theorem commitFreqs_keeps (o : OutContent) :
    SameLabels o o.commitFreqs ∧ SameTexts o o.commitFreqs ∧ o.commitFreqs.source = o.source := by
  unfold commitFreqs
  split
  · split
    all_goals exact ⟨⟨rfl, rfl, rfl, rfl, fun w => by cases w <;> exact ⟨rfl, rfl⟩⟩,
      ⟨rfl, rfl, rfl, fun w => by cases w <;> exact ⟨rfl, rfl⟩⟩, rfl⟩
  · exact ⟨.refl o, ⟨rfl, rfl, rfl, fun _ => ⟨rfl, rfl⟩⟩, rfl⟩

theorem TextCommitted.kept {v : Variant} {a b c : OutContent} (h : TextCommitted v a b) (k : SameTexts b c) :
    TextCommitted v a c := by
  refine ⟨k.textShown.trans h.shown, k.version.trans h.version, (k.variants v).1.trans h.live,
    (k.variants v).2.trans h.unstaged, fun w other => ?_, k.counted.trans h.counted⟩
  obtain ⟨text, staged⟩ := h.others w other
  exact ⟨(k.variants w).1.trans text, (k.variants w).2.trans staged⟩

end OutContent

theorem SameFace.texts {a b : OutContent} (h : SameFace a b) : OutContent.SameTexts a b := by
  refine ⟨h.textShown, h.textVersion, h.textCommits, fun v => ?_⟩
  cases v with
  | n => exact ⟨h.textN, h.stagedTextN⟩
  | r => exact ⟨h.textR, h.stagedTextR⟩

end Sys2Proof.Machine

/-! PROOFS. Commits and positions of a running output at a boundary (R42 to R46). -/

namespace Sys2Proof.Machine

open OutContent

/-! ### What the winner leaves of positions and labels -/

theorem advanceFreqs_labels (o : OutContent) : SameLabels o o.advanceFreqs :=
  ⟨rfl, rfl, rfl, rfl, fun v => by cases v <;> exact ⟨rfl, rfl⟩⟩

theorem advanceText_labels (o : OutContent) : SameLabels o o.advanceText :=
  ⟨rfl, rfl, rfl, rfl, fun v => by cases v <;> exact ⟨rfl, rfl⟩⟩

theorem advanceCycle_labels (slot : SlotId) (second : Bool) (o : OutContent) :
    SameLabels o (advanceCycle slot second o) := by
  unfold advanceCycle
  split
  all_goals exact ⟨rfl, rfl, rfl, rfl, fun v => by cases v <;> exact ⟨rfl, rfl⟩⟩

theorem Winner.content_labels {w : Winner} (h : w ≠ .service .label) (p : OutId) (x : State) :
    SameLabels (x.out p) (w.content p x) := by
  cases w with
  | announceBurst => exact .refl _
  | neighbourBurst b => exact .refl _
  | filler => exact .refl _
  | service sv =>
    cases sv with
    | announce => exact .refl _
    | tmsg => exact .refl _
    | label => exact absurd rfl h
    | freq => exact advanceFreqs_labels _
    | neighbour =>
      show SameLabels _ (((cycleChoice x p).map _).getD _)
      cases cycleChoice x p with
      | none => exact .refl _
      | some c => exact advanceCycle_labels ..
    | text => exact advanceText_labels _

theorem advanceCycle_pos (slot : SlotId) (second : Bool) (o : OutContent) :
    (advanceCycle slot second o).textPos = o.textPos ∧ (advanceCycle slot second o).freqPos = o.freqPos := by
  unfold advanceCycle
  split <;> exact ⟨rfl, rfl⟩

/-- The position of the text moves with TEXT cells, that of the list with FREQ cells. -/
theorem Winner.content_pos (w : Winner) (p : OutId) (x : State) :
    (w ≠ .service .text → (w.content p x).textPos = (x.out p).textPos) ∧
      (w ≠ .service .freq → (w.content p x).freqPos = (x.out p).freqPos) := by
  cases w with
  | announceBurst => exact ⟨fun _ => rfl, fun _ => rfl⟩
  | neighbourBurst b => exact ⟨fun _ => rfl, fun _ => rfl⟩
  | filler => exact ⟨fun _ => rfl, fun _ => rfl⟩
  | service sv =>
    cases sv with
    | announce => exact ⟨fun _ => rfl, fun _ => rfl⟩
    | tmsg => exact ⟨fun _ => rfl, fun _ => rfl⟩
    | label =>
      obtain ⟨_, text, freq⟩ := commitLabel_pos (x.out p)
      exact ⟨fun _ => text, fun _ => freq⟩
    | freq => exact ⟨fun _ => rfl, fun h => absurd rfl h⟩
    | neighbour =>
      have moved : ∀ c : Option (SlotId × Bool), ((c.map fun c => advanceCycle c.1 c.2 (x.out p)).getD (x.out p)).textPos =
          (x.out p).textPos ∧ ((c.map fun c => advanceCycle c.1 c.2 (x.out p)).getD (x.out p)).freqPos =
            (x.out p).freqPos := fun c => by
        cases c with
        | none => exact ⟨rfl, rfl⟩
        | some c => exact advanceCycle_pos ..
      obtain ⟨text, freq⟩ := moved (cycleChoice x p)
      exact ⟨fun _ => text, fun _ => freq⟩
    | text => exact ⟨fun h => absurd rfl h, fun _ => rfl⟩

/-! ### Commits from content that differs elsewhere -/

theorem OutContent.LabelCommitted.of_same {v : Variant} {a b c : OutContent} (h : LabelCommitted v b c) (k : SameLabels a b) :
    LabelCommitted v a c := by
  obtain ⟨shown, live, unstaged, others, lv, counted⟩ := h
  have variants := k.variants
  refine ⟨shown, ?_, unstaged, fun w other => ?_, ?_, ?_⟩
  · rw [live, (variants v).1, (variants v).2]
  · obtain ⟨label, staged⟩ := others w other
    exact ⟨label.trans (variants w).1, staged.trans (variants w).2⟩
  · rw [lv, k.labelShown, k.lv, (variants v).2]
  · rw [counted, k.labelCommits, (variants v).2]

theorem OutContent.LabelCommitted.advanced {v : Variant} {a b : OutContent} (h : LabelCommitted v a b) :
    LabelCommitted v a b.advanceLabel := by
  have same : ∀ w, b.advanceLabel.variant w = b.variant w := fun w => by cases w <;> rfl
  obtain ⟨shown, live, unstaged, others, lv, counted⟩ := h
  exact ⟨shown, by rw [same, live], by rw [same, unstaged], fun w other => by rw [same]; exact others w other, lv,
    counted⟩

theorem OutContent.TextCommitted.of_same {v : Variant} {a b c : OutContent} (h : TextCommitted v b c) (k : SameTexts a b) :
    TextCommitted v a c := by
  obtain ⟨shown, version, live, unstaged, others, counted⟩ := h
  have variants := k.variants
  refine ⟨shown, ?_, ?_, unstaged, fun w other => ?_, ?_⟩
  · rw [version, k.version]
  · rw [live, (variants v).1, (variants v).2]
  · obtain ⟨text, staged⟩ := others w other
    exact ⟨text.trans (variants w).1, staged.trans (variants w).2⟩
  · rw [counted, k.counted]

theorem commitText_source (o : OutContent) : o.commitText.source = o.source := by
  unfold commitText
  split
  · cases o.source.variant <;> rfl
  · rfl

/-! ### The content in which the cell is chosen -/

theorem updateSource_variant (set : Bool) (o : OutContent) : (o.updateSource set).source.variant =
    if o.requested = .regional ∧ set = true then .r else .n := by
  show Source.variant (if _ then Source.regional else Source.network) = _
  split <;> rfl

theorem updateSource_labels (set : Bool) (o : OutContent) : SameLabels o (o.updateSource set) :=
  ⟨rfl, rfl, rfl, rfl, fun v => by cases v <;> exact ⟨rfl, rfl⟩⟩

theorem updateSource_texts (set : Bool) (o : OutContent) : SameTexts o (o.updateSource set) :=
  ⟨rfl, rfl, rfl, fun v => by cases v <;> exact ⟨rfl, rfl⟩⟩

/-- Source, text and list commits leave the label. -/
theorem commits_labels {set : Bool} {a o : OutContent} (ho : o = a.updateSource set) :
    SameLabels a o.commitText.commitFreqs := by
  rw [ho]
  exact ((updateSource_labels _ _).trans (commitText_labels _)).trans (commitFreqs_keeps _).1

section
variable {s t : State} {p : OutId} (row : exec .cellBoundary s = .next t) (empty : s.queue.entries = [])
  (run : (s.lane p).run = true) (enabled : (s.outCfg p).enable = true)
include empty run enabled

theorem cellsOf_runningOut : (cellsOf s).out p =
    ((s.out p).updateSource ((s.outCfg p).regId != 0)).commitText.commitFreqs := by
  have out := beforeCells_out .free s.tb.expected (s.tb.decideNext s.settings.mode).1
    (s.tb.decideNext s.settings.mode).2 s.tb.markNext.isSome s p empty
  rw [run, enabled] at out
  exact out

include row
variable {o : OutContent} (ho : o = (s.out p).updateSource ((s.outCfg p).regId != 0))
include ho

theorem boundary_atTurn : (turnOf p (cellsOf s)).out p = o.commitText.commitFreqs := by
  rw [(cellBoundary_sent row enabled).atTurn, cellsOf_runningOut empty run enabled, ho]

theorem boundary_face : SameFace o.commitText.commitFreqs (t.out p) := by
  rw [← boundary_atTurn row empty run enabled ho]
  exact (cellBoundary_sent row enabled).face

/-- At a LABEL cell: the label commit, and the next segment. -/
theorem boundary_label (label : turnWinner p (turnOf p (cellsOf s)) = .service .label) :
    t.out p = o.commitText.commitFreqs.commitLabel.advanceLabel := by
  rw [(cellBoundary_sent row enabled).out, label, ← boundary_atTurn row empty run enabled ho]
  rfl

theorem boundary_otherCell (other : turnWinner p (turnOf p (cellsOf s)) ≠ .service .label) :
    SameLabels (s.out p) (t.out p) := by
  rw [(cellBoundary_sent row enabled).out]
  refine (commits_labels ho).trans ?_
  rw [← boundary_atTurn row empty run enabled ho]
  exact Winner.content_labels other p _

/-- The label of a LABEL cell of segment 0 is committed for the source's variant. -/
theorem boundary_labelCommits (label : turnWinner p (turnOf p (cellsOf s)) = .service .label)
    (zero : (s.out p).labelPos = 0) : LabelCommitted o.source.variant (s.out p) (t.out p) := by
  have labels := commits_labels ho
  have source : o.commitText.commitFreqs.source = o.source := by rw [(commitFreqs_keeps _).2.2, commitText_source]
  have committed := commitLabel_committed (o := o.commitText.commitFreqs) (by rw [labels.labelPos, zero])
  rw [source] at committed
  rw [boundary_label row empty run enabled ho label]
  exact (committed.of_same labels).advanced

/-- Cells of other kinds and segments commit no label. -/
theorem boundary_labelRests (rests : turnWinner p (turnOf p (cellsOf s)) ≠ .service .label ∨ (s.out p).labelPos ≠ 0) :
    (t.out p).labelShown = (s.out p).labelShown ∧ (t.out p).lv = (s.out p).lv ∧
      (t.out p).counters.labelCommits = (s.out p).counters.labelCommits ∧
      ∀ v, ((t.out p).variant v).label = ((s.out p).variant v).label ∧
        ((t.out p).variant v).staged = ((s.out p).variant v).staged := by
  by_cases label : turnWinner p (turnOf p (cellsOf s)) = .service .label
  · have labels := commits_labels ho
    have later : (s.out p).labelPos ≠ 0 := rests.resolve_left fun h => h label
    have out := boundary_label row empty run enabled ho label
    rw [commitLabel_later (by rw [labels.labelPos]; exact later)] at out
    have same : ∀ v, (t.out p).variant v = o.commitText.commitFreqs.variant v := fun v => by
      rw [out]
      cases v <;> rfl
    refine ⟨?_, ?_, ?_, fun v => ?_⟩
    · rw [out]
      exact labels.labelShown
    · rw [out]
      exact labels.lv
    · rw [out]
      exact labels.labelCommits
    · rw [same]
      exact labels.variants v
  · have labels := boundary_otherCell row empty run enabled ho label
    exact ⟨labels.labelShown, labels.lv, labels.labelCommits, labels.variants⟩

theorem boundary_labelPos : (t.out p).labelPos =
    if turnWinner p (turnOf p (cellsOf s)) = .service .label then
      ((s.out p).labelPos + 1) % (((t.out p).shownLabel.chars.length + 5) / 6) else (s.out p).labelPos := by
  have labels := commits_labels ho
  split
  next label =>
    have out := boundary_label row empty run enabled ho label
    have pos : o.commitText.commitFreqs.commitLabel.labelPos = (s.out p).labelPos := by
      rw [(commitLabel_pos _).1, labels.labelPos]
    rw [out, advanceLabel, ← pos]
    rfl
  next other => exact (boundary_otherCell row empty run enabled ho other).labelPos

/-! ### Text and list -/

theorem boundary_texts : SameTexts o.commitText (t.out p) :=
  (commitFreqs_keeps _).2.1.trans (boundary_face row empty run enabled ho).texts

theorem boundary_textCommits (zero : (s.out p).textPos = 0)
    (waits : (s.out p).textShown ≠ o.source.variant ∨ ((s.out p).variant o.source.variant).stagedText ≠ none) :
    TextCommitted o.source.variant (s.out p) (t.out p) := by
  have texts := updateSource_texts ((s.outCfg p).regId != 0) (s.out p)
  have pos : o.textPos = 0 := by rw [ho]; exact zero
  rw [← ho] at texts
  have committed := commitText_committed pos (by rwa [texts.textShown, (texts.variants _).2])
  exact (committed.of_same texts).kept (boundary_texts row empty run enabled ho)

theorem boundary_textRests (rests : (s.out p).textPos ≠ 0 ∨
    ((s.out p).textShown = o.source.variant ∧ ((s.out p).variant o.source.variant).stagedText = none)) :
    SameTexts (s.out p) (t.out p) := by
  have texts := updateSource_texts ((s.outCfg p).regId != 0) (s.out p)
  rw [← ho] at texts
  have pos : o.textPos = (s.out p).textPos := by rw [ho]; rfl
  have after := boundary_texts row empty run enabled ho
  rw [commitText_rests (by rwa [pos, texts.textShown, (texts.variants _).2])] at after
  exact texts.trans after

omit empty ho in
theorem boundary_textPos : (t.out p).textPos =
    if turnWinner p (turnOf p (cellsOf s)) = .service .text then
      ((s.out p).textPos + 1) % (((t.out p).shownText.length + 5) / 6) else (s.out p).textPos := by
  have commits := cellsOf_commits s p
  rw [contentAtRun_running run] at commits
  split
  next text =>
    have moved := (cellBoundary_text row enabled text rfl rfl rfl).1
    rw [if_pos run] at moved
    exact moved
  next other =>
    have sent := cellBoundary_sent row enabled
    rw [sent.out, (Winner.content_pos _ p _).1 other, sent.atTurn, commits.textPos]

omit empty ho in
theorem boundary_freqPos : (t.out p).freqPos =
    if turnWinner p (turnOf p (cellsOf s)) = .service .freq then
      ((s.out p).freqPos + 1) % (((t.out p).freqs.length + 3) / 4) else (s.out p).freqPos := by
  have commits := cellsOf_commits s p
  rw [contentAtRun_running run] at commits
  split
  next freq =>
    have moved := (cellBoundary_freq row enabled freq rfl rfl fun _ => rfl).1
    rw [if_pos run] at moved
    exact moved
  next other =>
    have sent := cellBoundary_sent row enabled
    rw [sent.out, (Winner.content_pos _ p _).2 other, sent.atTurn, commits.freqPos]

/-- The list after the boundary is that of the list commit alone. -/
theorem boundary_list : (t.out p).freqs = (s.out p).commitFreqs.freqs ∧
    (t.out p).stagedFreqs = (s.out p).commitFreqs.stagedFreqs ∧
    (t.out p).counters.listCommits = (s.out p).commitFreqs.counters.listCommits := by
  have face := boundary_face row empty run enabled ho
  obtain ⟨freqPos, freqs, staged, commits⟩ := commitText_lists o
  have same : ∀ a b : OutContent, b.freqPos = a.freqPos → b.freqs = a.freqs → b.stagedFreqs = a.stagedFreqs →
      b.counters.listCommits = a.counters.listCommits → b.commitFreqs.freqs = a.commitFreqs.freqs ∧
        b.commitFreqs.stagedFreqs = a.commitFreqs.stagedFreqs ∧
        b.commitFreqs.counters.listCommits = a.commitFreqs.counters.listCommits := by
    intro a b pos list stagedList counted
    unfold commitFreqs
    rw [stagedList, pos]
    split
    · split
      · exact ⟨rfl, rfl, by rw [counted]⟩
      · exact ⟨list, stagedList, counted⟩
    · exact ⟨list, stagedList, counted⟩
  rw [face.freqs, face.stagedFreqs, face.listCommits]
  exact same (s.out p) o.commitText (freqPos.trans (by rw [ho]; rfl)) (freqs.trans (by rw [ho]; rfl))
    (staged.trans (by rw [ho]; rfl)) (commits.trans (by rw [ho]; rfl))

end

/-! ### The winner by the number of its kind -/

theorem Winner.label_iff (w : Winner) : w = .service .label ↔ w.kind.index.val = 1 :=
  ⟨fun h => by rw [h]; rfl, fun h => Winner.label_of (CellKind.index_inj (k' := .label) h)⟩

theorem Winner.freq_iff (w : Winner) : w = .service .freq ↔ w.kind.index.val = 2 :=
  ⟨fun h => by rw [h]; rfl, fun h => Winner.freq_of (CellKind.index_inj (k' := .freq) h)⟩

theorem Winner.text_iff (w : Winner) : w = .service .text ↔ w.kind.index.val = 3 :=
  ⟨fun h => by rw [h]; rfl, fun h => Winner.text_of (CellKind.index_inj (k' := .text) h)⟩

/-! ### The operations by themselves -/

theorem lv_toggles {v : Variant} {a b : OutContent} (h : LabelCommitted v a b) :
    b.lv = a.lv ↔ a.labelShown = v ∧ (a.variant v).staged = none := by
  rw [h.lv]
  split
  next same => exact iff_of_true rfl same
  next changed => exact iff_of_false (bool_differs_from_not _) changed

theorem advanceLabel_moves {o : OutContent} (chars : 1 ≤ o.shownLabel.chars.length)
    (bound : o.shownLabel.chars.length ≤ 18) : o.advanceLabel.labelPos < o.labelTotal ∧ o.labelTotal ≤ 3 ∧
      (o.labelPos + 1 < o.labelTotal → o.advanceLabel.labelPos = o.labelPos + 1) ∧
      (o.labelPos + 1 = o.labelTotal → o.advanceLabel.labelPos = 0) := by
  have moved : o.advanceLabel.labelPos = (o.labelPos + 1) % o.labelTotal := rfl
  have total := labelTotal_eq o
  rw [moved]
  refine ⟨Nat.mod_lt _ (by omega), by omega, Nat.mod_eq_of_lt, fun last => ?_⟩
  rw [last, Nat.mod_self]

/-- Settles O32: the commits by themselves, and those of a running output's boundary. -/
theorem stagedContentCommits : Obligations.StagedContentCommits := by
  refine ⟨fun o v hv => ?_, fun s t p v a b kind row empty run enabled ha hb hv hkind => ?_⟩
  · subst hv
    refine ⟨rfl, rfl, commitLabel_later, fun zero => ?_, fun chars bound _ => advanceLabel_moves chars bound⟩
    have committed := commitLabel_committed zero
    exact ⟨committed.shown, committed.live, committed.unstaged, commitLabel_texts o _, lv_toggles committed,
      committed.counted⟩
  · subst ha hb
    obtain ⟨o, ho⟩ : ∃ o, o = (s.out p).updateSource ((s.outCfg p).regId != 0) := ⟨_, rfl⟩
    have active : o.source.variant = v := by
      rw [ho, updateSource_variant, hv]
      simp only [bne_iff_ne]
    subst active
    obtain rfl : _ = kind := Option.some.inj ((cellBoundary_sent row enabled).kind.symm.trans hkind)
    have list := boundary_list row empty run enabled ho
    refine ⟨fun label zero => ?_, fun other => ?_, ?_, fun zero waits => ?_, fun rests => ?_, ?_,
      fun codes zero staged => ?_, fun rests => ?_, ?_⟩
    · obtain ⟨shown, live, unstaged, others, lv, counted⟩ :=
        boundary_labelCommits row empty run enabled ho ((Winner.label_iff _).2 label) zero
      exact ⟨shown, live, unstaged, others, lv, counted⟩
    · exact boundary_labelRests row empty run enabled ho
        (other.imp_left fun h label => h ((Winner.label_iff _).1 label))
    · rw [boundary_labelPos row empty run enabled ho]
      exact if_of_iff (Winner.label_iff _)
    · obtain ⟨shown, version, live, unstaged, others, counted⟩ :=
        boundary_textCommits row empty run enabled ho zero waits
      exact ⟨shown, version, live, unstaged, others, counted⟩
    · obtain ⟨shown, version, counted, variants⟩ := boundary_textRests row empty run enabled ho rests
      exact ⟨shown, version, counted, variants⟩
    · rw [boundary_textPos row run enabled]
      exact if_of_iff (Winner.text_iff _)
    · rw [commitFreqs_zero staged zero] at list
      exact list
    · rw [commitFreqs_rests rests] at list
      exact list
    · rw [boundary_freqPos row run enabled]
      exact if_of_iff (Winner.freq_iff _)

end Sys2Proof.Machine

/-! PROOFS. Run states, sources and the monitor at a boundary (R11 to R15, R36, R114). -/

namespace Sys2Proof.Machine

/-! ### Run states (R13, R14) -/

theorem changeRun_others (L : Table 4 Lane) (O : Table 4 OutContent) (p : OutId) (s : State) :
    { changeRun p s with lanes := L, content := { (changeRun p s).content with outs := O } } =
      { s with lanes := L, content := { s.content with outs := O } } := by
  unfold changeRun
  split <;> rfl

/-- The run states of all outputs follow their enables at once. -/
theorem changeRuns_eq (s : State) : s.eachOut changeRun = { s with
    lanes := .tabulate fun p => runLane (s.outCfg p).enable (s.lane p)
    content := { s.content with
      outs := .tabulate fun p => runOut (s.lane p).run (s.outCfg p).enable (s.out p) } } := by
  have others := eachOut_keeps
    (fun u : State => { u with
      lanes := (s.eachOut changeRun).lanes, content := { u.content with outs := (s.eachOut changeRun).content.outs } })
    changeRun (changeRun_others _ _) s
  have lanes : (s.eachOut changeRun).lanes = .tabulate fun p => runLane (s.outCfg p).enable (s.lane p) :=
    Table.eq_of_get fun p => by
      rw [Table.get_tabulate]
      exact (changeRuns_at p s).1
  have outs : (s.eachOut changeRun).content.outs =
      .tabulate fun p => runOut (s.lane p).run (s.outCfg p).enable (s.out p) :=
    Table.eq_of_get fun p => by
      rw [Table.get_tabulate]
      exact (changeRuns_at p s).2
  refine Eq.trans (Eq.trans rfl others) ?_
  rw [lanes, outs]

/-- Two states that differ in the lanes and contents of their outputs, and whose outputs stand the same once their run
states have changed. -/
structure SameRuns (s t : State) : Prop where
  others : t = { s with lanes := t.lanes, content := { s.content with outs := t.content.outs } }
  lane : ∀ p, runLane (s.outCfg p).enable (t.lane p) = runLane (s.outCfg p).enable (s.lane p)
  out : ∀ p, runOut (t.lane p).run (s.outCfg p).enable (t.out p) =
    runOut (s.lane p).run (s.outCfg p).enable (s.out p)

theorem SameRuns.changeRuns {s t : State} (h : SameRuns s t) : t.eachOut changeRun = s.eachOut changeRun := by
  have cfg : ∀ p, t.outCfg p = s.outCfg p := fun p => by rw [h.others]; rfl
  have lanes : (fun p => runLane (t.outCfg p).enable (t.lane p)) = fun p => runLane (s.outCfg p).enable (s.lane p) :=
    funext fun p => by rw [cfg, h.lane]
  have outs : (fun p => runOut (t.lane p).run (t.outCfg p).enable (t.out p)) =
      fun p => runOut (s.lane p).run (s.outCfg p).enable (s.out p) := funext fun p => by rw [cfg, h.out]
  rw [changeRuns_eq, changeRuns_eq, lanes, outs, h.others]

theorem judgeCell_others (s : State) (L : Table 4 Lane) (c : Content) :
    judgeCell { s with lanes := L, content := c } = { judgeCell s with lanes := L, content := c } := by
  unfold judgeCell
  simp only
  split
  · rfl
  · rfl

theorem SameRuns.judged {s t : State} (h : SameRuns s t) (new : Count) (arm : Option Count) (marked : Bool) :
    SameRuns ((judgeCell s).modTb (Timebase.beginCell new arm marked))
      ((judgeCell t).modTb (Timebase.beginCell new arm marked)) := by
  have same : ∀ {α : Type} (g : State → α), (∀ s tb draws, g { s with tb := tb, draws := draws } = g s) →
      ∀ u, g ((judgeCell u).modTb (Timebase.beginCell new arm marked)) = g u :=
    fun g hg u => setUp_keeps new arm marked u g hg
  have lanes : ∀ u p, ((judgeCell u).modTb (Timebase.beginCell new arm marked)).lane p = u.lane p :=
    fun u p => same (·.lane p) (fun _ _ _ => rfl) u
  have outs : ∀ u p, ((judgeCell u).modTb (Timebase.beginCell new arm marked)).out p = u.out p :=
    fun u p => same (·.out p) (fun _ _ _ => rfl) u
  have cfg : ∀ u p, ((judgeCell u).modTb (Timebase.beginCell new arm marked)).outCfg p = u.outCfg p :=
    fun u p => same (·.outCfg p) (fun _ _ _ => rfl) u
  refine ⟨?_, fun p => by rw [lanes, lanes, cfg, h.lane], fun p => by rw [lanes, lanes, outs, outs, cfg, h.out]⟩
  have content : ∀ u, ((judgeCell u).modTb (Timebase.beginCell new arm marked)).content = u.content :=
    fun u => same (·.content) (fun _ _ _ => rfl) u
  have table : ∀ u, ((judgeCell u).modTb (Timebase.beginCell new arm marked)).lanes = u.lanes :=
    fun u => same (·.lanes) (fun _ _ _ => rfl) u
  rw [content, content, table]
  have judged : judgeCell t =
      { judgeCell s with lanes := t.lanes, content := { s.content with outs := t.content.outs } } := by
    rw [← judgeCell_others, ← h.others]
  rw [judged]
  rfl

theorem SameRuns.boundaryAt {s t : State} (h : SameRuns s t) (o : Order) (expected new : Count) (arm : Option Count)
    (marked : Bool) : Sys2Proof.Machine.boundaryAt o expected new arm marked t =
      Sys2Proof.Machine.boundaryAt o expected new arm marked s := by
  have tables : beforeTables expected new arm marked t = beforeTables expected new arm marked s := by
    unfold beforeTables
    rw [(h.judged new arm marked).changeRuns]
  have start : t.tb = s.tb := by rw [h.others]
  rw [boundaryAt_eq, boundaryAt_eq, beforeCells, beforeCells, tables, start]

theorem SameRuns.cellBoundary {s t : State} (h : SameRuns s t) : exec .cellBoundary t = exec .cellBoundary s := by
  obtain ⟨u, hu⟩ : ∃ u, exec .cellBoundary t = .next u := ⟨_, rfl⟩
  obtain ⟨v, hv⟩ : ∃ v, exec .cellBoundary s = .next v := ⟨_, rfl⟩
  have tb : t.tb = s.tb := by rw [h.others]
  have settings : t.settings = s.settings := by rw [h.others]
  rw [hu, hv, exec_cellBoundary hu, exec_cellBoundary hv, tb, settings, h.boundaryAt]

/-- The starting state of a run (R13). -/
def entered (p : OutId) (s : State) : State :=
  (s.modLane p fun ln => { ln with run := true, seq := ln.seq.startRun, sched := ln.sched.startRun }).modOut p
    OutContent.startRun

theorem entered_runs {s : State} {p : OutId} (off : (s.lane p).run = false) (enabled : (s.outCfg p).enable = true) :
    SameRuns s (entered p s) := by
  refine ⟨rfl, fun q => ?_, fun q => ?_⟩
  · rcases equal_or_other p q with rfl | other
    · have lane : (entered p s).lane p =
          { s.lane p with run := true, seq := (s.lane p).seq.startRun, sched := (s.lane p).sched.startRun } :=
        State.modLane_lane_self ..
      rw [lane, enabled]
      unfold runLane
      rw [off]
    · have lane : (entered p s).lane q = s.lane q := (State.modLane_lane _ p q _).trans (if_neg other)
      rw [lane]
  · rcases equal_or_other p q with rfl | other
    · have lane : ((entered p s).lane p).run = true := congrArg Lane.run (State.modLane_lane_self ..)
      have out : (entered p s).out p = (s.out p).startRun := State.modOut_out_self ..
      rw [lane, out, off, enabled]
      rfl
    · have lane : (entered p s).lane q = s.lane q := (State.modLane_lane _ p q _).trans (if_neg other)
      have out : (entered p s).out q = s.out q := (State.modOut_out _ p q _).trans (if_neg other)
      rw [lane, out]

/-! ### Outputs that are off -/

section
variable {s t : State} {p : OutId} (row : exec .cellBoundary s = .next t) (off : (s.outCfg p).enable = false)
include row off

theorem cellBoundary_leaves (run : (s.lane p).run = true) : t.lane p = {
    run := false
    asm := ({ (s.lane p).asm with cell := none }).beginBit 0
    seq := (s.lane p).seq.leaveRun
    sched := (s.lane p).sched } := by
  obtain ⟨f, lane⟩ := cellsOf_lane s p
  have left : runLane (s.outCfg p).enable (s.lane p) = { s.lane p with
      run := false, seq := (s.lane p).seq.leaveRun, asm := { (s.lane p).asm with cell := none } } := by
    unfold runLane
    rw [run, off]
  rw [left] at lane
  rw [cellBoundary_off row off, lane]
  rfl

theorem cellBoundary_staysOff (run : (s.lane p).run = false) : ∃ f, t.lane p = { s.lane p with
    asm := (s.lane p).asm.beginBit 0
    seq := { (s.lane p).seq with current := (s.lane p).seq.current.map f } } := by
  obtain ⟨f, lane⟩ := cellsOf_lane s p
  have stays : runLane (s.outCfg p).enable (s.lane p) = s.lane p := by
    unfold runLane
    rw [run, off]
  rw [stays] at lane
  exact ⟨f, by rw [cellBoundary_off row off, lane]⟩

/-- An output that is not enabled rests after a boundary (R13). -/
theorem cellBoundary_rests (pins : (s.lane p).pinsFollow) : (t.lane p).run = false ∧ (t.lane p).asm.dck = false ∧
    (t.lane p).asm.cell = none ∧ (t.lane p).asm.dout = false ∧ (t.lane p).seq.phase = .quiet ∧
    (t.lane p).seq.co = false := by
  cases run : (s.lane p).run with
  | true =>
    rw [cellBoundary_leaves row off run]
    exact ⟨rfl, rfl, rfl, rfl, rfl, rfl⟩
  | false =>
    obtain ⟨follows, still⟩ := pins
    obtain ⟨cell, _, _, phase⟩ := still run
    obtain ⟨f, lane⟩ := cellBoundary_staysOff row off run
    have co : (s.lane p).seq.co = false := by rw [follows, phase]; rfl
    rw [lane]
    refine ⟨run, rfl, cell, ?_, phase, co⟩
    exact (beginBit_dout 0 _).trans (by rw [cell])

end

/-! ### Running outputs -/

theorem first_guard_bit (c : Cell) : c.bits.getMsbD 0 = true := by
  obtain ⟨guard, _⟩ := c.bits_fields
  exact (guard 0 (by decide)).trans (by decide)

theorem beginBit_cell (i : Nat) (a : Assembler) : (a.beginBit i).cell = a.cell := rfl

theorem cellBoundary_begins {s t : State} {p : OutId} (row : exec .cellBoundary s = .next t)
    (enabled : (s.outCfg p).enable = true) : (t.lane p).run = true ∧ (t.lane p).asm.dck = false ∧
      (t.lane p).asm.cell ≠ none ∧ (t.lane p).asm.dout = true := by
  have sent := cellBoundary_sent row enabled
  have lane := boundaryAt_laneOf .free s.tb.expected (s.tb.decideNext s.settings.mode).1
    (s.tb.decideNext s.settings.mode).2 s.tb.markNext.isSome s p rfl rfl
  rw [← exec_cellBoundary row] at lane
  obtain ⟨a, ha⟩ : ∃ a : Assembler, (t.lane p).asm = a.beginBit 0 := ⟨_, congrArg Lane.asm lane⟩
  have cell := sent.cell
  refine ⟨sent.run, by rw [ha]; rfl, by rw [cell]; nofun, ?_⟩
  rw [ha, beginBit_cell] at cell
  rw [ha, beginBit_dout, cell]
  exact first_guard_bit _

/-! ### Sources (R36) -/

theorem cellBoundary_face {s t : State} (row : exec .cellBoundary s = .next t) (p : OutId) :
    SameFace ((cellsOf s).out p) (t.out p) := by
  have out := boundaryAt_outOf .free s.tb.expected (s.tb.decideNext s.settings.mode).1
    (s.tb.decideNext s.settings.mode).2 s.tb.markNext.isSome s p (u := cellsOf s) rfl
  rw [← exec_cellBoundary row] at out
  have face := (schedule_same (cellsOf s).claims.table p (turnOf p (cellsOf s))).face
  rw [turnOf_out] at face
  rw [out]
  exact face

/-- What the source's update decides, and the commits after it keep. -/
structure SameSwitch (a b : OutContent) : Prop where
  source : b.source = a.source
  requested : b.requested = a.requested
  switches : b.counters.sourceSwitches = a.counters.sourceSwitches

theorem commitText_switch (o : OutContent) : SameSwitch o o.commitText := by
  unfold OutContent.commitText
  split
  · cases o.source.variant <;> exact ⟨rfl, rfl, rfl⟩
  · exact ⟨rfl, rfl, rfl⟩

theorem commitFreqs_switch (o : OutContent) : SameSwitch o o.commitFreqs := by
  unfold OutContent.commitFreqs
  split
  · split <;> exact ⟨rfl, rfl, rfl⟩
  · exact ⟨rfl, rfl, rfl⟩

theorem SameSwitch.trans {a b c : OutContent} (h : SameSwitch a b) (k : SameSwitch b c) : SameSwitch a c :=
  ⟨k.source.trans h.source, k.requested.trans h.requested, k.switches.trans h.switches⟩

theorem runOut_switch (run enable : Bool) (o : OutContent) : SameSwitch o (runOut run enable o) := by
  unfold runOut
  split <;> exact ⟨rfl, rfl, rfl⟩

theorem updateSource_switch {set : Bool} {a b : OutContent} (h : SameSwitch a b) :
    SameSwitch (a.updateSource set) (b.updateSource set) := by
  unfold OutContent.updateSource
  rw [h.source, h.requested, h.switches]
  exact ⟨rfl, rfl, rfl⟩

theorem cellBoundary_switch {s t : State} (row : exec .cellBoundary s = .next t) (empty : s.queue.entries = [])
    (p : OutId) : SameSwitch ((s.out p).updateSource ((s.outCfg p).regId != 0)) (t.out p) := by
  have out := beforeCells_out .free s.tb.expected (s.tb.decideNext s.settings.mode).1
    (s.tb.decideNext s.settings.mode).2 s.tb.markNext.isSome s p empty
  have face := cellBoundary_face row p
  have cells : SameSwitch ((s.out p).updateSource ((s.outCfg p).regId != 0)) ((cellsOf s).out p) := by
    rw [show (cellsOf s).out p = _ from out]
    have updated := updateSource_switch (set := (s.outCfg p).regId != 0)
      (runOut_switch (s.lane p).run (s.outCfg p).enable (s.out p))
    simp only
    split
    · exact (updated.trans (commitText_switch _)).trans (commitFreqs_switch _)
    · exact updated
  exact cells.trans ⟨face.source, face.requested, face.sourceSwitches⟩

/-! ### The monitor (R15) -/

theorem cellsOf_monitor (s : State) : (cellsOf s).settings.monitor = s.settings.monitor := by
  have same := tableChanges_same .free s.tb.expected (s.tb.decideNext s.settings.mode).1
    (beforeTables s.tb.expected (s.tb.decideNext s.settings.mode).1 (s.tb.decideNext s.settings.mode).2
      s.tb.markNext.isSome s)
  rw [cellsOf, beforeCells, commitTexts_settings, holdPool_settings, updateSources_settings, same.settings,
    beforeTables_settings]

/-- The bit that begins at a boundary finds the monitor selected. -/
theorem selectMonitor_begins {u t : State} (ht : t = beginBits 0 (selectMonitor u)) : t.monitorFollows ∧
    (u.settings.monitor = none → t.monitor.source = none) ∧
    ∀ p, u.settings.monitor = some p → t.monitor.source = if (t.lane p).run = true then some p else none := by
  have source : t.monitor.source = (selectMonitor u).monitor.source := by
    rw [ht]
    exact followMonitor_source _
  have run : ∀ p, (t.lane p).run = (u.lane p).run := fun p => by
    rw [ht, beginBits_lane]
    rfl
  refine ⟨by rw [ht]; exact followMonitor_follows _, fun none => ?_, fun p selected => ?_⟩
  · rw [source, selectMonitor, none]
  · rw [source, selectMonitor, selected, run]

theorem cellBoundary_monitor {s t : State} (row : exec .cellBoundary s = .next t) : t.monitorFollows ∧
    (s.settings.monitor = none → t.monitor.source = none) ∧
    ∀ p, s.settings.monitor = some p → t.monitor.source = if (t.lane p).run = true then some p else none := by
  obtain ⟨u, hu⟩ : ∃ u, t = beginBits 0 (selectMonitor u) := ⟨_, exec_cellBoundary row⟩
  have kept : t.settings = (cellsOf s).settings := (cellBoundary_choices row).settings.trans (afterViews_settings _)
  have monitor : u.settings.monitor = s.settings.monitor := by
    rw [← cellsOf_monitor s, ← kept, hu]
    rfl
  rw [← monitor]
  exact selectMonitor_begins hu

/-! ### The settlement -/

theorem leaveRun_eq (q : Sequencer) : q.leaveRun = {
    phase := .quiet, current := none, lead := 0, trail := 0, burst := 0, view := none, co := false
    counters := { q.counters with
      drops := if q.phase = .quiet then q.counters.drops else satInc q.counters.drops } } := by
  have drops : satIncIf (q.phase != .quiet) q.counters.drops =
      if q.phase = .quiet then q.counters.drops else satInc q.counters.drops := by
    cases q.phase <;> rfl
  rw [← drops]
  rfl

theorem updateSource_source (set : Bool) (o : OutContent) : (o.updateSource set).source =
    if o.requested = .regional ∧ set = true then .regional else .network := rfl

theorem updateSource_switches (set : Bool) (o : OutContent) : (o.updateSource set).counters.sourceSwitches =
    if (o.updateSource set).source = o.source then o.counters.sourceSwitches else satInc o.counters.sourceSwitches := by
  show satIncIf (o.source != (o.updateSource set).source) _ = _
  generalize (o.updateSource set).source = src
  rcases equal_or_other o.source src with rfl | changed
  · rw [bne_self_eq_false, if_pos rfl]
    rfl
  · rw [bne_iff_ne.2 changed, if_neg changed.symm]
    rfl

theorem cellBoundary_source {s t : State} (row : exec .cellBoundary s = .next t) (empty : s.queue.entries = [])
    (p : OutId) :
    (t.out p).source =
      (if (s.out p).requested = .regional ∧ (s.outCfg p).regId ≠ 0 then .regional else .network) ∧
    (t.out p).requested = (t.out p).source ∧
    (t.out p).counters.sourceSwitches =
      (if (t.out p).source = (s.out p).source then (s.out p).counters.sourceSwitches
       else satInc (s.out p).counters.sourceSwitches) := by
  obtain ⟨source, requested, switches⟩ := cellBoundary_switch row empty p
  refine ⟨?_, requested.trans source.symm, ?_⟩
  · rw [source, updateSource_source]
    simp only [bne_iff_ne]
  · rw [switches, updateSource_switches, source]

/-- Settles O31: run state and first bit, the entry into RUN, the source, the exit from RUN, and the monitor. -/
theorem runStateAndSourceFollowTheSettings : Obligations.RunStateAndSourceFollowTheSettings := by
  refine ⟨fun s p pins => ⟨_, rfl, ?_⟩, fun s p off enabled => (entered_runs off enabled).cellBoundary.symm,
    fun s p empty => ⟨_, rfl, cellBoundary_source rfl empty p⟩, fun s t p row off => ⟨fun run => ?_, fun run => ?_⟩,
    fun s t row => ?_⟩
  · cases enabled : (s.outCfg p).enable with
    | false =>
      obtain ⟨stops, dck, cell, dout, phase, co⟩ := cellBoundary_rests rfl enabled pins
      exact ⟨stops, dck, fun _ => ⟨cell, dout, phase, co⟩, nofun⟩
    | true =>
      obtain ⟨runs, dck, cell, dout⟩ := cellBoundary_begins rfl enabled
      exact ⟨runs, dck, nofun, fun _ => ⟨cell, dout⟩⟩
  · rw [cellBoundary_leaves row off run, leaveRun_eq]
    rfl
  · obtain ⟨f, lane⟩ := cellBoundary_staysOff row off run
    rw [lane]
    exact ⟨rfl, rfl, rfl, rfl⟩
  · obtain ⟨follows, idle, copies⟩ := cellBoundary_monitor row
    refine ⟨follows, ?_⟩
    cases selected : s.settings.monitor with
    | none => exact idle selected
    | some p => exact copies p selected

end Sys2Proof.Machine
